-- ==== Sys2Proof/Word.lean ====
section
/-! DEFINITION. The words the manual stores and sends: bytes, and the 16, 32 and 64 bit words of
parameters, message headers and ring memory (R4). -/

namespace Sys2Proof

/-- One byte of ring memory, of a message or of a frame. -/
abbrev Byte := BitVec 8
/-- A 16-bit word: a parameter ID, a TAG, a ring index. -/
abbrev Half := BitVec 16
/-- A 32-bit word: a window word, a deadline, a float32 (R289). -/
abbrev Word := BitVec 32
/-- A 64-bit word: an epoch or a 64-bit result read under R41. -/
abbrev DWord := BitVec 64

end Sys2Proof
end

