-- ==== Sys2Proof/Syntax.lean ====
section
/-! DEFINITION. The commands of the block: one constructor for each row of spec/opcode_table.json,
in the table's order, with the operands that the row's rule names. A mailbox command carries its
header and its raw payload (R86); an event carries what the outside world decides about it. -/

namespace Sys2Proof

/-- The four host interfaces of R72, in the instance order of TXN.STAT. -/
inductive Iface where
  | spi | can | sat | link
  deriving DecidableEq, Repr

/-- The header of a mailbox command (R86). The interface follows from the ring on which the command
arrived (R72, R84, R455, R480). -/
structure Hdr where
  ring : Fin 64
  tag : Half
  inst : Byte
  flags : Byte
  deadline : Word
  seq : Word
  deriving DecidableEq, Repr

/-- A received CAN FD frame that passed the protocol's own CRC (R100, R101): identifier, whether it
is an FD frame, whether it is a remote frame, and its data bytes. -/
structure CanFrame where
  ident : BitVec 29
  fd : Bool
  remote : Bool
  data : List Byte
  deriving DecidableEq, Repr

/-- A received Dexlia frame whose check passed (R442): the port it came in on, header fields,
payload, and the stamp of its /S/ in fractions before the present tick. -/
structure Frame where
  port : Fin 3
  dst : Byte
  src : Byte
  flags : Byte
  seq : Half
  payload : List Byte
  sAgo : Half
  deriving DecidableEq, Repr

/-- What a debug halt stops (R171, R481): the supervisor pair and the engine, or the satellite core
alone. -/
inductive HaltScope where
  | full | satellite
  deriving DecidableEq, Repr

/-- What made the read on which an uncorrectable error was found (R431). -/
inductive Reader where
  | engine | core | scan | scrub
  deriving DecidableEq, Repr

/-- Why a Dexlia frame was rejected (R443, R446, R447): CRC, MAC or a missing or replayed MAC, an
unlisted type, or an end with /V/. -/
inductive FrameFault where
  | crc | auth | badType | cut
  deriving DecidableEq, Repr

/-- The units whose block reset FLT.REACT may select (R402). -/
inductive BlkUnit where
  | bridge (b : Fin 4) | pair (b : Fin 4) | wp | pos | eng | loss | hk | spi | can
  | link (p : Fin 3) | chk | trng
  deriving DecidableEq, Repr

/-- Comparator results of a self-test, bit n for comparator code n of CD, DA and DB (R348, R351):
the codes that stayed inactive and those that stayed active. -/
structure SelftestResult where
  offCd : Byte
  onCd : Byte
  offDa : BitVec 26
  onDa : BitVec 26
  offDb : BitVec 26
  onDb : BitVec 26
  deriving DecidableEq, Repr

/-- The instruction that a precise sample records (R500). -/
structure SampleInsn where
  pc : Word
  insn : Word
  lat : Half
  wasted : Bool
  user : Bool
  deriving DecidableEq, Repr

/-- The commands, one constructor for each row of the table of operations and events. -/
inductive Instr where
  /-- PING (R96): Command that returns the current 64-bit epoch. -/
  | ping (h : Hdr) (pl : List Byte)
  /-- PARAM_READ (R95): Command that reads a list of parameter items, checked in order; on the first failing item it stops and returns no data. -/
  | paramRead (h : Hdr) (pl : List Byte)
  /-- PARAM_WRITE (R105): Command that writes parameter items; inside an open transaction it stages them, and with no transaction open it runs as an implicit transaction of its own (R109). -/
  | paramWrite (h : Hdr) (pl : List Byte)
  /-- SYS_RESET (R17): Command that writes its response and then requests a chip reset, which waits while any drive runs above FOC.ASC_SPEED. -/
  | sysReset (h : Hdr) (pl : List Byte)
  /-- PWR_SET (R49): Command that moves the device between NEW, CRESCENT, HALF and FULL, or refuses the move, following the transition table. -/
  | pwrSet (h : Hdr) (pl : List Byte)
  /-- TXN_BEGIN (R104): Command that opens a transaction on the sending interface and starts its idle timer. -/
  | txnBegin (h : Hdr) (pl : List Byte)
  /-- TXN_COMMIT (R111): Command that validates the staged pairs against the running configuration and then either applies them all on one tick or applies none. -/
  | txnCommit (h : Hdr) (pl : List Byte)
  /-- TXN_ROLLBACK (R117): Command that discards every staged pair and closes the transaction. -/
  | txnRollback (h : Hdr) (pl : List Byte)
  /-- TRIP_CLEAR (R167): Command that clears the latch of trip input t, or refuses with cause_active while the input is still active. -/
  | tripClear (h : Hdr) (pl : List Byte)
  /-- ADC_URGENT (R202): Command that runs one HK conversion of a channel at once, or refuses it with dropped when HK is busy or the next round is due first. -/
  | adcUrgent (h : Hdr) (pl : List Byte)
  /-- DRV_START (R252): Deferred command that starts a drive through precharge, listen or the start method, or refuses the start. -/
  | drvStart (h : Hdr) (pl : List Byte)
  /-- DRV_STOP (R282): Deferred command that takes a drive through the ramp, short and off phases to stopped. -/
  | drvStop (h : Hdr) (pl : List Byte)
  /-- ENG_SWAP (R304): Command that swaps the active coefficient bank at the drive's next boundary, optionally copying the new active bank into the inactive one. -/
  | engSwap (h : Hdr) (pl : List Byte)
  /-- CAPTURE_ARM (R316): Deferred command that arms transit capture of a drive's signals or windows into ring 18 + d. -/
  | captureArm (h : Hdr) (pl : List Byte)
  /-- INJECT_SET (R313): Command that stores a test-injection setting for a drive, to start at the next or a given boundary. -/
  | injectSet (h : Hdr) (pl : List Byte)
  /-- SELFTEST (R349): Deferred command that starts the comparator self-test of one die or of all three dies. -/
  | selftest (h : Hdr) (pl : List Byte)
  /-- FLT_CLEAR (R411): Command that clears the named fault records whose causes are gone, item by item, on one tick. -/
  | fltClear (h : Hdr) (pl : List Byte)
  /-- FLT_INJECT (R420): Command that makes one test access through a checker with inverted check bits and reports what was detected. -/
  | fltInject (h : Hdr) (pl : List Byte)
  /-- JOURNAL_READ (R416): Command that returns entries from the journal or from the MRAM mirror, optionally consuming journal entries. -/
  | journalRead (h : Hdr) (pl : List Byte)
  /-- CHK_SCAN (R430): Deferred command that starts a CRC scan of a memory range on check-value unit 0 to 2. -/
  | chkScan (h : Hdr) (pl : List Byte)
  /-- LINK_ENUM (R449): Deferred command on the root that enumerates the Dexlia devices, assigns their IDs and joins them. -/
  | linkEnum (h : Hdr) (pl : List Byte)
  /-- FW_BEGIN (R475): Command that opens a firmware update on a target slot and marks the target invalid. -/
  | fwBegin (h : Hdr) (pl : List Byte)
  /-- FW_CHUNK (R476): Command that writes the next consecutive chunk of an open update to MRAM. -/
  | fwChunk (h : Hdr) (pl : List Byte)
  /-- FW_FINISH (R477): Deferred command that checks the received image (decrypting it first where encrypted) and, when it passes, marks it valid. -/
  | fwFinish (h : Hdr) (pl : List Byte)
  /-- DBG_CHALLENGE (R482): Command that issues a fresh debug-unlock challenge for a requested level. -/
  | dbgChallenge (h : Hdr) (pl : List Byte)
  /-- DBG_RESPONSE (R483): Command that verifies a signed answer to the outstanding challenge and opens debug at its level. -/
  | dbgResponse (h : Hdr) (pl : List Byte)
  /-- TASK_LOAD (R479): Deferred command that verifies a user-task image, copies it into the task's region and optionally starts it. -/
  | taskLoad (h : Hdr) (pl : List Byte)
  /-- PERF_DUMP (R506): Command that copies a core's or the engine's counters into its response. -/
  | perfDump (h : Hdr) (pl : List Byte)
  /-- REGISTER_WRITE (R8): Host write of a parameter that has no row of its own, applied as its Access and Takes effect columns give. -/
  | registerWrite (i : Iface) (id : Half) (inst : Byte) (v : DWord)
  /-- DOORBELL_WRITE (R81): Write of a ring doorbell that moves HEAD or TAIL within 1 µs, or is ignored and counted when out of step. -/
  | doorbellWrite (r : Fin 64) (v : Half)
  /-- RING_ENABLE (R82): Write of EN = 1 to HOST.RING_CFG that checks the ring geometry and enables the ring with HEAD and TAIL at 0. -/
  | ringEnable (r : Fin 64) (cfg : Word)
  /-- RING_DISABLE (R83): Write of EN = 0 to HOST.RING_CFG that disables the ring and discards its unread entries. -/
  | ringDisable (r : Fin 64)
  /-- LOW_WORD_READ (R41): Read of the low word of a 64-bit value, which copies the high word of the same tick into the interface's snapshot. -/
  | lowWordRead (i : Iface) (id : Half) (inst : Byte)
  /-- HIGH_WORD_READ (R41): Read of the high word of a 64-bit value, which returns the snapshot or the live word and may set STALE_HI. -/
  | highWordRead (i : Iface) (id : Half) (inst : Byte)
  /-- LOW_WORD_WRITE (R43): Write of the low word of a writable 64-bit value, which is held until the high-word write. -/
  | lowWordWrite (i : Iface) (id : Half) (inst : Byte) (v : Word)
  /-- HIGH_WORD_WRITE (R43): Write of the high word of a writable 64-bit value, which writes both words on one tick or sets STALE_LO. -/
  | highWordWrite (i : Iface) (id : Half) (inst : Byte) (v : Word)
  /-- UPD_COMMIT (R149): Test-mode write to PWM.UPD_COMMIT that sets the drive's commit flag for the next reload. -/
  | updCommit (d : Fin 4)
  /-- RC_CLEAR (R310): Write of ENG.RC_CTL.CLEAR that zeroes both of the drive's repetitive-controller tables at its next boundary. -/
  | rcClear (d : Fin 4)
  /-- CAP_STOP (R319): Write of ENG.CAP_STOP that ends the drive's transit capture on that tick. -/
  | capStop (d : Fin 4)
  /-- CHK_GO (R428): Write of CHK.CTL.GO that resumes or starts a scan from the unit's written context. -/
  | chkGo (u : Fin 4)
  /-- CHK_HOLD (R428): Write of CHK.CTL.HOLD that stops a running scan after the read cycle in progress and keeps its context. -/
  | chkHold (u : Fin 4)
  /-- CHK_ABORT (R428): Write of CHK.CTL.ABORT that discards the scan context and completes the scan with bad_state. -/
  | chkAbort (u : Fin 4)
  /-- ARB_COMMIT_VIOSKIK (R478): Write of 1 to SEC.ARB_COMMIT that raises anti-rollback counter 0 to the running image's SVN. -/
  | arbCommitVioskik
  /-- ARB_COMMIT_TASKS (R478): Write of 2 to SEC.ARB_COMMIT that raises anti-rollback counter 1 to the highest loaded task SVN. -/
  | arbCommitTasks
  /-- SEC_LOCK (R467): Write of SEC.LOCK that moves the device permanently to the field life-cycle state. -/
  | secLock
  /-- KEY_WR (R467): Write of one word of a key-store slot in provision, allowed once per word. -/
  | keyWr (e : Byte) (v : DWord)
  /-- BOOT_PREF_WRITE (R487): Write of SEC.BOOT_PREF that is stored in its own MRAM word at once and governs from the next boot. -/
  | bootPrefWrite (b : Bool)
  /-- RNG_READ (R484): Read of SEC.RNG that returns 32 fresh random bits, or is refused while TRNG_FAIL is live. -/
  | rngRead (i : Iface)
  /-- FLT_SEL_WRITE (R400): Write of FLT.SEL that copies the selected fault record into the interface's view and updates FLT.FIND. -/
  | fltSelWrite (i : Iface) (sel : Half)
  /-- HOST_DEC_WRITE (R134): Write of FLT.HOST_DEC that applies a host decision to every fault awaiting one with that source path. -/
  | hostDecWrite (path : BitVec 24) (action : BitVec 2)
  /-- HOST_T_WRITE (R131): Write of THERM.HOST_T that supplies host junction temperatures and restarts the slow timeout. -/
  | hostTWrite (g : Fin 12) (v : Word)
  /-- PERF_RUN (R490): Write of PERF.CTL.RUN = 1 that starts all six programmable counters of a core on one tick. -/
  | perfRun (c : Fin 2)
  /-- PERF_STOP (R490): Write of PERF.CTL.RUN = 0 that stops all six programmable counters of a core on one tick. -/
  | perfStop (c : Fin 2)
  /-- PERF_CNT_WRITE (R492): Write of a programmable counter that replaces its value and discards that tick's increments. -/
  | perfCntWrite (e : Fin 12) (v : DWord)
  /-- PORT_EN_WRITE (R441): Write of LINK.PORT_EN that starts training or turns off Dexlia ports. -/
  | portEnWrite (v : BitVec 3)
  /-- SPI_READ_FRAME (R76): SPI read frame that returns window words with a CRC, or zeros with an inverted CRC when refused. -/
  | spiReadFrame (sdi : List Byte)
  /-- SPI_WRITE_FRAME (R75): SPI write frame whose words are all applied on one tick when its CRC passes. -/
  | spiWriteFrame (sdi : List Byte)
  /-- MAILBOX_MESSAGE_TAKEN (R90): Vioskik takes a command from a command ring once its response ring has room for 1,024 bytes, then checks and executes it. -/
  | mailboxMessageTaken (r : Fin 64)
  /-- MSG_TMO_EXPIRY (R89): HEAD has not covered a message within HOST.MSG_TMO, so the message's entries are consumed and it is counted as a format error. -/
  | msgTmoExpiry (r : Fin 64)
  /-- LOST_EVENT_WRITE (R85): Room for two messages returns on a device-produced ring, so a LOST event is written before messages resume. -/
  | lostEventWrite (r : Fin 64)
  /-- NIRQ_HOLDOFF_EXPIRY (R98): HOST.IRQ_HOLDOFF ends, so nIRQ may be asserted again. -/
  | nirqHoldoffExpiry
  /-- CAN_FRAME_RECEIVED (R102): An accepted CAN FD frame carries one segment of a mailbox message into reassembly. -/
  | canFrameReceived (fr : CanFrame)
  /-- CAN_SEG_TMO_EXPIRY (R102): No segment arrives within HOST.CAN_SEG_TMO, so the partial message is discarded and counted. -/
  | canSegTmoExpiry
  /-- CAN_BUS_OFF (R100): The CAN controller enters bus-off, recovers under ISO 11898-1 and counts the event. -/
  | canBusOff
  /-- TXN_IDLE_EXPIRY (R117): TXN.IDLE_MAX expires, so the transaction is rolled back and TXN_EXPIRED is written. -/
  | txnIdleExpiry (i : Iface)
  /-- COMMIT_RESPONSE (R114): The commit response is written once every affected drive has taken the commit. -/
  | commitResponse (i : Iface)
  /-- CONFIG_SAVE_DONE (R116): The MRAM configuration-record write of a SAVE commit completes and TXN_SAVED is written. -/
  | configSaveDone
  /-- SLOW_TMO_EXPIRY (R131): HOST.SLOW_TMO passes without a THERM.HOST_T write, so one late is counted for the owning drive. -/
  | slowTmoExpiry (g : Fin 12)
  /-- DEC_TMO_EXPIRY (R132): HOST.DEC_TMO passes without a host decision, so the configured reaction is taken and a late is counted. -/
  | decTmoExpiry (kind inst : Byte)
  /-- POWER_ON (R49): VBAT rises through 4.5 V, the always-on domain starts and boot begins. -/
  | powerOn
  /-- POWER_LOSS (R49): VBAT falls below 4.0 V and everything turns off. -/
  | powerLoss
  /-- VCORE_BROWNOUT (R515): VCORE stays below 0.95 V for 1 µs, starting a chip reset from loss of supply. -/
  | vcoreBrownout
  /-- NRST_ASSERT (R517): nRST is held low long enough to be accepted, starting a chip reset that lasts while it stays low. -/
  | nrstAssert
  /-- NRST_RELEASE (R517): nRST rises and boot starts. -/
  | nrstRelease
  /-- CHIP_RESET_START (R17): A requested chip reset starts once every drive is below FOC.ASC_SPEED. -/
  | chipResetStart
  /-- BOOT_DONE (R471): Boot completes: the configuration record is loaded, BOOTED is set and BOOT_DONE is written. -/
  | bootDone
  /-- WATCHDOG_EXPIRY (R473): The supervisor watchdog is not served within 10 ms, so SUPV_WDG is raised. -/
  | watchdogExpiry
  /-- WAKE_PIN (R56): The WAKE pin stays active for its filter time and wakes the device from NEW or CRESCENT: its
  level, and the slow-clock cycles for which it has stood; unsaid, high for any filter time. -/
  | wakePin (high : Bool := true) (cycles : Half := 0xFFFF#16)
  /-- CAN_WAKE (R57): The CAN wake detector sees a dominant phase or the wake-up pattern and wakes the device: the
  lengths of a dominant, a recessive and a dominant phase of CRX in 0.1 µs; unsaid, 5.0 µs each, which passes every
  filter. -/
  | canWake (dom : Half := 50#16) (rec_ : Half := 50#16) (dom2 : Half := 50#16)
  /-- WAKE_TIMER_EXPIRY (R58): The wake timer reaches PWR.WAKE_TIMER and wakes the device from CRESCENT. -/
  | wakeTimerExpiry
  /-- HALF_IDLE_EXPIRY (R55): PWR.HALF_IDLE expires, moving the device to CRESCENT or restarting the timer while a wake source is active. -/
  | halfIdleExpiry
  /-- ENTRY_FLUSH_DONE (R53): The entry flush ends, the wake sources stay armed and the PLL stops; a wake latched meanwhile then starts on the next slow-clock cycle. -/
  | entryFlushDone
  /-- MW_SAMPLE (R59): Every 33 slow-clock cycles each watched bridge is sampled for motion edges. -/
  | mwSample (p0 p1 p2 p3 : BitVec 2)
  /-- MW_VDRV_WAIT_EXPIRY (R61): VDRV UVLO has not cleared within PWR.MW_VDRV_WAIT, so MW_UNGUARDED is raised. -/
  | mwVdrvWaitExpiry
  /-- MW_GUARD_START (R61): Once VDRV UVLO is clear, the owning drives enter mw_hold and precharge. -/
  | mwGuardStart
  /-- MW_RELISTEN_EXPIRY (R62): PWR.MW_RELISTEN expires for a drive in active short, so the drive listens again. -/
  | mwRelistenExpiry (d : Fin 4)
  /-- MW_QUIET_EXPIRY (R63): No motion is seen for PWR.MW_QUIET after a motion wake, so the device returns to CRESCENT through HALF. -/
  | mwQuietExpiry
  /-- BG_CHUNK_START (R70): With the supervisor free, the budget scheduler picks and starts the first ready task that passes both accounts. -/
  | bgChunkStart
  /-- BG_CHUNK_END (R66): A background chunk runs to its end. -/
  | bgChunkEnd
  /-- BG_WAIT_EXPIRY (R70): A ready task exceeds its longest wait, so the late count rises and BG_LATE is raised. -/
  | bgWaitExpiry (p : Fin 5)
  /-- THROTTLE_PAUSE_END (R71): The throttle pause after a chunk ends. -/
  | throttlePauseEnd
  /-- PERIODIC_CHECK_TIMER (R436): CHK.PER_INT expires and unit 3's periodic scan of the image and configuration copies becomes ready. -/
  | periodicCheckTimer
  /-- MRAM_SCRUB_TIMER (R432): CHK.MRAM_SCRUB_INT expires and the MRAM scrub task becomes ready. -/
  | mramScrubTimer
  /-- XTAL_LOSS (R30): No crystal edge is seen for 4 µs, so the PLL switches to the RC oscillator and XTAL_FAIL is raised. -/
  | xtalLoss
  /-- RELOAD_POINT (R23): At a drive's reload point and sample boundary, the compare set loads, pending parameters take effect and the engine run is released. -/
  | reloadPoint (d : Fin 4)
  /-- COMPARE_EDGE (R140): The carrier count reaches a compare, changing the high-side request. -/
  | compareEdge (g : Fin 12) (frac : Fin 32)
  /-- DEAD_TIME_END (R142): A gate's dead time ends and its pending turn-on takes place. -/
  | deadTimeEnd (g : Fin 12)
  /-- SYNC_CHAIN_WRAP (R153): The chain counter wraps and provides the sync-chain reference. -/
  | syncChainWrap
  /-- SYNC_IN_EDGE (R158): A filtered SYNC_IN edge provides the chain reference: how long ago its raw edge was, in ticks
  and fractions, and its direction; unsaid, rising. -/
  | syncInEdge (rawAgo : Half) (frac : Fin 32) (rising : Bool := true)
  /-- SYNC_PULSE (R155): Pulse P_b falls and lock drives correct or reset their counters. -/
  | syncPulse (b : Fin 4)
  /-- SYNC_LOSS_TIMEOUT (R157): No pulse reaches a lock drive for two SYNC_PERIODs, so SYNC_LOSS is raised. -/
  | syncLossTimeout (d : Fin 4)
  /-- TRIP_RAW_EDGE (R38): A raw edge on a TRIP input is stamped with epoch and fraction. -/
  | tripRawEdge (t : Fin 8) (level : Bool) (frac : Fin 32)
  /-- TRIP_FILTERED_EDGE (R163): The trip filter completes, the latch sets and the mapped generators go to their safe level. -/
  | tripFilteredEdge (t : Fin 8)
  /-- DEBUG_HALT (R171): A debug halt freezes the counters and unguarded generators and forces the guarded set to safe levels. -/
  | debugHalt (c : HaltScope)
  /-- DEBUG_RESUME (R174): Resume continues the counters and dead times and writes DBG_RESUMED. -/
  | debugResume
  /-- ADC_SAMPLE (R178): A fast converter delivers a sample to the window picker, bus block and position block. -/
  | adcSample (k : Fin 8) (code : BitVec 14) (orng : Bool)
  /-- WINDOW_DELIVERED (R26): The window picker delivers a window's value 200 ns after the window closes. -/
  | windowDelivered (b : Fin 4)
  /-- VBUS_AGE_EXPIRY (R194): No valid VBUS sample arrives within ADC.VBUS_AGE_MAX, so VBUS_STALE is raised. -/
  | vbusAgeExpiry (b : Fin 4)
  /-- HK_ROUND_START (R200): ADC.HK_PERIOD expires and a housekeeping round starts, late if the previous round still runs. -/
  | hkRoundStart
  /-- HK_CONVERSION_DONE (R198): An HK conversion ends and its result is written. -/
  | hkConversionDone (code : Half)
  /-- POS_INPUT_EDGE (R229): A filtered position-input change gives a Hall, encoder or index event to the tracker. -/
  | posInputEdge (p : Fin 12) (level : Bool) (rawAgo : Half)
  /-- POS_ZERO_TMO (R235): No position event comes for POS.ZERO_TMO, so speed goes to 0 or HALL_BAD is raised. -/
  | posZeroTmo (d : Fin 4)
  /-- ZC_COMPARATOR_EDGE (R254): A zero-crossing comparator edge during a listen is taken as a crossing. -/
  | zcComparatorEdge (b : Fin 4) (line : Fin 3) (rising : Bool) (frac : Fin 32)
  /-- PRECHARGE_ELAPSED (R253): GATE.PRECHARGE elapses and the drive listens or enters its start method. -/
  | prechargeElapsed (d : Fin 4)
  /-- LISTEN_EXPIRY (R254): POS.LISTEN expires and the listen result is acted on. -/
  | listenExpiry (d : Fin 4)
  /-- ALIGN_ELAPSED (R248): POS.ALIGN_T elapses and the tracker is set to the alignment angle. -/
  | alignElapsed (d : Fin 4)
  /-- OL_T_MAX_EXPIRY (R250): Handover has not happened within POS.OL_T_MAX, so START_FAIL is raised. -/
  | olTMaxExpiry (d : Fin 4)
  /-- ASC_STEP_EXPIRY (R255): A brake or loss-brake step ends, or a short listens again, and a new listen starts. -/
  | ascStepExpiry (d : Fin 4)
  /-- BRAKE_MAX_EXPIRY (R256): Time in brake and loss_brake exceeds POS.BRAKE_MAX, so FLY_FAIL is raised. -/
  | brakeMaxExpiry (d : Fin 4)
  /-- STOP_T_MAX_EXPIRY (R283): FOC.STOP_T_MAX elapses and the ramp phase of a stop ends. -/
  | stopTMaxExpiry (d : Fin 4)
  /-- SOFT_T_MAX_EXPIRY (R286): FOC.SOFT_T_MAX elapses and a soft_off floats the generators and stops the drive. -/
  | softTMaxExpiry (d : Fin 4)
  /-- ENG_RUN_START (R293): A free lane takes the released run with the earliest deadline. -/
  | engRunStart (l : Fin 2)
  /-- ENG_RUN_FINISH (R295): A run finishes and, when in time, writes the shadows and sets the commit flag. -/
  | engRunFinish (l : Fin 2)
  /-- ENG_DEADLINE_MISS (R296): A run passes its deadline and is counted as an overrun. -/
  | engDeadlineMiss (d : Fin 4)
  /-- DESAT_DETECT (R336): A desaturation detection starts the two-step turn-off and raises DESAT. -/
  | desatDetect (g : Fin 12) (low : Bool) (latched : Half)
  /-- HOC_EDGE (R338): The hardware overcurrent comparator's filtered edge latches trip source 9 and raises HOC. -/
  | hocEdge (b : Fin 4)
  /-- SOFT_TURNOFF_STEP2 (R340): GATE.SOFT_CFG.TIME ends and the gates are pulled fully off. -/
  | softTurnoffStep2 (d : Fin 4)
  /-- VDRV_UV_FALL (R332): A gate rail falls below its UVLO threshold and the die holds its outputs off. -/
  | vdrvUvFall (j : Fin 2)
  /-- VDRV_UV_RISE (R332): A gate rail rises above its rising threshold and the hold ends. -/
  | vdrvUvRise (j : Fin 2)
  /-- BST_UV (R333): A low bootstrap holds GH off while it is commanded on. -/
  | bstUv (g : Fin 12)
  /-- XCMD_DIE (R334): Both request lines of a channel are high for 5 ns, so the die turns the channel off and holds it. -/
  | xcmdDie (g : Fin 12)
  /-- STO_ACTIVE (R345): STOA or STOB is low beyond its filter, so every gate of the die is turned off and latched. -/
  | stoActive (j : Fin 2) (stob : Bool)
  /-- STO_DISC_TIMEOUT (R347): STOA and STOB differ for longer than GATE.STO_DISC_T, so STO_DISC is raised. -/
  | stoDiscTimeout (j : Fin 2)
  /-- SELFTEST_DONE (R353): The last die under test finishes its comparator tests and the results are written. -/
  | selftestDone (res : SelftestResult)
  /-- UV_FILT_EXPIRY (R360): V_lo stays below UV1 or UV2 for BUS.UV_FILT, so the undervoltage level becomes active. -/
  | uvFiltExpiry (n : Fin 4) (uv2 : Bool)
  /-- OV4_EDGE (R367): The OV4 comparator's filtered edge latches an active short on the group's drives. -/
  | ov4Edge (b : Fin 4)
  /-- OV4_RELEASE (R368): The OV4 comparators have been inactive for BUS.OV4_HOLD, so the latch releases. -/
  | ov4Release (n : Fin 4)
  /-- CHOP_CHECK_EXPIRY (R365): The chopper check expires without passing, so CHOP_FAIL is raised. -/
  | chopCheckExpiry (c : Fin 2)
  /-- CHOP_DESAT (R365): The chopper desaturation comparator detects, turning BK off in two steps. -/
  | chopDesat (c : Fin 2)
  /-- SHDN_RECORD_WRITE (R387): Vioskik writes the thermal shutdown record to MRAM within 1 ms. -/
  | shdnRecordWrite
  /-- PENUMBRA_EXPIRY (R409): A penumbra expires and covered live level detectors report. -/
  | penumbraExpiry
  /-- MIRROR_WRITE (R418): A class A or B report is written to an MRAM mirror slot within 1 ms. -/
  | mirrorWrite
  /-- JOURNAL_TAIL_ENTRY (R415): The journal has room again, so the tail entry of lost reports is entered. -/
  | journalTailEntry
  /-- INJ_TIMEOUT (R421): The expected injected report has not come within 10 µs, so INJ_MISS is raised and the response is written. -/
  | injTimeout
  /-- ECC_SBE (R431): A read corrects a single-bit error and writes the word back. -/
  | eccSbe (m : Fin 3) (addr : Word)
  /-- ECC_DBE (R431): A read finds a double-bit error and delivers no valid word. -/
  | eccDbe (m : Fin 3) (addr : Word) (by_ : Reader)
  /-- SCRUB_READ (R432): The hardware scrubber reads the next word of SRAM or engine memory. -/
  | scrubRead (eng : Bool)
  /-- LOCKSTEP (R433): The supervisor pair's outputs mismatch, raising LOCKSTEP. -/
  | lockstep
  /-- PORT_UP (R441): Training completes with a delay exchange and the port becomes up. -/
  | portUp (p : Fin 3) (inverted : Bool)
  /-- PORT_DOWN (R441): A port loses synchronisation and LINK_DOWN is raised. -/
  | portDown (p : Fin 3)
  /-- DLY_RESP_TIMEOUT (R441): No DLY_RESP arrives within 3 × LINK.DLY_INT, so the port goes down. -/
  | dlyRespTimeout (p : Fin 3)
  /-- DLY_REQ_TIMER (R452): LINK.DLY_INT expires and the port sends DLY_REQ. -/
  | dlyReqTimer (p : Fin 3)
  /-- SYNC_SEND_TIMER (R453): The root sends SYNC every LINK.SYNC_INT. -/
  | syncSendTimer
  /-- SYNC (R453): A follower takes a SYNC frame, computes its error and steps or slews its epoch. -/
  | sync (f : Frame)
  /-- SYNC_MISSING_TIMEOUT (R453): No SYNC arrives for 3 × SYNC_INT, or acquisition exceeds 64 × SYNC_INT, so LINK_SYNC becomes live. -/
  | syncMissingTimeout
  /-- DLY_REQ (R452): A DLY_REQ frame is answered with DLY_RESP. -/
  | dlyReq (f : Frame)
  /-- DLY_RESP (R452): A DLY_RESP frame gives the link delay, which is written to LINK.DLY. -/
  | dlyResp (f : Frame)
  /-- HEAL (R450): A HEAL frame swaps upstream and downstream roles around a ring failure. -/
  | heal (f : Frame)
  /-- REPORT (R460): A member REPORT frame is used by the home run or discarded as late. -/
  | report (f : Frame)
  /-- DUTY (R461): A DUTY frame writes the member's shadows and sets its commit flag, or is discarded as late. -/
  | duty (f : Frame)
  /-- HA (R456): An HA frame is taken into a bound host-assisted ring or dropped. -/
  | ha (f : Frame)
  /-- MBOX (R455): An MBOX frame carries one mailbox segment into reassembly. -/
  | mbox (f : Frame)
  /-- TROUBLE (R462): A TROUBLE frame from a member makes the home write event 0x5B10. -/
  | trouble (f : Frame)
  /-- ACK (R448): An ACK frame ends the retransmission of a class 3 frame. -/
  | ack (f : Frame)
  /-- ENUM (R449): An ENUM frame sets the upstream port, is forwarded and is answered with ENUM_REPLY. -/
  | enum (f : Frame)
  /-- ENUM_REPLY (R449): The root collects an ENUM_REPLY. -/
  | enumReply (f : Frame)
  /-- JOIN (R449): A JOIN frame assigns the device its ID, its port roles and the tree. -/
  | join (f : Frame)
  /-- GANG (R458): A GANG frame starts or stops a member drive, which answers with GANG_ACK. -/
  | gang (f : Frame)
  /-- GANG_ACK (R458): The home collects a member's GANG_ACK. -/
  | gangAck (f : Frame)
  /-- RETX_TMO_EXPIRY (R448): No ACK arrives within LINK.RETX_TMO, so the frame is repeated or dropped. -/
  | retxTmoExpiry (p : Fin 3)
  /-- ENUM_COLLECT_END (R449): The 2 ms reply collection ends and the root assigns IDs and sends JOIN. -/
  | enumCollectEnd
  /-- GANG_ACK_TIMEOUT (R458): A GANG_ACK is missing or not ok after 1 ms, so the start ends with bad_state. -/
  | gangAckTimeout (d : Fin 4)
  /-- REPORT_WAIT_EXPIRY (R460): A member report is not in by P + LINK.WAIT, so its bridges take status predicted. -/
  | reportWaitExpiry (d : Fin 4)
  /-- PORT_FREE (R444): An egress port becomes free and sends its next waiting frame. -/
  | portFree (p : Fin 3)
  /-- MBOX_SEG_TIMEOUT (R444): No Dexlia segment arrives within 1 ms, so the partial message is discarded. -/
  | mboxSegTimeout (src : Byte)
  /-- UPSTREAM_CLOCK_LOSS (R451): The upstream receive clock is lost and the PLL returns to the device's own reference. -/
  | upstreamClockLoss
  /-- FW_TMO_EXPIRY (R476): No chunk arrives for SEC.FW_TMO, so the update is abandoned. -/
  | fwTmoExpiry
  /-- FW_FINISH_COMPLETE (R477): The image check ends and the completion event carries its status and SVN. -/
  | fwFinishComplete
  /-- TASK_LOAD_COMPLETE (R479): The task image check and copy end and event 0x5C06 is written. -/
  | taskLoadComplete
  /-- TRNG_HEALTH_FAIL (R484): A TRNG health test fails, TRNG_FAIL becomes live and the DRBG stops. -/
  | trngHealthFail
  /-- TRNG_RETEST (R484): The 10 ms health retest runs and clears TRNG_FAIL after 1,024 passing samples. -/
  | trngRetest (passed : Bool)
  /-- PERF_OVERFLOW (R496): A programmable counter wraps, setting its PERF.OVF bit and signalling when IRQ is set. -/
  | perfOverflow (e : Fin 12) (two : Bool)
  /-- PERF_SAMPLE (R499): Every SAMPLE_N-th occurrence of the event takes a sample record. -/
  | perfSample (c : Fin 2) (r : SampleInsn)
  /-- PERF_DUMP_TICK (R502): The epoch reaches a multiple of the dump interval and the enabled sources are dumped. -/
  | perfDumpTick
  /-- STO_RELEASE (R347): STOA or STOB returns high, ending the low level that keeps STO_ACT live and the STOA/STOB discrepancy. -/
  | stoRelease (stob : Bool)
  /-- HOC_RELEASE (R338): The filtered hardware overcurrent comparator output goes inactive, clearing LIVE of HOC and its cause for FLT_CLEAR. -/
  | hocRelease (b : Fin 4)
  /-- OV4_COMPARATOR_INACTIVE (R368): An OV4 comparator's filtered output goes inactive, clearing BUS_OV4 LIVE and starting the BUS.OV4_HOLD interval. -/
  | ov4ComparatorInactive (b : Fin 4)
  /-- BLOCK_RESET_DONE (R16): A block reset of a unit completes within 2 µs and is stamped, releasing the bridge's safe levels or starting the converter pair's 8 invalid samples. -/
  | blockResetDone (u : BlkUnit)
  /-- CAN_ERROR_PASSIVE (R100): The CAN FD controller enters error-passive, sets ESI on its frames and sets GSTAT.CAN_ERR. -/
  | canErrorPassive
  /-- FRAME_CRC_FAIL (R446): A Dexlia frame arrives whose CRC or MAC fails or whose type is unlisted; it is rejected, may be cut with /V/, and LINK_CRC or LINK_AUTH is raised. -/
  | frameCrcFail (p : Fin 3) (why : FrameFault)
  /-- USER_MODE_ACCESS_FAULT (R480): A user task makes an access outside its permissions, which stops the task and sets SEC.TASK_STAT.FAULT. -/
  | userModeAccessFault (t : Fin 8)
  deriving DecidableEq, Repr

end Sys2Proof
end

