-- ==== Sys2Proof/Decode.lean ====
section
/-! DEFINITION. The table of operations and events gives no row any bits: the block takes commands, not
words, so no word spells one. -/

namespace Sys2Proof

/-- The command that a word of `nbits` bits spells by the table's bits: none, since no row of the table
gives bits. -/
def decodeTableWord (_ _ : Nat) : Option Instr := none

end Sys2Proof
end

