-- ==== Sys2Proof/Machine/Bits.lean ====
section
/-! DEFINITION. Fields of packed parameters (R4, R5), little-endian bytes (R4), the saturating
counters of every parameter table, and the signed readings of the fixed-point formats (R7). -/

namespace Sys2Proof.Machine

/-- Field of `w` bits whose least significant bit is bit `lo` (R4). -/
def bits (v lo w : Nat) : Nat := (v >>> lo) % 2 ^ w

/-- Bit `n` of a register (R4). -/
def bit (v n : Nat) : Bool := v.testBit n

/-- `v` with the field of `w` bits from bit `lo` replaced by `x`. -/
def putBits (v lo w x : Nat) : Nat :=
  v % 2 ^ lo + (x % 2 ^ w) * 2 ^ lo + (v / 2 ^ (lo + w)) * 2 ^ (lo + w)

/-- `v` with bit `n` set to `b`. -/
def putBit (v n : Nat) (b : Bool) : Nat := putBits v n 1 b.toNat

/-- One step of a counter that saturates at `top` (every "count, saturating at" row). -/
def satInc (top v : Nat) : Nat := if v < top then v + 1 else top

/-- `k` counts on a counter that saturates at `top`. -/
def satAdd (top v k : Nat) : Nat := if v + k ≤ top then v + k else top

/-- The top value of the 8, 16 and 32 bit saturating counters. -/
def top8 : Nat := 0xFF
def top16 : Nat := 0xFFFF
def top32 : Nat := 0xFFFFFFFF

/-- `n` little-endian bytes of `v` (R4). -/
def leBytes : Nat → Nat → List Byte
  | 0, _ => []
  | n + 1, v => BitVec.ofNat 8 v :: leBytes n (v / 256)

/-- The number that little-endian bytes hold (R4). -/
def leNat : List Byte → Nat
  | [] => 0
  | b :: bs => b.toNat + 256 * leNat bs

/-- The number in `n` bytes at offset `off` of a payload, absent bytes reading as 0. -/
def fieldAt (pl : List Byte) (off n : Nat) : Nat := leNat ((pl.drop off).take n)

/-- `n` zero bytes. -/
def zeros (n : Nat) : List Byte := List.replicate n 0#8

/-- Two's-complement reading of a `w`-bit field (sQ formats, R7). -/
def toSigned (w v : Nat) : Int :=
  if v % 2 ^ w < 2 ^ (w - 1) then (v % 2 ^ w : Nat) else (v % 2 ^ w : Nat) - (2 ^ w : Nat)

/-- The `w`-bit two's-complement code of an integer. -/
def ofSigned (w : Nat) (x : Int) : Nat := (x % (2 ^ w : Nat)).toNat

/-- The integer clamped to `[lo, hi]`. -/
def clampInt (lo hi x : Int) : Int := if x < lo then lo else if hi < x then hi else x

/-- The lateness comparison of R44: the event `e` is in time against the limit `l` when
`(e − l) mod 2³²`, read as signed, is 0 or negative. -/
def inTime32 (e l : Nat) : Bool := decide (toSigned 32 ((e + 2 ^ 32 - l % 2 ^ 32) % 2 ^ 32) ≤ 0)

/-- A timeout started on tick `s` with length `t` has expired on tick `now` (R45): its action is
taken on tick `s + t + 1` at the earliest. -/
def expired (s t now : Nat) : Bool := decide (s + t + 1 ≤ now)

/-- Ticks of 5 ns in a number of µs, ms and s (R28 clock tree: 200 MHz). -/
def usTicks (n : Nat) : Nat := 200 * n
def msTicks (n : Nat) : Nat := 200000 * n
def sTicks (n : Nat) : Nat := 200000000 * n

/-- Nearest integer of `a / b`, ties away from zero (R7), for positive `b`. -/
def roundDiv (a : Int) (b : Nat) : Int :=
  let q : Int := ((2 * a.natAbs + b) / (2 * b) : Nat)
  if a < 0 then -q else q

/-- The first `some` of a list of options. -/
def firstSome {α : Type} : List (Option α) → Option α
  | [] => none
  | some a :: _ => some a
  | none :: r => firstSome r

/-- The last `n` items of a list. -/
def lastN {α : Type} (n : Nat) (l : List α) : List α := l.drop (l.length - n)

/-- The number of `true`s among the low `n` bits of `v`. -/
def popCount (n v : Nat) : Nat := ((List.range n).filter (fun i => v.testBit i)).length

/-- The numbers of the set bits of `v` below `n`, ascending. -/
def setBits (n v : Nat) : List Nat := (List.range n).filter (fun i => v.testBit i)

end Sys2Proof.Machine
end

