-- ==== Sys2Proof/Machine/Crc.lean ====
section
/-! DEFINITION. CRC algorithms in the sense of R425, and the two that the interfaces use:
CRC-16/CCITT of R74 and CRC-32C of R86. -/

namespace Sys2Proof.Machine

/-- The low `w` bits of `v` in reverse order (the reflection of R425). -/
def reflect : Nat → Nat → Nat
  | 0, _ => 0
  | w + 1, v => (v % 2) * 2 ^ w + reflect w (v / 2)

/-- The parameters of a CRC algorithm (R425). -/
structure CrcAlg where
  w : Nat
  poly : Nat
  init : Nat
  refin : Bool
  refout : Bool
  xorout : Nat
  deriving DecidableEq, Repr

/-- One data bit enters a register of `w` bits, most significant end first. -/
def crcBit (w poly reg : Nat) (b : Bool) : Nat :=
  let fb := Bool.xor (reg.testBit (w - 1)) b
  let sh := (2 * reg) % 2 ^ w
  if fb then sh ^^^ (poly % 2 ^ w) else sh

/-- The eight bits of a byte, in the order in which they enter. -/
def crcBitsOf (refin : Bool) (x : Nat) : List Bool :=
  if refin then [x.testBit 0, x.testBit 1, x.testBit 2, x.testBit 3, x.testBit 4, x.testBit 5, x.testBit 6, x.testBit 7]
  else [x.testBit 7, x.testBit 6, x.testBit 5, x.testBit 4, x.testBit 3, x.testBit 2, x.testBit 1, x.testBit 0]

/-- One byte enters the running register (R426). -/
def crcByte (a : CrcAlg) (reg : Nat) (b : Byte) : Nat :=
  (crcBitsOf a.refin b.toNat).foldl (crcBit a.w a.poly) reg

/-- The running register after a run of bytes (CHK.CUR of R426). -/
def crcRun (a : CrcAlg) (reg : Nat) (bs : List Byte) : Nat := bs.foldl (crcByte a) reg

/-- Output reflection and final XOR of a running register (CHK.RESULT of R426). -/
def crcFinal (a : CrcAlg) (reg : Nat) : Nat :=
  ((if a.refout then reflect a.w reg else reg % 2 ^ a.w) ^^^ (a.xorout % 2 ^ a.w)) % 2 ^ a.w

/-- The check value of a run of bytes. -/
def crc (a : CrcAlg) (bs : List Byte) : Nat := crcFinal a (crcRun a (a.init % 2 ^ a.w) bs)

/-- The preset algorithms of R425, code 0 to 3. -/
def crc8J1850 : CrcAlg := ⟨8, 0x1D, 0xFF, false, false, 0xFF⟩
def crc16Ccitt : CrcAlg := ⟨16, 0x1021, 0xFFFF, false, false, 0⟩
def crc32Ieee : CrcAlg := ⟨32, 0x04C11DB7, 0xFFFFFFFF, true, true, 0xFFFFFFFF⟩
def crc32c : CrcAlg := ⟨32, 0x1EDC6F41, 0xFFFFFFFF, true, true, 0xFFFFFFFF⟩

/-- CRC-16/CCITT of an SPI frame (R74). -/
def crc16 (bs : List Byte) : Nat := crc crc16Ccitt bs

/-- CRC-32C of a mailbox message (R86). -/
def crc32C (bs : List Byte) : Nat := crc crc32c bs

end Sys2Proof.Machine
end

