-- ==== Sys2Proof/Config.lean ====
section
/-! DEFINITION. What the manual leaves to the part, to its factory data or to a standard it only
names: constants without a body, so that no proof can see a value of them (assumption log 3, 4, 5, 6). -/

namespace Sys2Proof.Config

/-- Free part of the sine and cosine of an angle in uQ0.32 of a turn; R289 bounds their error by
2⁻²⁰, and `Machine.sinTurn`, `Machine.cosTurn` keep that bound. -/
opaque sinFree : Nat → Word
opaque cosFree : Nat → Word
/-- Free part of atan2, in uQ0.32 of a turn; R289 bounds its error by 0.001°, and `Machine.atan2Turn`
keeps that bound. -/
opaque atanFree : Word → Word → Nat
/-- exp and ln of R374 and R378: the manual gives the formulas and no precision. -/
opaque expFree : Word → Word
opaque lnFree : Word → Word
/-- Temperature in °C of a die-diode code: Kearevi's factory tables in MRAM (R198). -/
opaque diodeTemp : Nat → Word
/-- Trim codes that the factory tables give at a CD die temperature in 1/128 °C (R32). -/
opaque rcTrimAt : Int → Half
opaque bgTrimAt : Int → Half
/-- Taps per tick, uQ8.8, that the n-th delay-line calibration measures (R33, R34). -/
opaque dlTaps : Nat → Half
/-- Trim codes from Kearevi's test, any value from 0 to 0xFFFF (R522). -/
opaque rcTrim : Half
opaque bgTrim : Half
/-- LINK.UID of the part before R522's exclusion of the two reserved numbers. -/
opaque uidFree : DWord
/-- FWREL and SVN of the image in slot A before R522's bounds are applied. -/
opaque fwRelFree : Byte
opaque svnFree : Byte
/-- Factory offset of channel A (false) or B (true) of bridge b at gain code g, sQ18.4 (R182). -/
opaque ofsFactory : Bool → Nat → Nat → Word
/-- Word w of key-store slot 0 or 1 as Kearevi wrote it at test (R466). -/
opaque keyFactory : Nat → Nat → DWord
/-- The n-th 32-bit draw from the TRNG (R484). -/
opaque random : Nat → Word
/-- SHA-256 of a run of bytes (R470). -/
opaque sha256 : List Byte → List Byte
/-- ECDSA P-256 verification of a signature over SHA-256 of a message: key, message, signature
(R469, R483). -/
opaque ecdsaOk : List Byte → List Byte → List Byte → Bool
/-- AES-128-GCM decryption: key, nonce, tag, body; none where the tag fails (R477). -/
opaque gcmOpen : List Byte → List Byte → List Byte → List Byte → Option (List Byte)
/-- First 32 bits of AES-128-CMAC: key, message (R447). -/
opaque cmac : List Byte → List Byte → Word
/-- What a part of the device not described in the manual delivers as the n-th free word. -/
opaque freeWord : Nat → Word
/-- Opcode of the event of step 7 of R61, which the manual does not state. -/
opaque mwSpeedOpcode : Half
/-- Offset of task t's image in the task store, from the bytes of the store: the manual does not give
the layout of its task table (R479). -/
opaque taskOffset : List (Nat × Byte) → Nat → Nat

/-- Byte n of the journal entry of a wake, from the epochs at entry and at exit: R414 gives it no layout (R37). -/
opaque wakeEntry : Nat → Nat → Nat → Byte
/-- BASE, SIZE, ESIZE and DIR of a ring of 36 to 47 or 50 to 63, which R525 calls internal, before BASE is bounded
to 0xF_4000 and above. -/
opaque internalRing : Nat → Word

/-- Where the 512 KiB user region lies in SRAM (R479), before it is bounded to SRAM. -/
opaque userRegion : Word
/-- FWREL of an updated Vioskik, from the bytes of its image's header (R6, R477). -/
opaque fwRelOf : List Byte → Byte

end Sys2Proof.Config
end

