-- ==== Sys2Proof/Machine/Float.lean ====
section
/-! DEFINITION. IEEE 754 binary32 as the Orbit engine computes it (R289): rounded to nearest with
ties to even, subnormal results flushed to zero. A value is the 32-bit word that software sees.
An operation on finite operands is exact in integers and rounded once at the end. -/

namespace Sys2Proof.Machine

/-- A float32 word (R289). -/
abbrev F32 := BitVec 32

namespace F32

def signBit (x : F32) : Bool := x.toNat.testBit 31
def expField (x : F32) : Nat := bits x.toNat 23 8
def fracField (x : F32) : Nat := bits x.toNat 0 23

/-- The value is a number: neither an infinity nor a NaN (R299). -/
def finite (x : F32) : Bool := decide (expField x < 255)
def isNaN (x : F32) : Bool := decide (expField x = 255) && decide (fracField x ≠ 0)
def isInf (x : F32) : Bool := decide (expField x = 255) && decide (fracField x = 0)

def nan : F32 := 0x7FC00000#32
def inf (s : Bool) : F32 := if s then 0xFF800000#32 else 0x7F800000#32
def zero (s : Bool) : F32 := if s then 0x80000000#32 else 0#32

/-- Significand of a finite value, as an integer multiple of `2^(exp2 x)`; a subnormal operand keeps
its value (R289 flushes results). -/
def mant (x : F32) : Nat := if expField x = 0 then fracField x else fracField x + 0x800000
/-- Exponent of that significand, offset by 149 so that it is a natural number. -/
def exp2 (x : F32) : Nat := if expField x = 0 then 0 else expField x - 1

/-- The finite value as an integer multiple of 2⁻¹⁴⁹. -/
def toUnits (x : F32) : Int :=
  let m : Int := (mant x * 2 ^ exp2 x : Nat)
  if signBit x then -m else m

/-- Round the positive rational `n / d` to binary32, sign `s`: nearest, ties to even, subnormal
results flushed to zero, overflow to infinity (R289). -/
def ofRatio (s : Bool) (n d : Nat) : F32 :=
  if n = 0 ∨ d = 0 then zero s
  else
    -- `e` with `2^e ≤ n/d < 2^(e+1)`, offset by 400
    let e0 := 400 + Nat.log2 n - Nat.log2 d
    let ge (e : Nat) : Bool := if 400 ≤ e then decide (d * 2 ^ (e - 400) ≤ n) else decide (d ≤ n * 2 ^ (400 - e))
    let e := if ge e0 then e0 else e0 - 1
    -- quotient with 24 bits: `n/d · 2^(23 - (e-400))`
    let num := if e ≤ 423 then n * 2 ^ (423 - e) else n
    let den := if e ≤ 423 then d else d * 2 ^ (e - 423)
    let q := num / den
    let r := num % den
    let q' := if 2 * r < den then q else if 2 * r = den then (if q % 2 = 0 then q else q + 1) else q + 1
    let e' := if q' = 2 ^ 24 then e + 1 else e
    let m := if q' = 2 ^ 24 then 2 ^ 23 else q'
    if e' < 400 - 126 then zero s
    else if 400 + 127 < e' then inf s
    else BitVec.ofNat 32 (s.toNat * 2 ^ 31 + (e' + 127 - 400) * 2 ^ 23 + (m - 2 ^ 23))

/-- Round the integer multiple `u` of `2^-k` to binary32. -/
def ofDyadic (u : Int) (k : Nat) : F32 := ofRatio (decide (u < 0)) u.natAbs (2 ^ k)

/-- Round `n / d` for an integer `n` and a positive `d`. -/
def ofFrac (n : Int) (d : Nat) : F32 := ofRatio (decide (n < 0)) n.natAbs d

def ofInt (n : Int) : F32 := ofFrac n 1
def ofNat (n : Nat) : F32 := ofRatio false n 1

def neg (x : F32) : F32 := x ^^^ 0x80000000#32
def abs (x : F32) : F32 := x &&& 0x7FFFFFFF#32

def add (x y : F32) : F32 :=
  if isNaN x || isNaN y then nan
  else if isInf x then (if isInf y && (signBit x != signBit y) then nan else x)
  else if isInf y then y
  else
    let u := toUnits x + toUnits y
    if u = 0 then zero (signBit x && signBit y) else ofDyadic u 149

def sub (x y : F32) : F32 := add x (neg y)

def mul (x y : F32) : F32 :=
  let s := signBit x != signBit y
  if isNaN x || isNaN y then nan
  else if isInf x || isInf y then
    (if (finite x && decide (mant x = 0)) || (finite y && decide (mant y = 0)) then nan else inf s)
  else ofRatio s (mant x * mant y * 2 ^ (exp2 x + exp2 y)) (2 ^ 298)

def div (x y : F32) : F32 :=
  let s := signBit x != signBit y
  if isNaN x || isNaN y then nan
  else if isInf x then (if isInf y then nan else inf s)
  else if isInf y then zero s
  else if mant y = 0 then (if mant x = 0 then nan else inf s)
  else ofRatio s (mant x * 2 ^ exp2 x) (mant y * 2 ^ exp2 y)

/-- Correctly rounded square root (R289). -/
def sqrt (x : F32) : F32 :=
  if isNaN x then nan
  else if decide (mant x = 0) && finite x then x
  else if signBit x then nan
  else if isInf x then x
  else
    -- x = m·2^(e-149); scale by 2^(2k) so that the root carries more than 24 bits and a sticky bit
    let m := mant x
    let e := exp2 x
    -- make the exponent of the scaled value even: x = a · 2^(-(150 + 80))
    let a := m * 2 ^ (e + 81)
    let r := Nat.sqrt a
    let sticky := if r * r = a then 0 else 1
    ofRatio false (2 * r + sticky) (2 ^ 116)

/-- Comparison of two values that are numbers; a NaN compares false. -/
def lt (x y : F32) : Bool :=
  if isNaN x || isNaN y then false
  else if isInf x then signBit x && !(isInf y && signBit y)
  else if isInf y then !signBit y
  else decide (toUnits x < toUnits y)

def le (x y : F32) : Bool :=
  if isNaN x || isNaN y then false else !(lt y x)

def eq (x y : F32) : Bool := le x y && le y x

def min (x y : F32) : F32 := if isNaN x || isNaN y then nan else if lt y x then y else x
def max (x y : F32) : F32 := if isNaN x || isNaN y then nan else if lt x y then y else x

/-- `clamp(x, lo, hi)` of R269, R271 and R275. -/
def clamp (x lo hi : F32) : F32 := min (max x lo) hi

/-- A value held to a magnitude. -/
def capped (x m : F32) : F32 := clamp x (neg m) m

/-- −1, 0 or +1 (the `sign` of R266). -/
def sign (x : F32) : Int := if isNaN x then 0 else if lt x 0#32 then -1 else if lt 0#32 x then 1 else 0

def one : F32 := 0x3F800000#32
def half : F32 := 0x3F000000#32
def two : F32 := 0x40000000#32

/-- Largest integer not above a finite value; 0 for a value that is not finite. -/
def floorInt (x : F32) : Int := if finite x then toUnits x / (2 ^ 149 : Nat) else 0

/-- Nearest integer, ties away from zero (R7). -/
def roundInt (x : F32) : Int :=
  if finite x then
    let u := toUnits x
    let a : Int := ((u.natAbs + 2 ^ 148) / 2 ^ 149 : Nat)
    if u < 0 then -a else a
  else 0

/-- The value times `2^k`, rounded to the nearest integer, ties away from zero (R7): the code of a
fixed-point format with `k` fractional bits. -/
def toFixed (x : F32) (k : Nat) : Int :=
  if finite x then
    let u := toUnits x
    let a : Int := ((u.natAbs * 2 ^ k + 2 ^ 148) / 2 ^ 149 : Nat)
    if u < 0 then -a else a
  else 0

/-- √3, 2/√3 and 2π rounded to binary32. -/
def sqrt3 : F32 := 0x3FDDB3D7#32
def twoPi : F32 := 0x40C90FDB#32
def pi : F32 := 0x40490FDB#32
def piOver3 : F32 := 0x3F860A92#32

end F32
end Sys2Proof.Machine
end

