-- ==== Sys2Proof/Machine/Sources.lean ====
section
/-! DEFINITION. The fault sources (R422): kind codes, class, type, instances, source path (R12, R15)
and default reactions. -/

namespace Sys2Proof.Machine

/-- The class of a fault source (R393). -/
inductive FClass where
  | a | b | c | d
  deriving DecidableEq, Repr

/-- CLASS as the journal and the record status give it (R414). -/
def FClass.code : FClass → Nat
  | .a => 0 | .b => 1 | .c => 2 | .d => 3

/-- One row of the source table. `n` instances, numbered from 0; `react` is the reset value of
FLT.REACT. -/
structure SourceRow where
  kind : Nat
  cls : FClass
  level : Bool
  n : Nat
  react : Nat
  deriving DecidableEq, Repr

/-! Kind codes. -/
abbrev K.xtalFail : Nat := 0x01
abbrev K.dlCal : Nat := 0x02
abbrev K.mwUnguarded : Nat := 0x08
abbrev K.bgLate : Nat := 0x09
abbrev K.hostLateFault : Nat := 0x10
abbrev K.haFallback : Nat := 0x11
abbrev K.swInternal : Nat := 0x12
abbrev K.supvWdg : Nat := 0x13
abbrev K.lockstep : Nat := 0x14
abbrev K.injMiss : Nat := 0x15
abbrev K.trip : Nat := 0x20
abbrev K.xcmd : Nat := 0x21
abbrev K.syncPhase : Nat := 0x22
abbrev K.syncLoss : Nat := 0x23
abbrev K.guardCfg : Nat := 0x24
abbrev K.adcPlaus : Nat := 0x30
abbrev K.vbusStale : Nat := 0x31
abbrev K.vbusPlaus : Nat := 0x32
abbrev K.adcOrng : Nat := 0x33
abbrev K.hkLate : Nat := 0x34
abbrev K.shuntMiss : Nat := 0x38
abbrev K.hallBad : Nat := 0x40
abbrev K.hallSeq : Nat := 0x41
abbrev K.encErr : Nat := 0x42
abbrev K.encIndex : Nat := 0x43
abbrev K.eclSkip : Nat := 0x44
abbrev K.startFail : Nat := 0x45
abbrev K.flyFail : Nat := 0x46
abbrev K.engOvr : Nat := 0x50
abbrev K.engOvrFault : Nat := 0x51
abbrev K.engNan : Nat := 0x52
abbrev K.desat : Nat := 0x60
abbrev K.hoc : Nat := 0x61
abbrev K.bstUv : Nat := 0x62
abbrev K.vdrvUv : Nat := 0x63
abbrev K.xcmdDie : Nat := 0x64
abbrev K.stoAct : Nat := 0x65
abbrev K.stoDisc : Nat := 0x66
abbrev K.stFail : Nat := 0x67
abbrev K.busUv1 : Nat := 0x70
abbrev K.busUv2 : Nat := 0x71
abbrev K.busOv3 : Nat := 0x72
abbrev K.busOv4 : Nat := 0x73
abbrev K.chopFail : Nat := 0x74
abbrev K.thermWarn : Nat := 0x80
abbrev K.thermThrottle : Nat := 0x81
abbrev K.thermShdn : Nat := 0x82
abbrev K.thermRor : Nat := 0x83
abbrev K.ntcBad : Nat := 0x84
abbrev K.tsensBad : Nat := 0x85
abbrev K.eccSbe : Nat := 0x90
abbrev K.eccDbe : Nat := 0x91
abbrev K.chkCvRepair : Nat := 0x92
abbrev K.chkScan : Nat := 0x93
abbrev K.linkDown : Nat := 0xA0
abbrev K.linkCrc : Nat := 0xA1
abbrev K.linkAuth : Nat := 0xA2
abbrev K.linkLate : Nat := 0xA3
abbrev K.linkSync : Nat := 0xA4
abbrev K.bootFallback : Nat := 0xB0
abbrev K.secAuth : Nat := 0xB1
abbrev K.trngFail : Nat := 0xB2

/-- The source table, ascending by kind code (R422). -/
def sourceTable : List SourceRow := [
  ⟨K.xtalFail, .c, false, 1, 0x01⟩, ⟨K.dlCal, .c, false, 1, 0x01⟩,
  ⟨K.mwUnguarded, .c, false, 1, 0x01⟩, ⟨K.bgLate, .d, false, 1, 0x01⟩,
  ⟨K.hostLateFault, .c, false, 5, 0x41⟩, ⟨K.haFallback, .d, false, 5, 0x01⟩,
  ⟨K.swInternal, .d, false, 1, 0x01⟩, ⟨K.supvWdg, .b, false, 1, 0x11⟩,
  ⟨K.lockstep, .b, false, 1, 0x11⟩, ⟨K.injMiss, .c, false, 1, 0x01⟩,
  ⟨K.trip, .c, true, 8, 0x41⟩, ⟨K.xcmd, .c, false, 12, 0x41⟩,
  ⟨K.syncPhase, .d, false, 4, 0x01⟩, ⟨K.syncLoss, .d, true, 4, 0x01⟩,
  ⟨K.guardCfg, .d, false, 1, 0x01⟩,
  ⟨K.adcPlaus, .c, false, 4, 0x41⟩, ⟨K.vbusStale, .c, true, 4, 0x41⟩,
  ⟨K.vbusPlaus, .c, false, 4, 0x41⟩, ⟨K.adcOrng, .d, true, 8, 0x01⟩,
  ⟨K.hkLate, .d, false, 1, 0x01⟩, ⟨K.shuntMiss, .c, false, 4, 0x41⟩,
  ⟨K.hallBad, .c, true, 4, 0x41⟩, ⟨K.hallSeq, .d, false, 4, 0x01⟩,
  ⟨K.encErr, .c, false, 4, 0x41⟩, ⟨K.encIndex, .c, false, 4, 0x41⟩,
  ⟨K.eclSkip, .c, false, 4, 0x41⟩, ⟨K.startFail, .c, false, 4, 0x41⟩,
  ⟨K.flyFail, .c, false, 4, 0x41⟩, ⟨K.engOvr, .d, false, 4, 0x01⟩,
  ⟨K.engOvrFault, .c, false, 4, 0x41⟩, ⟨K.engNan, .c, false, 4, 0x41⟩,
  ⟨K.desat, .c, true, 24, 0x41⟩, ⟨K.hoc, .c, true, 4, 0x41⟩,
  ⟨K.bstUv, .c, true, 12, 0x41⟩, ⟨K.vdrvUv, .c, true, 2, 0x41⟩,
  ⟨K.xcmdDie, .a, true, 12, 0x65⟩, ⟨K.stoAct, .c, true, 4, 0x41⟩,
  ⟨K.stoDisc, .b, true, 2, 0x41⟩, ⟨K.stFail, .c, false, 60, 0x41⟩,
  ⟨K.busUv1, .c, true, 4, 0xC1⟩, ⟨K.busUv2, .c, true, 4, 0x41⟩,
  ⟨K.busOv3, .d, true, 4, 0x01⟩, ⟨K.busOv4, .c, true, 4, 0x81⟩,
  ⟨K.chopFail, .c, false, 4, 0x01⟩,
  ⟨K.thermWarn, .d, false, 7, 0x01⟩, ⟨K.thermThrottle, .d, false, 7, 0x01⟩,
  ⟨K.thermShdn, .c, true, 7, 0x41⟩, ⟨K.thermRor, .c, false, 36, 0xC1⟩,
  ⟨K.ntcBad, .c, true, 4, 0xC1⟩, ⟨K.tsensBad, .d, false, 12, 0x01⟩,
  ⟨K.eccSbe, .d, false, 3, 0x01⟩, ⟨K.eccDbe, .b, false, 3, 0x11⟩,
  ⟨K.chkCvRepair, .d, false, 1, 0x01⟩, ⟨K.chkScan, .c, false, 4, 0x01⟩,
  ⟨K.linkDown, .c, true, 3, 0x41⟩, ⟨K.linkCrc, .d, false, 3, 0x01⟩,
  ⟨K.linkAuth, .c, false, 3, 0x01⟩, ⟨K.linkLate, .c, false, 4, 0x41⟩,
  ⟨K.linkSync, .c, true, 1, 0x41⟩, ⟨K.bootFallback, .d, false, 1, 0x01⟩,
  ⟨K.secAuth, .d, false, 1, 0x01⟩, ⟨K.trngFail, .c, true, 1, 0x01⟩]

/-- The row of a kind code; none for a code that names no source (R395). -/
def sourceRow (kind : Nat) : Option SourceRow := sourceTable.find? (fun r => r.kind == kind)

/-- The kind codes in ascending order (R423). -/
def faultKinds : List Nat := sourceTable.map (·.kind)

/-- The selector KIND[15:8], INST[7:0] (R395). -/
def selector (kind inst : Nat) : Nat := kind * 256 + inst

/-- Every selector that names a record, in ascending order (R395, R398). -/
def allSelectors : List Nat :=
  (sourceTable.map (fun r => (List.range r.n).map (selector r.kind))).flatten

/-- The selector names a record. -/
def knownSelector (sel : Nat) : Bool :=
  match sourceRow (sel / 256) with
  | some r => decide (sel % 256 < r.n)
  | none => false

/-- SOURCE_PATH from its fields (R12). -/
def mkPath (level die cluster unit slice macro_ : Nat) : Nat :=
  level * 2 ^ 21 + die * 2 ^ 19 + cluster * 2 ^ 16 + unit * 2 ^ 10 + slice * 2 ^ 5 + macro_

/-- A macro of a unit without slices, and a unit, on CD. -/
def cdMacro (cluster unit m : Nat) : Nat := mkPath 2 0 cluster unit 0 m
def cdUnit (cluster unit : Nat) : Nat := mkPath 4 0 cluster unit 0 0

/-- Die code of the driver die that serves generator g (R12, R15). -/
def dieOfGen (g : Nat) : Nat := if g < 6 then 1 else 2

/-- A macro of the gate-channel slice of generator g (R356). -/
def gatePath (g m : Nat) : Nat := mkPath 2 (dieOfGen g) 0 (g / 3) g m

/-- Path of diode k of die i (R380). -/
def diodePath (i k : Nat) : Nat :=
  if i = 0 then cdMacro 3 3 k else mkPath 2 i 0 5 0 (4 + k)

/-- Path of the comparator with a code on a driver die (0 to 25) or CD (0 to 7) (R348). -/
def comparatorPath (die code : Nat) : Nat :=
  if die = 0 then (if code < 4 then cdUnit 1 (4 + code) else cdMacro 1 11 code)
  else
    if code < 6 then gatePath (6 * (die - 1) + code) 0
    else if code < 12 then gatePath (6 * (die - 1) + (code - 6)) 1
    else if code < 18 then gatePath (6 * (die - 1) + (code - 12)) 2
    else if code < 24 then gatePath (6 * (die - 1) + (code - 18)) 3
    else if code = 24 then mkPath 2 die 0 5 0 0
    else mkPath 2 die 0 4 0 0

/-- SOURCE_PATH of a source's instance (R422 with R259, R320, R356, R371, R380, R386). -/
def sourcePath (kind i : Nat) : Nat :=
  match kind with
  | 0x01 => cdMacro 3 0 0
  | 0x02 => cdMacro 3 0 1
  | 0x08 => cdMacro 3 1 0
  | 0x09 => cdMacro 0 0 0
  | 0x10 => cdMacro 0 0 (8 + i)
  | 0x11 => cdMacro 0 0 (8 + i)
  | 0x12 => cdMacro 0 0 1
  | 0x13 => cdMacro 0 0 2
  | 0x14 => cdMacro 0 0 3
  | 0x15 => cdMacro 0 7 0
  | 0x20 => cdMacro 1 12 i
  | 0x21 => mkPath 2 0 1 (i / 3) i 2
  | 0x22 => cdUnit 1 i
  | 0x23 => cdUnit 1 i
  | 0x24 => cdUnit 0 0
  | 0x30 => cdUnit 1 (4 + i)
  | 0x31 => cdUnit 1 (4 + i)
  | 0x32 => cdUnit 1 (4 + i)
  | 0x33 => mkPath 3 0 1 (4 + i / 2) i 0
  | 0x34 => cdUnit 3 2
  | 0x38 => cdMacro 1 8 i
  | 0x40 => cdMacro 1 9 i
  | 0x41 => cdMacro 1 9 i
  | 0x42 => cdMacro 1 9 i
  | 0x43 => cdMacro 1 9 i
  | 0x44 => cdMacro 1 9 (8 + i)
  | 0x45 => cdMacro 1 9 (12 + i)
  | 0x46 => cdMacro 1 9 (12 + i)
  | 0x50 => cdMacro 1 10 i
  | 0x51 => cdMacro 1 10 (4 + i)
  | 0x52 => cdMacro 1 10 (8 + i)
  | 0x60 => gatePath (i / 2) (i % 2)
  | 0x61 => cdUnit 1 (4 + i)
  | 0x62 => gatePath i 2
  | 0x63 => mkPath 2 (i + 1) 0 5 0 0
  | 0x64 => mkPath 2 (dieOfGen i) 0 6 0 (i % 6)
  | 0x65 => mkPath 2 (i / 2 + 1) 0 6 0 (8 + i % 2)
  | 0x66 => mkPath 4 (i + 1) 0 6 0 0
  | 0x67 => if i < 52 then comparatorPath (i / 26 + 1) (i % 26) else comparatorPath 0 (i - 52)
  | 0x70 => cdMacro 1 11 i
  | 0x71 => cdMacro 1 11 i
  | 0x72 => cdMacro 1 11 i
  | 0x73 => cdMacro 1 11 (4 + i)
  | 0x74 => if i < 2 then cdMacro 1 13 i else mkPath 2 (i - 1) 0 4 0 0
  | 0x80 => if i < 3 then mkPath 6 i 0 0 0 0 else cdMacro 1 14 (16 + (i - 3))
  | 0x81 => if i < 3 then mkPath 6 i 0 0 0 0 else cdMacro 1 14 (16 + (i - 3))
  | 0x82 => if i < 3 then mkPath 6 i 0 0 0 0 else cdMacro 1 14 (16 + (i - 3))
  | 0x83 => if i < 12 then diodePath (i / 4) (i % 4) else mkPath 1 0 1 14 0 ((i - 12) / 2)
  | 0x84 => cdMacro 3 2 (12 + i)
  | 0x85 => diodePath (i / 4) (i % 4)
  | 0x90 => if i = 0 then cdUnit 0 2 else if i = 1 then cdUnit 0 3 else cdMacro 1 10 16
  | 0x91 => if i = 0 then cdUnit 0 2 else if i = 1 then cdUnit 0 3 else cdMacro 1 10 16
  | 0x92 => cdUnit 0 6
  | 0x93 => cdMacro 0 6 i
  | 0xA0 => cdUnit 2 (2 + i)
  | 0xA1 => cdUnit 2 (2 + i)
  | 0xA2 => cdUnit 2 (2 + i)
  | 0xA3 => mkPath 5 0 2 0 0 0
  | 0xA4 => mkPath 5 0 2 0 0 0
  | 0xB0 => cdUnit 0 0
  | 0xB1 => cdUnit 0 0
  | 0xB2 => cdUnit 0 5
  | _ => 0

/-- CELL: 0 for T_J,HI and 1 for T_J,LO of a junction path, else 0 (R13, R380). -/
def sourceCell (kind i : Nat) : Nat := if kind = K.thermRor ∧ 12 ≤ i then (i - 12) % 2 else 0

/-- The source reports an edge, stamped with a fraction (R38, R414 EDGE). -/
def edgeSource (kind : Nat) : Bool := kind == K.trip || kind == K.xcmd || kind == K.desat

end Sys2Proof.Machine
end

