-- ==== Sys2Proof/Machine/Params.lean ====
section
/-! DEFINITION. The parameter tables of all chapters (R8, R9, R18 … R521): one row per parameter, its
instances, owner, access, the point at which a write governs, its range and its reset value. -/

namespace Sys2Proof.Machine

/-- The instances that INST may name (R3, R94). -/
inductive Insts where
  | one | rng (lo n : Nat) | kinds | keyWr | keyRd
  deriving DecidableEq, Repr

/-- Whose parameter it is, for "affected drive" (R113) and the reload or sample that it waits for. -/
inductive Owner where
  | none | drive | bridge | gen | conv | bridgeBy (n : Nat) | driveBy (n : Nat) | rcPage | gang | gangOfs
  deriving DecidableEq, Repr

/-- The Access column (R8). -/
inductive Access where
  | ro | rw | wo | w1c | rws
  deriving DecidableEq, Repr

/-- The Takes effect column (R9). -/
inductive Effect where
  | immediate | atCommit | atSample | atReload | atBoot
  deriving DecidableEq, Repr

/-- The Range column, on the fields that are not reserved (R5, R7). `any` also stands for a range that
names another parameter or that is checked at commit (R105). -/
inductive Range where
  | any | nat (lo hi : Nat) | flt (lo hi : F32) | fltOrZero (lo hi : F32)
  | fields (l : List (Nat × Nat × Nat × Nat)) | hkEntry | level | hostT | event | sampleEvent
  deriving DecidableEq, Repr

/-- The Reset column: a value, or one that depends on the instance or the part. -/
inductive ResetVal where
  | val (n : Nat) | special
  deriving DecidableEq, Repr

/-- The condition of state that the Access column sets on a write (checks 1 of R111 and 6 of R524). -/
inductive Stop where
  | none | drive | owner | die | ilGroup | home | test
  deriving DecidableEq, Repr

/-- One row of a parameter table. `mask` holds the bits that are not reserved (R5); of a W1C row, the
bits that a write can clear. -/
structure ParamRow where
  id : Nat
  bits : Nat
  mask : Nat
  insts : Insts
  owner : Owner
  access : Access
  effect : Effect
  range : Range
  reset : ResetVal
  stop : Stop
  banked : Bool
  deriving DecidableEq, Repr

/-! The parameter IDs (R93). -/
/-- SYS.ID (R103). -/
abbrev P.sysId : Nat := 0x0100
/-- SYS.RST_SRC (R521). -/
abbrev P.sysRstSrc : Nat := 0x0101
/-- SYS.DRV_MAP[d] (R18). -/
abbrev P.sysDrvMap : Nat := 0x0108
/-- SYS.GPIO_DIR (R521). -/
abbrev P.sysGpioDir : Nat := 0x0110
/-- SYS.GPIO_OUT (R521). -/
abbrev P.sysGpioOut : Nat := 0x0111
/-- SYS.GPIO_IN (R521). -/
abbrev P.sysGpioIn : Nat := 0x0112
/-- TIME.EPOCH (R34). -/
abbrev P.timeEpoch : Nat := 0x0200
/-- TIME.EPOCH_FLAGS (R34). -/
abbrev P.timeEpochFlags : Nat := 0x0201
/-- TIME.REF_SEL (R34). -/
abbrev P.timeRefSel : Nat := 0x0202
/-- TIME.REF_STAT (R34). -/
abbrev P.timeRefStat : Nat := 0x0203
/-- TIME.XTAL_FAIL_CNT (R34). -/
abbrev P.timeXtalFailCnt : Nat := 0x0204
/-- TIME.DL_TAPS (R34). -/
abbrev P.timeDlTaps : Nat := 0x0205
/-- TIME.DL_CAL_EPOCH (R34). -/
abbrev P.timeDlCalEpoch : Nat := 0x0206
/-- TIME.RC_TRIM (R34). -/
abbrev P.timeRcTrim : Nat := 0x0207
/-- TIME.BG_TRIM (R34). -/
abbrev P.timeBgTrim : Nat := 0x0208
/-- TIME.SNAP_STAT[i] (R34). -/
abbrev P.timeSnapStat : Nat := 0x0209
/-- TIME.ERA (R34). -/
abbrev P.timeEra : Nat := 0x020A
/-- PWR.STATE (R64). -/
abbrev P.pwrState : Nat := 0x0300
/-- PWR.WAKE_SRC (R64). -/
abbrev P.pwrWakeSrc : Nat := 0x0301
/-- PWR.WAKE_EN (R64). -/
abbrev P.pwrWakeEn : Nat := 0x0302
/-- PWR.WAKE_CFG (R64). -/
abbrev P.pwrWakeCfg : Nat := 0x0303
/-- PWR.CANW_CFG (R64). -/
abbrev P.pwrCanwCfg : Nat := 0x0304
/-- PWR.WAKE_TIMER (R64). -/
abbrev P.pwrWakeTimer : Nat := 0x0305
/-- PWR.MW_BRIDGES (R64). -/
abbrev P.pwrMwBridges : Nat := 0x0306
/-- PWR.MW_EDGES (R64). -/
abbrev P.pwrMwEdges : Nat := 0x0307
/-- PWR.MW_WINDOW (R64). -/
abbrev P.pwrMwWindow : Nat := 0x0308
/-- PWR.MW_THR (R64). -/
abbrev P.pwrMwThr : Nat := 0x0309
/-- PWR.MW_RELISTEN (R64). -/
abbrev P.pwrMwRelisten : Nat := 0x030A
/-- PWR.MW_QUIET (R64). -/
abbrev P.pwrMwQuiet : Nat := 0x030B
/-- PWR.MW_VDRV_WAIT (R64). -/
abbrev P.pwrMwVdrvWait : Nat := 0x030C
/-- PWR.HALF_IDLE (R64). -/
abbrev P.pwrHalfIdle : Nat := 0x030D
/-- PWR.SUPPLY (R64). -/
abbrev P.pwrSupply : Nat := 0x0310
/-- PWR.E_ALLOW (R64). -/
abbrev P.pwrEAllow : Nat := 0x0311
/-- PWR.E_CAP (R64). -/
abbrev P.pwrECap : Nat := 0x0312
/-- PWR.E_LEVEL (R64). -/
abbrev P.pwrELevel : Nat := 0x0313
/-- PWR.H_RESERVE (R64). -/
abbrev P.pwrHReserve : Nat := 0x0314
/-- PWR.THR_RATIO (R64). -/
abbrev P.pwrThrRatio : Nat := 0x0315
/-- PWR.E_DEFER_CNT (R64). -/
abbrev P.pwrEDeferCnt : Nat := 0x0316
/-- PWR.H_DEFER_CNT (R64). -/
abbrev P.pwrHDeferCnt : Nat := 0x0317
/-- PWR.TASK_LATE_CNT (R64). -/
abbrev P.pwrTaskLateCnt : Nat := 0x0318
/-- PWR.TASK_PEND (R64). -/
abbrev P.pwrTaskPend : Nat := 0x0319
/-- HOST.GSTAT (R103). -/
abbrev P.hostGstat : Nat := 0x0400
/-- HOST.IRQ_PEND (R103). -/
abbrev P.hostIrqPend : Nat := 0x0401
/-- HOST.IRQ_EN (R103). -/
abbrev P.hostIrqEn : Nat := 0x0402
/-- HOST.IRQ_GEN (R103). -/
abbrev P.hostIrqGen : Nat := 0x0403
/-- HOST.IRQ_HOLDOFF (R103). -/
abbrev P.hostIrqHoldoff : Nat := 0x0404
/-- HOST.NIRQ_MODE (R103). -/
abbrev P.hostNirqMode : Nat := 0x0405
/-- HOST.APERTURE (R103). -/
abbrev P.hostAperture : Nat := 0x0406
/-- HOST.RING_CFG[r] (R103). -/
abbrev P.hostRingCfg : Nat := 0x0408
/-- HOST.RING_IDX[r] (R103). -/
abbrev P.hostRingIdx : Nat := 0x0409
/-- HOST.RING_STAMP[r] (R103). -/
abbrev P.hostRingStamp : Nat := 0x040A
/-- HOST.DOORBELL[r] (R103). -/
abbrev P.hostDoorbell : Nat := 0x040B
/-- HOST.RING_DROP[r] (R103). -/
abbrev P.hostRingDrop : Nat := 0x040C
/-- HOST.MSG_TMO (R103). -/
abbrev P.hostMsgTmo : Nat := 0x0410
/-- HOST.SPI_CRC_ERR (R103). -/
abbrev P.hostSpiCrcErr : Nat := 0x0411
/-- HOST.SPI_FRAME_ERR (R103). -/
abbrev P.hostSpiFrameErr : Nat := 0x0412
/-- HOST.MSG_CRC_ERR (R103). -/
abbrev P.hostMsgCrcErr : Nat := 0x0413
/-- HOST.MSG_FMT_ERR (R103). -/
abbrev P.hostMsgFmtErr : Nat := 0x0414
/-- HOST.DB_ERR (R103). -/
abbrev P.hostDbErr : Nat := 0x0415
/-- HOST.SEQ_GAP (R103). -/
abbrev P.hostSeqGap : Nat := 0x0416
/-- HOST.LATE_CNT (R103). -/
abbrev P.hostLateCnt : Nat := 0x0417
/-- HOST.RESP_STALL (R103). -/
abbrev P.hostRespStall : Nat := 0x0418
/-- HOST.CAN_EN (R103). -/
abbrev P.hostCanEn : Nat := 0x0420
/-- HOST.CAN_NODE (R103). -/
abbrev P.hostCanNode : Nat := 0x0421
/-- HOST.CAN_ARB (R103). -/
abbrev P.hostCanArb : Nat := 0x0422
/-- HOST.CAN_DATA (R103). -/
abbrev P.hostCanData : Nat := 0x0423
/-- HOST.CAN_SP_ARB (R103). -/
abbrev P.hostCanSpArb : Nat := 0x0424
/-- HOST.CAN_SP_DATA (R103). -/
abbrev P.hostCanSpData : Nat := 0x0425
/-- HOST.CAN_SEG_TMO (R103). -/
abbrev P.hostCanSegTmo : Nat := 0x0426
/-- HOST.CAN_EVT_MASK (R103). -/
abbrev P.hostCanEvtMask : Nat := 0x0427
/-- HOST.CAN_REASM_ERR (R103). -/
abbrev P.hostCanReasmErr : Nat := 0x0428
/-- HOST.CAN_BUSOFF (R103). -/
abbrev P.hostCanBusoff : Nat := 0x0429
/-- HOST.MARGIN (R134). -/
abbrev P.hostMargin : Nat := 0x0430
/-- HOST.LATE_MAX (R134). -/
abbrev P.hostLateMax : Nat := 0x0431
/-- HOST.HA_BIND[r] (R134). -/
abbrev P.hostHaBind : Nat := 0x0432
/-- HOST.HA_LATE[d] (R134). -/
abbrev P.hostHaLate : Nat := 0x0433
/-- HOST.HA_STALE[d] (R134). -/
abbrev P.hostHaStale : Nat := 0x0434
/-- HOST.HA_RUN[d] (R134). -/
abbrev P.hostHaRun : Nat := 0x0435
/-- HOST.SLOW_TMO (R134). -/
abbrev P.hostSlowTmo : Nat := 0x0436
/-- HOST.DEC_TMO (R134). -/
abbrev P.hostDecTmo : Nat := 0x0437
/-- HOST.DEC_LATE (R134). -/
abbrev P.hostDecLate : Nat := 0x0438
/-- HOST.DEC_RUN (R134). -/
abbrev P.hostDecRun : Nat := 0x0439
/-- HOST.DEC_STRAY (R134). -/
abbrev P.hostDecStray : Nat := 0x043A
/-- TXN.IDLE_MAX (R118). -/
abbrev P.txnIdleMax : Nat := 0x0500
/-- TXN.STAT[i] (R118). -/
abbrev P.txnStat : Nat := 0x0501
/-- TXN.IDLE_RB_CNT (R118). -/
abbrev P.txnIdleRbCnt : Nat := 0x0502
/-- TXN.COMMIT_CNT (R118). -/
abbrev P.txnCommitCnt : Nat := 0x0503
/-- TXN.FAIL_CNT (R118). -/
abbrev P.txnFailCnt : Nat := 0x0504
/-- PWM.PERIOD[d] (R177). -/
abbrev P.pwmPeriod : Nat := 0x1000
/-- PWM.CMPA[g] (R177). -/
abbrev P.pwmCmpa : Nat := 0x1001
/-- PWM.CMPB[g] (R177). -/
abbrev P.pwmCmpb : Nat := 0x1002
/-- PWM.OVR[g] (R177). -/
abbrev P.pwmOvr : Nat := 0x1003
/-- PWM.DT_RISE[g] (R177). -/
abbrev P.pwmDtRise : Nat := 0x1004
/-- PWM.DT_FALL[g] (R177). -/
abbrev P.pwmDtFall : Nat := 0x1005
/-- PWM.UPD_COMMIT[d] (R177). -/
abbrev P.pwmUpdCommit : Nat := 0x1006
/-- PWM.UPD_STAT[d] (R177). -/
abbrev P.pwmUpdStat : Nat := 0x1007
/-- PWM.TEST_EN[d] (R177). -/
abbrev P.pwmTestEn : Nat := 0x1008
/-- PWM.REPEAT_CNT[d] (R177). -/
abbrev P.pwmRepeatCnt : Nat := 0x1009
/-- PWM.UPD_BROKEN[d] (R177). -/
abbrev P.pwmUpdBroken : Nat := 0x100A
/-- PWM.SHORT_CNT[g] (R177). -/
abbrev P.pwmShortCnt : Nat := 0x100B
/-- PWM.FORCE_STAT[g] (R177). -/
abbrev P.pwmForceStat : Nat := 0x100C
/-- PWM.SYNC_SRC (R177). -/
abbrev P.pwmSyncSrc : Nat := 0x1010
/-- PWM.SYNC_PERIOD (R177). -/
abbrev P.pwmSyncPeriod : Nat := 0x1011
/-- PWM.SYNC_DLY[b] (R177). -/
abbrev P.pwmSyncDly : Nat := 0x1012
/-- PWM.SYNC_MODE[d] (R177). -/
abbrev P.pwmSyncMode : Nat := 0x1013
/-- PWM.SYNC_STEP (R177). -/
abbrev P.pwmSyncStep : Nat := 0x1014
/-- PWM.SYNC_WIN (R177). -/
abbrev P.pwmSyncWin : Nat := 0x1015
/-- PWM.SYNC_IN_CFG (R177). -/
abbrev P.pwmSyncInCfg : Nat := 0x1016
/-- PWM.SYNC_IN_COMP (R177). -/
abbrev P.pwmSyncInComp : Nat := 0x1017
/-- PWM.SYNC_OUT_CFG (R177). -/
abbrev P.pwmSyncOutCfg : Nat := 0x1018
/-- PWM.SYNC_PHASE_CNT[d] (R177). -/
abbrev P.pwmSyncPhaseCnt : Nat := 0x1019
/-- PWM.SYNC_LOSS_CNT[d] (R177). -/
abbrev P.pwmSyncLossCnt : Nat := 0x101A
/-- PWM.IL_MAP[g] (R177). -/
abbrev P.pwmIlMap : Nat := 0x1020
/-- PWM.TRIP_CFG[t] (R177). -/
abbrev P.pwmTripCfg : Nat := 0x1030
/-- PWM.TRIP_MAP[t] (R177). -/
abbrev P.pwmTripMap : Nat := 0x1031
/-- PWM.TRIP_STAT (R177). -/
abbrev P.pwmTripStat : Nat := 0x1032
/-- PWM.CLEAR_REFUSED[t] (R177). -/
abbrev P.pwmClearRefused : Nat := 0x1033
/-- PWM.GUARD_SET (R177). -/
abbrev P.pwmGuardSet : Nat := 0x1040
/-- PWM.GUARD_SAFE (R177). -/
abbrev P.pwmGuardSafe : Nat := 0x1041
/-- PWM.HALT_STAT (R177). -/
abbrev P.pwmHaltStat : Nat := 0x1042
/-- ADC.GAIN[b] (R204). -/
abbrev P.adcGain : Nat := 0x1100
/-- ADC.FC_FILT[k] (R204). -/
abbrev P.adcFcFilt : Nat := 0x1101
/-- ADC.PHASE[k] (R204). -/
abbrev P.adcPhase : Nat := 0x1102
/-- ADC.CHK_LIST[b] (R204). -/
abbrev P.adcChkList : Nat := 0x1103
/-- ADC.CHK_SLOT[b] (R204). -/
abbrev P.adcChkSlot : Nat := 0x1104
/-- ADC.PLAUS_THR[b] (R204). -/
abbrev P.adcPlausThr : Nat := 0x1105
/-- ADC.PLAUS_N[b] (R204). -/
abbrev P.adcPlausN : Nat := 0x1106
/-- ADC.PLAUS_CNT[b] (R204). -/
abbrev P.adcPlausCnt : Nat := 0x1107
/-- ADC.VBUS_AGE_MAX[b] (R204). -/
abbrev P.adcVbusAgeMax : Nat := 0x1108
/-- ADC.OFS_A[b] (R204). -/
abbrev P.adcOfsA : Nat := 0x1109
/-- ADC.OFS_B[b] (R204). -/
abbrev P.adcOfsB : Nat := 0x110A
/-- ADC.ORNG_CNT[k] (R204). -/
abbrev P.adcOrngCnt : Nat := 0x110B
/-- ADC.INV_CNT[k] (R204). -/
abbrev P.adcInvCnt : Nat := 0x110C
/-- ADC.LAST[k] (R204). -/
abbrev P.adcLast : Nat := 0x110D
/-- ADC.HK_PERIOD (R204). -/
abbrev P.adcHkPeriod : Nat := 0x1110
/-- ADC.HK_DEC (R204). -/
abbrev P.adcHkDec : Nat := 0x1111
/-- ADC.HK_LIST[n] (R204). -/
abbrev P.adcHkList : Nat := 0x1112
/-- ADC.HK_RESULT[c] (R204). -/
abbrev P.adcHkResult : Nat := 0x1113
/-- ADC.HK_VALUE[c] (R204). -/
abbrev P.adcHkValue : Nat := 0x1114
/-- ADC.HK_EPOCH[c] (R204). -/
abbrev P.adcHkEpoch : Nat := 0x1115
/-- ADC.HK_ROUND_EPOCH (R204). -/
abbrev P.adcHkRoundEpoch : Nat := 0x1116
/-- ADC.HK_ROUND_CNT (R204). -/
abbrev P.adcHkRoundCnt : Nat := 0x1117
/-- ADC.URG_DROP (R204). -/
abbrev P.adcUrgDrop : Nat := 0x1118
/-- ADC.VBUS_PLAUS_THR (R204). -/
abbrev P.adcVbusPlausThr : Nat := 0x1119
/-- SHUNT.R_SHUNT[b] (R225). -/
abbrev P.shuntRShunt : Nat := 0x1200
/-- SHUNT.T_SETTLE[d] (R225). -/
abbrev P.shuntTSettle : Nat := 0x1201
/-- SHUNT.T_GUARD[d] (R225). -/
abbrev P.shuntTGuard : Nat := 0x1202
/-- SHUNT.T_MIN_WIN[d] (R225). -/
abbrev P.shuntTMinWin : Nat := 0x1203
/-- SHUNT.M_MAX[d] (R225). -/
abbrev P.shuntMMax : Nat := 0x1204
/-- SHUNT.MISS_MAX[d] (R225). -/
abbrev P.shuntMissMax : Nat := 0x1205
/-- SHUNT.MISS_RUN[d] (R225). -/
abbrev P.shuntMissRun : Nat := 0x1206
/-- SHUNT.MISS_CNT[b] (R225). -/
abbrev P.shuntMissCnt : Nat := 0x1207
/-- SHUNT.CARRY_CNT[d] (R225). -/
abbrev P.shuntCarryCnt : Nat := 0x1208
/-- SHUNT.SHIFT_CNT[d] (R225). -/
abbrev P.shuntShiftCnt : Nat := 0x1209
/-- SHUNT.MLIM_CNT[d] (R225). -/
abbrev P.shuntMlimCnt : Nat := 0x120A
/-- SHUNT.STAT[b] (R225). -/
abbrev P.shuntStat : Nat := 0x120B
/-- SHUNT.I_PHASE[g] (R225). -/
abbrev P.shuntIPhase : Nat := 0x120C
/-- POS.SRC[d] (R260). -/
abbrev P.posSrc : Nat := 0x1300
/-- POS.POLE_PAIRS[d] (R260). -/
abbrev P.posPolePairs : Nat := 0x1301
/-- POS.IN_CFG[b] (R260). -/
abbrev P.posInCfg : Nat := 0x1302
/-- POS.HALL_OFS[d] (R260). -/
abbrev P.posHallOfs : Nat := 0x1303
/-- POS.HALL_SLACK[d] (R260). -/
abbrev P.posHallSlack : Nat := 0x1304
/-- POS.ENC_LINES[d] (R260). -/
abbrev P.posEncLines : Nat := 0x1305
/-- POS.ENC_Z_OFS[d] (R260). -/
abbrev P.posEncZOfs : Nat := 0x1306
/-- POS.ENC_Z_TOL[d] (R260). -/
abbrev P.posEncZTol : Nat := 0x1307
/-- POS.TRK_KA[d] (R260). -/
abbrev P.posTrkKa : Nat := 0x1308
/-- POS.TRK_KW[d] (R260). -/
abbrev P.posTrkKw : Nat := 0x1309
/-- POS.ZERO_TMO[d] (R260). -/
abbrev P.posZeroTmo : Nat := 0x130A
/-- POS.ECL_I_MAX[d] (R260). -/
abbrev P.posEclIMax : Nat := 0x1310
/-- POS.ECL_PER_REV[d] (R260). -/
abbrev P.posEclPerRev : Nat := 0x1311
/-- POS.ECL_LEN[d] (R260). -/
abbrev P.posEclLen : Nat := 0x1312
/-- POS.ECL_GAP[d] (R260). -/
abbrev P.posEclGap : Nat := 0x1313
/-- POS.ECL_SKIP_MAX[d] (R260). -/
abbrev P.posEclSkipMax : Nat := 0x1314
/-- POS.ECL_W_MIN[d] (R260). -/
abbrev P.posEclWMin : Nat := 0x1315
/-- POS.ZC_THR[b] (R260). -/
abbrev P.posZcThr : Nat := 0x1316
/-- POS.START[d] (R260). -/
abbrev P.posStart : Nat := 0x1317
/-- POS.ALIGN_ANG[d] (R260). -/
abbrev P.posAlignAng : Nat := 0x1318
/-- POS.ALIGN_I[d] (R260). -/
abbrev P.posAlignI : Nat := 0x1319
/-- POS.ALIGN_T[d] (R260). -/
abbrev P.posAlignT : Nat := 0x131A
/-- POS.OL_I[d] (R260). -/
abbrev P.posOlI : Nat := 0x131B
/-- POS.OL_ACC[d] (R260). -/
abbrev P.posOlAcc : Nat := 0x131C
/-- POS.OL_W_END[d] (R260). -/
abbrev P.posOlWEnd : Nat := 0x131D
/-- POS.OL_W_TOL[d] (R260). -/
abbrev P.posOlWTol : Nat := 0x131E
/-- POS.OL_HANDOVER[d] (R260). -/
abbrev P.posOlHandover : Nat := 0x131F
/-- POS.OL_T_MAX[d] (R260). -/
abbrev P.posOlTMax : Nat := 0x1320
/-- POS.LISTEN[d] (R260). -/
abbrev P.posListen : Nat := 0x1321
/-- POS.LISTEN_EDGES[d] (R260). -/
abbrev P.posListenEdges : Nat := 0x1322
/-- POS.LISTEN_HYST[b] (R260). -/
abbrev P.posListenHyst : Nat := 0x1323
/-- POS.FLY_MIN[d] (R260). -/
abbrev P.posFlyMin : Nat := 0x1324
/-- POS.REV_MAX[d] (R260). -/
abbrev P.posRevMax : Nat := 0x1325
/-- POS.ASC_STEP[d] (R260). -/
abbrev P.posAscStep : Nat := 0x1326
/-- POS.BRAKE_MAX[d] (R260). -/
abbrev P.posBrakeMax : Nat := 0x1327
/-- POS.ANGLE[d] (R260). -/
abbrev P.posAngle : Nat := 0x1330
/-- POS.SPEED[d] (R260). -/
abbrev P.posSpeed : Nat := 0x1331
/-- POS.EV_EPOCH[d] (R260). -/
abbrev P.posEvEpoch : Nat := 0x1332
/-- POS.STAT[d] (R260). -/
abbrev P.posStat : Nat := 0x1333
/-- POS.ENC_COUNT[d] (R260). -/
abbrev P.posEncCount : Nat := 0x1334
/-- POS.ECL_RUN[d] (R260). -/
abbrev P.posEclRun : Nat := 0x1335
/-- POS.ECL_CNT[d] (R260). -/
abbrev P.posEclCnt : Nat := 0x1336
/-- POS.ECL_SKIP_CNT[d] (R260). -/
abbrev P.posEclSkipCnt : Nat := 0x1337
/-- POS.ECL_LAST[d] (R260). -/
abbrev P.posEclLast : Nat := 0x1338
/-- POS.HALL_ERR_CNT[b] (R260). -/
abbrev P.posHallErrCnt : Nat := 0x1339
/-- POS.ENC_ERR_CNT[b] (R260). -/
abbrev P.posEncErrCnt : Nat := 0x133A
/-- POS.ANG_MODE[d] (R119). -/
abbrev P.posAngMode : Nat := 0x13F0
/-- FOC.CTRL[d] (R288). -/
abbrev P.focCtrl : Nat := 0x1400
/-- FOC.SET[d] (R288). -/
abbrev P.focSet : Nat := 0x1401
/-- FOC.I_RATED[d] (R288). -/
abbrev P.focIRated : Nat := 0x1402
/-- FOC.W_RATED[d] (R288). -/
abbrev P.focWRated : Nat := 0x1403
/-- FOC.I_MAX[d] (R288). -/
abbrev P.focIMax : Nat := 0x1404
/-- FOC.T_MAX[d] (R288). -/
abbrev P.focTMax : Nat := 0x1405
/-- FOC.W_MAX[d] (R288). -/
abbrev P.focWMax : Nat := 0x1406
/-- FOC.P_GEN_MAX[d] (R288). -/
abbrev P.focPGenMax : Nat := 0x1407
/-- FOC.PSI[d] (R288). -/
abbrev P.focPsi : Nat := 0x1408
/-- FOC.LD[d] (R288). -/
abbrev P.focLd : Nat := 0x1409
/-- FOC.LQ[d] (R288). -/
abbrev P.focLq : Nat := 0x140A
/-- FOC.RS[d] (R288). -/
abbrev P.focRs : Nat := 0x140B
/-- FOC.BR_OFS[b] (R288). -/
abbrev P.focBrOfs : Nat := 0x140C
/-- FOC.KP_D[d] (R288). -/
abbrev P.focKpD : Nat := 0x1410
/-- FOC.KI_D[d] (R288). -/
abbrev P.focKiD : Nat := 0x1411
/-- FOC.KP_Q[d] (R288). -/
abbrev P.focKpQ : Nat := 0x1412
/-- FOC.KI_Q[d] (R288). -/
abbrev P.focKiQ : Nat := 0x1413
/-- FOC.VI_LIM[d] (R288). -/
abbrev P.focViLim : Nat := 0x1414
/-- FOC.OPT[d] (R288). -/
abbrev P.focOpt : Nat := 0x1415
/-- FOC.KP_W[d] (R288). -/
abbrev P.focKpW : Nat := 0x1418
/-- FOC.KI_W[d] (R288). -/
abbrev P.focKiW : Nat := 0x1419
/-- FOC.TI_LIM[d] (R288). -/
abbrev P.focTiLim : Nat := 0x141A
/-- FOC.RAMP_RATE[d] (R288). -/
abbrev P.focRampRate : Nat := 0x1420
/-- FOC.RAMP_JERK[d] (R288). -/
abbrev P.focRampJerk : Nat := 0x1421
/-- FOC.ID_MIN[d] (R288). -/
abbrev P.focIdMin : Nat := 0x1428
/-- FOC.FW_KV[d] (R288). -/
abbrev P.focFwKv : Nat := 0x1429
/-- FOC.FW_KI[d] (R288). -/
abbrev P.focFwKi : Nat := 0x142A
/-- FOC.PA_W_MAX[d] (R288). -/
abbrev P.focPaWMax : Nat := 0x1430
/-- FOC.PA_TAB[e] (R288). -/
abbrev P.focPaTab : Nat := 0x1431
/-- FOC.ASC_SPEED[d] (R288). -/
abbrev P.focAscSpeed : Nat := 0x1438
/-- FOC.STOP_SPEED[d] (R288). -/
abbrev P.focStopSpeed : Nat := 0x1439
/-- FOC.STOP_T_MAX[d] (R288). -/
abbrev P.focStopTMax : Nat := 0x143A
/-- FOC.SOFT_RATE[d] (R288). -/
abbrev P.focSoftRate : Nat := 0x143B
/-- FOC.SOFT_T_MAX[d] (R288). -/
abbrev P.focSoftTMax : Nat := 0x143C
/-- FOC.DERATE_K[d] (R288). -/
abbrev P.focDerateK : Nat := 0x143D
/-- FOC.I_DQ[b] (R288). -/
abbrev P.focIDq : Nat := 0x1440
/-- FOC.V_DQ[b] (R288). -/
abbrev P.focVDq : Nat := 0x1441
/-- FOC.REF_DQ[d] (R288). -/
abbrev P.focRefDq : Nat := 0x1442
/-- FOC.RAMP_X[d] (R288). -/
abbrev P.focRampX : Nat := 0x1443
/-- FOC.TORQUE[d] (R288). -/
abbrev P.focTorque : Nat := 0x1444
/-- FOC.M[b] (R288). -/
abbrev P.focM : Nat := 0x1445
/-- FOC.STAT[d] (R288). -/
abbrev P.focStat : Nat := 0x1446
/-- FOC.ILIM_CNT[d] (R288). -/
abbrev P.focIlimCnt : Nat := 0x1447
/-- FOC.GLIM_CNT[d] (R288). -/
abbrev P.focGlimCnt : Nat := 0x1448
/-- FOC.CUR_MODE[d] (R119). -/
abbrev P.focCurMode : Nat := 0x14F0
/-- FOC.LOOP_MODE[d] (R119). -/
abbrev P.focLoopMode : Nat := 0x14F1
/-- FOC.FW_MODE[d] (R119). -/
abbrev P.focFwMode : Nat := 0x14F2
/-- ENG.SPP[d] (R321). -/
abbrev P.engSpp : Nat := 0x1500
/-- ENG.LANE[d] (R321). -/
abbrev P.engLane : Nat := 0x1501
/-- ENG.LOAD_MARGIN (R321). -/
abbrev P.engLoadMargin : Nat := 0x1502
/-- ENG.OVR_N (R321). -/
abbrev P.engOvrN : Nat := 0x1503
/-- ENG.OVR_WIN (R321). -/
abbrev P.engOvrWin : Nat := 0x1504
/-- ENG.BANK[d] (R321). -/
abbrev P.engBank : Nat := 0x1508
/-- ENG.VIEW[i] (R321). -/
abbrev P.engView : Nat := 0x1509
/-- ENG.RC_CTL[d] (R321). -/
abbrev P.engRcCtl : Nat := 0x1510
/-- ENG.RC_KL[d] (R321). -/
abbrev P.engRcKl : Nat := 0x1511
/-- ENG.RC_FORGET[d] (R321). -/
abbrev P.engRcForget : Nat := 0x1512
/-- ENG.RC_LPF[d] (R321). -/
abbrev P.engRcLpf : Nat := 0x1513
/-- ENG.RC_LEAD[d] (R321). -/
abbrev P.engRcLead : Nat := 0x1514
/-- ENG.RC_LIM[d] (R321). -/
abbrev P.engRcLim : Nat := 0x1515
/-- ENG.RC_SPEED_MIN[d] (R321). -/
abbrev P.engRcSpeedMin : Nat := 0x1516
/-- ENG.RC_SETTLE[d] (R321). -/
abbrev P.engRcSettle : Nat := 0x1517
/-- ENG.RC_HOLD[d] (R321). -/
abbrev P.engRcHold : Nat := 0x1518
/-- ENG.RC_TAB[i] (R321). -/
abbrev P.engRcTab : Nat := 0x1519
/-- ENG.RC_UPD_CNT[d] (R321). -/
abbrev P.engRcUpdCnt : Nat := 0x151A
/-- ENG.FF_J[d] (R321). -/
abbrev P.engFfJ : Nat := 0x1520
/-- ENG.FF_KV[d] (R321). -/
abbrev P.engFfKv : Nat := 0x1521
/-- ENG.FF_IBAND[d] (R321). -/
abbrev P.engFfIband : Nat := 0x1522
/-- ENG.STAT[d] (R321). -/
abbrev P.engStat : Nat := 0x1528
/-- ENG.CYC_LAST[d] (R321). -/
abbrev P.engCycLast : Nat := 0x1529
/-- ENG.CYC_MAX[d] (R321). -/
abbrev P.engCycMax : Nat := 0x152A
/-- ENG.WAIT_LAST[d] (R321). -/
abbrev P.engWaitLast : Nat := 0x152B
/-- ENG.WAIT_MAX[d] (R321). -/
abbrev P.engWaitMax : Nat := 0x152C
/-- ENG.RUN_CNT[d] (R321). -/
abbrev P.engRunCnt : Nat := 0x152D
/-- ENG.OVR_CNT[d] (R321). -/
abbrev P.engOvrCnt : Nat := 0x152E
/-- ENG.SKIP_CNT[d] (R321). -/
abbrev P.engSkipCnt : Nat := 0x152F
/-- ENG.LOAD (R321). -/
abbrev P.engLoad : Nat := 0x1530
/-- ENG.LANE_LOAD[l] (R321). -/
abbrev P.engLaneLoad : Nat := 0x1531
/-- ENG.CAP_STOP[d] (R321). -/
abbrev P.engCapStop : Nat := 0x1538
/-- ENG.CAP_DROP[d] (R321). -/
abbrev P.engCapDrop : Nat := 0x1539
/-- ENG.CAP_STAT[d] (R321). -/
abbrev P.engCapStat : Nat := 0x153A
/-- ENG.RC_MODE[d] (R119). -/
abbrev P.engRcMode : Nat := 0x15F0
/-- GATE.DT_MIN[b] (R357). -/
abbrev P.gateDtMin : Nat := 0x1600
/-- GATE.PRECHARGE (R357). -/
abbrev P.gatePrecharge : Nat := 0x1601
/-- GATE.UVLO_SEL[i] (R357). -/
abbrev P.gateUvloSel : Nat := 0x1602
/-- GATE.DESAT_CFG[b] (R357). -/
abbrev P.gateDesatCfg : Nat := 0x1603
/-- GATE.SOFT_CFG[b] (R357). -/
abbrev P.gateSoftCfg : Nat := 0x1604
/-- GATE.HOC[b] (R357). -/
abbrev P.gateHoc : Nat := 0x1605
/-- GATE.HOC_FILT[b] (R357). -/
abbrev P.gateHocFilt : Nat := 0x1606
/-- GATE.ASC_I_MAX[d] (R357). -/
abbrev P.gateAscIMax : Nat := 0x1607
/-- GATE.QG[b] (R357). -/
abbrev P.gateQg : Nat := 0x1608
/-- GATE.STO_DISC_T (R357). -/
abbrev P.gateStoDiscT : Nat := 0x1609
/-- GATE.STAT[i] (R357). -/
abbrev P.gateStat : Nat := 0x1610
/-- GATE.CH_STAT[g] (R357). -/
abbrev P.gateChStat : Nat := 0x1611
/-- GATE.BR_STAT[b] (R357). -/
abbrev P.gateBrStat : Nat := 0x1612
/-- GATE.DESAT_CNT[g] (R357). -/
abbrev P.gateDesatCnt : Nat := 0x1613
/-- GATE.HOC_CNT[b] (R357). -/
abbrev P.gateHocCnt : Nat := 0x1614
/-- GATE.BST_UV_CNT[g] (R357). -/
abbrev P.gateBstUvCnt : Nat := 0x1615
/-- GATE.VDRV_UV_CNT[i] (R357). -/
abbrev P.gateVdrvUvCnt : Nat := 0x1616
/-- GATE.STO_CNT[i] (R357). -/
abbrev P.gateStoCnt : Nat := 0x1617
/-- GATE.ST_STAT[i] (R357). -/
abbrev P.gateStStat : Nat := 0x1618
/-- GATE.ST_FAIL[i] (R357). -/
abbrev P.gateStFail : Nat := 0x1619
/-- GATE.ST_EPOCH[i] (R357). -/
abbrev P.gateStEpoch : Nat := 0x161A
/-- GATE.QF[i] (R357). -/
abbrev P.gateQf : Nat := 0x161B
/-- BUS.GROUP[b] (R372). -/
abbrev P.busGroup : Nat := 0x1700
/-- BUS.OV1[n] (R372). -/
abbrev P.busOv1 : Nat := 0x1701
/-- BUS.OV2[n] (R372). -/
abbrev P.busOv2 : Nat := 0x1702
/-- BUS.OV3[n] (R372). -/
abbrev P.busOv3 : Nat := 0x1703
/-- BUS.OV4[n] (R372). -/
abbrev P.busOv4 : Nat := 0x1704
/-- BUS.UV1[n] (R372). -/
abbrev P.busUv1 : Nat := 0x1705
/-- BUS.UV2[n] (R372). -/
abbrev P.busUv2 : Nat := 0x1706
/-- BUS.HYST[n] (R372). -/
abbrev P.busHyst : Nat := 0x1707
/-- BUS.UV_FILT[n] (R372). -/
abbrev P.busUvFilt : Nat := 0x1708
/-- BUS.OV4_HOLD[n] (R372). -/
abbrev P.busOv4Hold : Nat := 0x1709
/-- BUS.LB_K[d] (R372). -/
abbrev P.busLbK : Nat := 0x170A
/-- BUS.CHOP_CFG[c] (R372). -/
abbrev P.busChopCfg : Nat := 0x1710
/-- BUS.CHOP_CHECK[c] (R372). -/
abbrev P.busChopCheck : Nat := 0x1711
/-- BUS.CHOP_DV[c] (R372). -/
abbrev P.busChopDv : Nat := 0x1712
/-- BUS.STAT[n] (R372). -/
abbrev P.busStat : Nat := 0x1718
/-- BUS.V_HI[n] (R372). -/
abbrev P.busVHi : Nat := 0x1719
/-- BUS.V_LO[n] (R372). -/
abbrev P.busVLo : Nat := 0x171A
/-- BUS.P_BUS[d] (R372). -/
abbrev P.busPBus : Nat := 0x171B
/-- BUS.I_LB[d] (R372). -/
abbrev P.busILb : Nat := 0x171C
/-- BUS.CHOP_STAT[c] (R372). -/
abbrev P.busChopStat : Nat := 0x171D
/-- BUS.CHOP_ON_CNT[c] (R372). -/
abbrev P.busChopOnCnt : Nat := 0x171E
/-- BUS.OV4_CNT[n] (R372). -/
abbrev P.busOv4Cnt : Nat := 0x171F
/-- BUS.LB_CNT[d] (R372). -/
abbrev P.busLbCnt : Nat := 0x1720
/-- THERM.DIE_LVL[l] (R392). -/
abbrev P.thermDieLvl : Nat := 0x1800
/-- THERM.PS_LVL[e] (R392). -/
abbrev P.thermPsLvl : Nat := 0x1801
/-- THERM.DWELL (R392). -/
abbrev P.thermDwell : Nat := 0x1802
/-- THERM.ROR_N (R392). -/
abbrev P.thermRorN : Nat := 0x1803
/-- THERM.ROR_DIE (R392). -/
abbrev P.thermRorDie : Nat := 0x1804
/-- THERM.ROR_PS[b] (R392). -/
abbrev P.thermRorPs : Nat := 0x1805
/-- THERM.NTC_R25[b] (R392). -/
abbrev P.thermNtcR25 : Nat := 0x1806
/-- THERM.NTC_B[b] (R392). -/
abbrev P.thermNtcB : Nat := 0x1807
/-- THERM.NTC_RPU[b] (R392). -/
abbrev P.thermNtcRpu : Nat := 0x1808
/-- THERM.RDS25[b] (R392). -/
abbrev P.thermRds25 : Nat := 0x1809
/-- THERM.RDS_TC[b] (R392). -/
abbrev P.thermRdsTc : Nat := 0x180A
/-- THERM.ESW[b] (R392). -/
abbrev P.thermEsw : Nat := 0x180B
/-- THERM.ESW_V[b] (R392). -/
abbrev P.thermEswV : Nat := 0x180C
/-- THERM.ESW_I[b] (R392). -/
abbrev P.thermEswI : Nat := 0x180D
/-- THERM.VF[b] (R392). -/
abbrev P.thermVf : Nat := 0x180E
/-- THERM.FOSTER_R[e] (R392). -/
abbrev P.thermFosterR : Nat := 0x180F
/-- THERM.FOSTER_TAU[e] (R392). -/
abbrev P.thermFosterTau : Nat := 0x1810
/-- THERM.DER_SLOPE[b] (R392). -/
abbrev P.thermDerSlope : Nat := 0x1811
/-- THERM.DER_FLOOR[b] (R392). -/
abbrev P.thermDerFloor : Nat := 0x1812
/-- THERM.T_DIE[i] (R392). -/
abbrev P.thermTDie : Nat := 0x1818
/-- THERM.T_NTC[b] (R392). -/
abbrev P.thermTNtc : Nat := 0x1819
/-- THERM.TJ[g] (R392). -/
abbrev P.thermTj : Nat := 0x181A
/-- THERM.T_BR[b] (R392). -/
abbrev P.thermTBr : Nat := 0x181B
/-- THERM.P_LOSS[g] (R392). -/
abbrev P.thermPLoss : Nat := 0x181C
/-- THERM.I_THERM[d] (R392). -/
abbrev P.thermITherm : Nat := 0x181D
/-- THERM.LEVEL[u] (R392). -/
abbrev P.thermLevel : Nat := 0x181E
/-- THERM.CROSS_CNT[e] (R392). -/
abbrev P.thermCrossCnt : Nat := 0x181F
/-- THERM.ROR_CNT[u] (R392). -/
abbrev P.thermRorCnt : Nat := 0x1820
/-- THERM.SHDN_REC[e] (R392). -/
abbrev P.thermShdnRec : Nat := 0x1821
/-- THERM.SHDN_NEXT (R392). -/
abbrev P.thermShdnNext : Nat := 0x1822
/-- THERM.PS_MODE[b] (R119). -/
abbrev P.thermPsMode : Nat := 0x18F0
/-- THERM.HOST_T[g] (R134). -/
abbrev P.thermHostT : Nat := 0x18F1
/-- FLT.HEALTH_MASK (R423). -/
abbrev P.fltHealthMask : Nat := 0x1900
/-- FLT.PENUMBRA (R423). -/
abbrev P.fltPenumbra : Nat := 0x1901
/-- FLT.REACT[k] (R423). -/
abbrev P.fltReact : Nat := 0x1902
/-- FLT.SEL[i] (R423). -/
abbrev P.fltSel : Nat := 0x1903
/-- FLT.FIND[i] (R423). -/
abbrev P.fltFind : Nat := 0x1904
/-- FLT.REC_STAT[i] (R423). -/
abbrev P.fltRecStat : Nat := 0x1905
/-- FLT.REC_PATH[i] (R423). -/
abbrev P.fltRecPath : Nat := 0x1906
/-- FLT.REC_FIRST[i] (R423). -/
abbrev P.fltRecFirst : Nat := 0x1907
/-- FLT.REC_LAST[i] (R423). -/
abbrev P.fltRecLast : Nat := 0x1908
/-- FLT.SUM (R423). -/
abbrev P.fltSum : Nat := 0x1909
/-- FLT.JNL_STAT (R423). -/
abbrev P.fltJnlStat : Nat := 0x190A
/-- FLT.JNL_LOST (R423). -/
abbrev P.fltJnlLost : Nat := 0x190B
/-- FLT.JNL_SEQ (R423). -/
abbrev P.fltJnlSeq : Nat := 0x190C
/-- FLT.STREAM (R423). -/
abbrev P.fltStream : Nat := 0x190D
/-- FLT.MIRROR_NEXT (R423). -/
abbrev P.fltMirrorNext : Nat := 0x190E
/-- FLT.LIFE[k] (R423). -/
abbrev P.fltLife : Nat := 0x190F
/-- FLT.LIFE_EPOCH (R423). -/
abbrev P.fltLifeEpoch : Nat := 0x1910
/-- FLT.INJ_CNT (R423). -/
abbrev P.fltInjCnt : Nat := 0x1911
/-- FLT.PEN_OPEN (R423). -/
abbrev P.fltPenOpen : Nat := 0x1912
/-- FLT.CONSEQ_CNT (R423). -/
abbrev P.fltConseqCnt : Nat := 0x1913
/-- FLT.DEC_MODE (R119). -/
abbrev P.fltDecMode : Nat := 0x19F0
/-- FLT.HOST_DEC (R134). -/
abbrev P.fltHostDec : Nat := 0x19F1
/-- CHK.CFG[u] (R438). -/
abbrev P.chkCfg : Nat := 0x1A00
/-- CHK.POLY[u] (R438). -/
abbrev P.chkPoly : Nat := 0x1A01
/-- CHK.INIT[u] (R438). -/
abbrev P.chkInit : Nat := 0x1A02
/-- CHK.XOROUT[u] (R438). -/
abbrev P.chkXorout : Nat := 0x1A03
/-- CHK.ADDR[u] (R438). -/
abbrev P.chkAddr : Nat := 0x1A04
/-- CHK.REM[u] (R438). -/
abbrev P.chkRem : Nat := 0x1A05
/-- CHK.CUR[u] (R438). -/
abbrev P.chkCur : Nat := 0x1A06
/-- CHK.RESULT[u] (R438). -/
abbrev P.chkResult : Nat := 0x1A07
/-- CHK.EXPECT[u] (R438). -/
abbrev P.chkExpect : Nat := 0x1A08
/-- CHK.CTL[u] (R438). -/
abbrev P.chkCtl : Nat := 0x1A09
/-- CHK.STAT[u] (R438). -/
abbrev P.chkStat : Nat := 0x1A0A
/-- CHK.STALL_CNT[u] (R438). -/
abbrev P.chkStallCnt : Nat := 0x1A0B
/-- CHK.PER_INT (R438). -/
abbrev P.chkPerInt : Nat := 0x1A10
/-- CHK.MRAM_SCRUB_INT (R438). -/
abbrev P.chkMramScrubInt : Nat := 0x1A11
/-- CHK.SBE_CNT[m] (R438). -/
abbrev P.chkSbeCnt : Nat := 0x1A12
/-- CHK.DBE_CNT[m] (R438). -/
abbrev P.chkDbeCnt : Nat := 0x1A13
/-- CHK.SCRUB_EPOCH[m] (R438). -/
abbrev P.chkScrubEpoch : Nat := 0x1A14
/-- CHK.CFG_STAT (R438). -/
abbrev P.chkCfgStat : Nat := 0x1A15
/-- CHK.CFG_GEN (R438). -/
abbrev P.chkCfgGen : Nat := 0x1A16
/-- CHK.CV_REPAIR_CNT (R438). -/
abbrev P.chkCvRepairCnt : Nat := 0x1A17
/-- LINK.CFG (R465). -/
abbrev P.linkCfg : Nat := 0x1B00
/-- LINK.PORT_EN (R465). -/
abbrev P.linkPortEn : Nat := 0x1B01
/-- LINK.PORT_STAT[p] (R465). -/
abbrev P.linkPortStat : Nat := 0x1B02
/-- LINK.DLY[p] (R465). -/
abbrev P.linkDly : Nat := 0x1B03
/-- LINK.ID (R465). -/
abbrev P.linkId : Nat := 0x1B04
/-- LINK.UID (R465). -/
abbrev P.linkUid : Nat := 0x1B05
/-- LINK.STAT (R465). -/
abbrev P.linkStat : Nat := 0x1B06
/-- LINK.TOPO (R465). -/
abbrev P.linkTopo : Nat := 0x1B07
/-- LINK.NODE[n] (R465). -/
abbrev P.linkNode : Nat := 0x1B08
/-- LINK.SYNC_INT (R465). -/
abbrev P.linkSyncInt : Nat := 0x1B09
/-- LINK.SYNC_TOL (R465). -/
abbrev P.linkSyncTol : Nat := 0x1B0A
/-- LINK.SYNC_ERR (R465). -/
abbrev P.linkSyncErr : Nat := 0x1B0B
/-- LINK.DLY_INT (R465). -/
abbrev P.linkDlyInt : Nat := 0x1B0C
/-- LINK.GANG[j] (R465). -/
abbrev P.linkGang : Nat := 0x1B10
/-- LINK.GANG_OFS[e] (R465). -/
abbrev P.linkGangOfs : Nat := 0x1B11
/-- LINK.HOME[d] (R465). -/
abbrev P.linkHome : Nat := 0x1B12
/-- LINK.WAIT[d] (R465). -/
abbrev P.linkWait : Nat := 0x1B13
/-- LINK.EXTRA[d] (R465). -/
abbrev P.linkExtra : Nat := 0x1B14
/-- LINK.REP_BOUND[d] (R465). -/
abbrev P.linkRepBound : Nat := 0x1B15
/-- LINK.DUTY_LEAD[d] (R465). -/
abbrev P.linkDutyLead : Nat := 0x1B16
/-- LINK.LATE_MAX (R465). -/
abbrev P.linkLateMax : Nat := 0x1B17
/-- LINK.DUTY_MAX (R465). -/
abbrev P.linkDutyMax : Nat := 0x1B18
/-- LINK.RETX_TMO (R465). -/
abbrev P.linkRetxTmo : Nat := 0x1B19
/-- LINK.RETX_MAX (R465). -/
abbrev P.linkRetxMax : Nat := 0x1B1A
/-- LINK.REP_LATE[d] (R465). -/
abbrev P.linkRepLate : Nat := 0x1B20
/-- LINK.DUTY_LATE[d] (R465). -/
abbrev P.linkDutyLate : Nat := 0x1B21
/-- LINK.CRC_CNT[p] (R465). -/
abbrev P.linkCrcCnt : Nat := 0x1B22
/-- LINK.AUTH_CNT[p] (R465). -/
abbrev P.linkAuthCnt : Nat := 0x1B23
/-- LINK.RETX_CNT[p] (R465). -/
abbrev P.linkRetxCnt : Nat := 0x1B24
/-- LINK.DOWN_CNT[p] (R465). -/
abbrev P.linkDownCnt : Nat := 0x1B25
/-- LINK.HA_DROP (R465). -/
abbrev P.linkHaDrop : Nat := 0x1B26
/-- LINK.MBOX_DROP (R465). -/
abbrev P.linkMboxDrop : Nat := 0x1B27
/-- SEC.STAT (R487). -/
abbrev P.secStat : Nat := 0x1C00
/-- SEC.BOOT_PREF (R487). -/
abbrev P.secBootPref : Nat := 0x1C01
/-- SEC.SVN_RUN (R487). -/
abbrev P.secSvnRun : Nat := 0x1C02
/-- SEC.ARB_CNT[c] (R487). -/
abbrev P.secArbCnt : Nat := 0x1C03
/-- SEC.ARB_COMMIT (R487). -/
abbrev P.secArbCommit : Nat := 0x1C04
/-- SEC.SLOT_STAT[s] (R487). -/
abbrev P.secSlotStat : Nat := 0x1C05
/-- SEC.FW_TMO (R487). -/
abbrev P.secFwTmo : Nat := 0x1C06
/-- SEC.KEY_WR[e] (R487). -/
abbrev P.secKeyWr : Nat := 0x1C08
/-- SEC.KEY_RD[e] (R487). -/
abbrev P.secKeyRd : Nat := 0x1C09
/-- SEC.KEY_STAT (R487). -/
abbrev P.secKeyStat : Nat := 0x1C0A
/-- SEC.LOCK (R487). -/
abbrev P.secLock : Nat := 0x1C0B
/-- SEC.DBG_TMO (R487). -/
abbrev P.secDbgTmo : Nat := 0x1C0C
/-- SEC.RNG (R487). -/
abbrev P.secRng : Nat := 0x1C0D
/-- SEC.AUTH_FAIL_CNT (R487). -/
abbrev P.secAuthFailCnt : Nat := 0x1C0E
/-- SEC.TASK_AUTO (R487). -/
abbrev P.secTaskAuto : Nat := 0x1C0F
/-- SEC.TASK_STAT[t] (R487). -/
abbrev P.secTaskStat : Nat := 0x1C10
/-- PERF.CYCLE[c] (R507). -/
abbrev P.perfCycle : Nat := 0x1D00
/-- PERF.CNT[e] (R507). -/
abbrev P.perfCnt : Nat := 0x1D01
/-- PERF.EVT[e] (R507). -/
abbrev P.perfEvt : Nat := 0x1D02
/-- PERF.CTL[c] (R507). -/
abbrev P.perfCtl : Nat := 0x1D03
/-- PERF.OVF[c] (R507). -/
abbrev P.perfOvf : Nat := 0x1D04
/-- PERF.USER_EN (R507). -/
abbrev P.perfUserEn : Nat := 0x1D05
/-- PERF.DUMP_INTERVAL (R507). -/
abbrev P.perfDumpInterval : Nat := 0x1D06
/-- PERF.DUMP_CFG (R507). -/
abbrev P.perfDumpCfg : Nat := 0x1D07
/-- PERF.SAMPLE_CFG[c] (R507). -/
abbrev P.perfSampleCfg : Nat := 0x1D08
/-- PERF.SAMPLE_N[c] (R507). -/
abbrev P.perfSampleN : Nat := 0x1D09
/-- PERF.SAMPLE_DROP[c] (R507). -/
abbrev P.perfSampleDrop : Nat := 0x1D0A
/-- PERF.DUMP_DROP[s] (R507). -/
abbrev P.perfDumpDrop : Nat := 0x1D0B
/-- PERF.STAT (R507). -/
abbrev P.perfStat : Nat := 0x1D0C

/-- Rows of block 0x01. -/
def paramRows01 : List ParamRow := [
  ⟨P.sysId, 32, 0xFFFFFFFF, .one, .none, .ro, .immediate, .any, .special, .none, false⟩,
  ⟨P.sysRstSrc, 8, 0x1F, .one, .none, .w1c, .immediate, .any, .val 0x1, .none, false⟩,
  ⟨P.sysDrvMap, 8, 0x3F, .rng 0 4, .drive, .rw, .atCommit, .any, .val 0x0, .none, false⟩,
  ⟨P.sysGpioDir, 8, 0xFF, .one, .none, .rw, .immediate, .any, .val 0x0, .none, false⟩,
  ⟨P.sysGpioOut, 8, 0xFF, .one, .none, .rw, .immediate, .any, .val 0x0, .none, false⟩,
  ⟨P.sysGpioIn, 8, 0xFF, .one, .none, .ro, .immediate, .any, .val 0x0, .none, false⟩]

/-- Rows of block 0x02. -/
def paramRows02 : List ParamRow := [
  ⟨P.timeEpoch, 64, 0xFFFFFFFFFFFFFFFF, .one, .none, .ro, .immediate, .any, .val 0x0, .none, false⟩,
  ⟨P.timeEpochFlags, 8, 0x4, .one, .none, .w1c, .immediate, .any, .val 0x0, .none, false⟩,
  ⟨P.timeRefSel, 2, 0x3, .one, .none, .rw, .atBoot, .nat 0 2, .val 0x0, .none, false⟩,
  ⟨P.timeRefStat, 8, 0xFF, .one, .none, .ro, .immediate, .any, .val 0x0, .none, false⟩,
  ⟨P.timeXtalFailCnt, 16, 0xFFFF, .one, .none, .ro, .immediate, .any, .val 0x0, .none, false⟩,
  ⟨P.timeDlTaps, 16, 0xFFFF, .one, .none, .ro, .immediate, .any, .val 0x0, .none, false⟩,
  ⟨P.timeDlCalEpoch, 64, 0xFFFFFFFFFFFFFFFF, .one, .none, .ro, .immediate, .any, .val 0x0, .none, false⟩,
  ⟨P.timeRcTrim, 16, 0xFFFF, .one, .none, .ro, .immediate, .any, .special, .none, false⟩,
  ⟨P.timeBgTrim, 16, 0xFFFF, .one, .none, .ro, .immediate, .any, .special, .none, false⟩,
  ⟨P.timeSnapStat, 8, 0x3, .rng 0 4, .none, .w1c, .immediate, .any, .val 0x0, .none, false⟩,
  ⟨P.timeEra, 32, 0xFFFFFFFF, .one, .none, .ro, .immediate, .any, .val 0x1, .none, false⟩]

/-- Rows of block 0x03. -/
def paramRows03 : List ParamRow := [
  ⟨P.pwrState, 8, 0xFF, .one, .none, .ro, .immediate, .any, .val 0x2, .none, false⟩,
  ⟨P.pwrWakeSrc, 8, 0x3F, .one, .none, .w1c, .immediate, .any, .val 0x10, .none, false⟩,
  ⟨P.pwrWakeEn, 4, 0xF, .one, .none, .rw, .atCommit, .any, .val 0x1, .none, false⟩,
  ⟨P.pwrWakeCfg, 8, 0xFF, .one, .none, .rw, .atCommit, .fields [(2, 6, 1, 63)], .val 0x84, .none, false⟩,
  ⟨P.pwrCanwCfg, 8, 0x7, .one, .none, .rw, .atCommit, .any, .val 0x3, .none, false⟩,
  ⟨P.pwrWakeTimer, 32, 0xFFFFFFFF, .one, .none, .rw, .atCommit, .any, .val 0x0, .none, false⟩,
  ⟨P.pwrMwBridges, 4, 0xF, .one, .none, .rw, .atCommit, .any, .val 0x0, .none, false⟩,
  ⟨P.pwrMwEdges, 8, 0xFF, .one, .none, .rw, .atCommit, .nat 2 32, .val 0x4, .none, false⟩,
  ⟨P.pwrMwWindow, 8, 0xFF, .one, .none, .rw, .atCommit, .nat 10 250, .val 0x32, .none, false⟩,
  ⟨P.pwrMwThr, 3, 0x7, .one, .none, .rw, .atCommit, .any, .val 0x1, .none, false⟩,
  ⟨P.pwrMwRelisten, 16, 0xFFFF, .one, .none, .rw, .atCommit, .nat 100 10000, .val 0x3E8, .none, false⟩,
  ⟨P.pwrMwQuiet, 16, 0xFFFF, .one, .none, .rw, .atCommit, .nat 1000 60000, .val 0x2710, .none, false⟩,
  ⟨P.pwrMwVdrvWait, 16, 0xFFFF, .one, .none, .rw, .atCommit, .nat 1 1000, .val 0x32, .none, false⟩,
  ⟨P.pwrHalfIdle, 16, 0xFFFF, .one, .none, .rw, .atCommit, .any, .val 0x0, .none, false⟩,
  ⟨P.pwrSupply, 1, 0x1, .one, .none, .rw, .immediate, .any, .val 0x1, .none, false⟩,
  ⟨P.pwrEAllow, 32, 0xFFFFFFFF, .one, .none, .rw, .immediate, .any, .val 0x2255100, .none, false⟩,
  ⟨P.pwrECap, 32, 0xFFFFFFFF, .one, .none, .rw, .immediate, .nat 12000 4294967295, .val 0x2255100, .none, false⟩,
  ⟨P.pwrELevel, 32, 0xFFFFFFFF, .one, .none, .ro, .immediate, .any, .special, .none, false⟩,
  ⟨P.pwrHReserve, 8, 0xFF, .one, .none, .rw, .immediate, .any, .val 0x1E, .none, false⟩,
  ⟨P.pwrThrRatio, 4, 0xF, .one, .none, .rw, .immediate, .nat 1 15, .val 0x3, .none, false⟩,
  ⟨P.pwrEDeferCnt, 32, 0xFFFFFFFF, .one, .none, .ro, .immediate, .any, .val 0x0, .none, false⟩,
  ⟨P.pwrHDeferCnt, 32, 0xFFFFFFFF, .one, .none, .ro, .immediate, .any, .val 0x0, .none, false⟩,
  ⟨P.pwrTaskLateCnt, 32, 0xFFFFFFFF, .one, .none, .ro, .immediate, .any, .val 0x0, .none, false⟩,
  ⟨P.pwrTaskPend, 8, 0xFF, .one, .none, .ro, .immediate, .any, .val 0x0, .none, false⟩]

/-- Rows of block 0x04, part 1. -/
def paramRows04p1 : List ParamRow := [
  ⟨P.hostGstat, 32, 0x1BE0, .one, .none, .w1c, .immediate, .any, .val 0x0, .none, false⟩,
  ⟨P.hostIrqPend, 64, 0xFFFFFFFFFFFFFFFF, .one, .none, .w1c, .immediate, .any, .val 0x0, .none, false⟩,
  ⟨P.hostIrqEn, 64, 0xFFFFFFFFFFFFFFFF, .one, .none, .rw, .immediate, .any, .val 0x1002A, .none, false⟩,
  ⟨P.hostIrqGen, 32, 0xFFFFFFFF, .one, .none, .rw, .immediate, .any, .val 0x8, .none, false⟩,
  ⟨P.hostIrqHoldoff, 8, 0xFF, .one, .none, .rw, .immediate, .any, .val 0x0, .none, false⟩,
  ⟨P.hostNirqMode, 1, 0x1, .one, .none, .rw, .atBoot, .any, .val 0x0, .none, false⟩,
  ⟨P.hostAperture, 5, 0x1F, .one, .none, .rw, .immediate, .any, .val 0x0, .none, false⟩,
  ⟨P.hostRingCfg, 32, 0xC7FFFFFF, .rng 0 64, .none, .rw, .immediate, .any, .special, .none, false⟩,
  ⟨P.hostRingIdx, 32, 0xFFFFFFFF, .rng 0 64, .none, .ro, .immediate, .any, .val 0x0, .none, false⟩,
  ⟨P.hostRingStamp, 64, 0xFFFFFFFFFFFFFFFF, .rng 0 64, .none, .ro, .immediate, .any, .val 0x0, .none, false⟩,
  ⟨P.hostDoorbell, 16, 0xFFFF, .rng 0 64, .none, .wo, .immediate, .any, .val 0x0, .none, false⟩,
  ⟨P.hostRingDrop, 32, 0xFFFFFFFF, .rng 0 64, .none, .ro, .immediate, .any, .val 0x0, .none, false⟩,
  ⟨P.hostMsgTmo, 16, 0xFFFF, .one, .none, .rw, .immediate, .nat 100 10000, .val 0x3E8, .none, false⟩,
  ⟨P.hostSpiCrcErr, 32, 0xFFFFFFFF, .one, .none, .ro, .immediate, .any, .val 0x0, .none, false⟩,
  ⟨P.hostSpiFrameErr, 32, 0xFFFFFFFF, .one, .none, .ro, .immediate, .any, .val 0x0, .none, false⟩,
  ⟨P.hostMsgCrcErr, 32, 0xFFFFFFFF, .one, .none, .ro, .immediate, .any, .val 0x0, .none, false⟩,
  ⟨P.hostMsgFmtErr, 32, 0xFFFFFFFF, .one, .none, .ro, .immediate, .any, .val 0x0, .none, false⟩,
  ⟨P.hostDbErr, 32, 0xFFFFFFFF, .one, .none, .ro, .immediate, .any, .val 0x0, .none, false⟩,
  ⟨P.hostSeqGap, 32, 0xFFFFFFFF, .one, .none, .ro, .immediate, .any, .val 0x0, .none, false⟩,
  ⟨P.hostLateCnt, 32, 0xFFFFFFFF, .one, .none, .ro, .immediate, .any, .val 0x0, .none, false⟩,
  ⟨P.hostRespStall, 32, 0xFFFFFFFF, .one, .none, .ro, .immediate, .any, .val 0x0, .none, false⟩,
  ⟨P.hostCanEn, 1, 0x1, .one, .none, .rw, .atCommit, .any, .val 0x1, .none, false⟩,
  ⟨P.hostCanNode, 8, 0xFF, .one, .none, .rw, .atCommit, .nat 0 254, .val 0x10, .none, false⟩,
  ⟨P.hostCanArb, 2, 0x3, .one, .none, .rw, .atCommit, .any, .val 0x2, .none, false⟩]

/-- Rows of block 0x04, part 2. -/
def paramRows04p2 : List ParamRow := [
  ⟨P.hostCanData, 2, 0x3, .one, .none, .rw, .atCommit, .any, .val 0x1, .none, false⟩,
  ⟨P.hostCanSpArb, 8, 0xFF, .one, .none, .rw, .atCommit, .nat 50 90, .val 0x50, .none, false⟩,
  ⟨P.hostCanSpData, 8, 0xFF, .one, .none, .rw, .atCommit, .nat 50 90, .val 0x4B, .none, false⟩,
  ⟨P.hostCanSegTmo, 8, 0xFF, .one, .none, .rw, .atCommit, .nat 1 100, .val 0xA, .none, false⟩,
  ⟨P.hostCanEvtMask, 5, 0x1F, .one, .none, .rw, .immediate, .any, .val 0x17, .none, false⟩,
  ⟨P.hostCanReasmErr, 32, 0xFFFFFFFF, .one, .none, .ro, .immediate, .any, .val 0x0, .none, false⟩,
  ⟨P.hostCanBusoff, 32, 0xFFFFFFFF, .one, .none, .ro, .immediate, .any, .val 0x0, .none, false⟩,
  ⟨P.hostMargin, 16, 0xFFFF, .one, .none, .rw, .atCommit, .nat 100 2000, .val 0x258, .none, false⟩,
  ⟨P.hostLateMax, 8, 0xFF, .one, .none, .rw, .atCommit, .nat 1 255, .val 0x4, .none, false⟩,
  ⟨P.hostHaBind, 16, 0xFF1F, .rng 8 8, .none, .rw, .atCommit, .any, .val 0x0, .none, false⟩,
  ⟨P.hostHaLate, 32, 0xFFFFFFFF, .rng 0 4, .drive, .ro, .immediate, .any, .val 0x0, .none, false⟩,
  ⟨P.hostHaStale, 32, 0xFFFFFFFF, .rng 0 4, .drive, .ro, .immediate, .any, .val 0x0, .none, false⟩,
  ⟨P.hostHaRun, 8, 0xFF, .rng 0 4, .drive, .ro, .immediate, .any, .val 0x0, .none, false⟩,
  ⟨P.hostSlowTmo, 16, 0xFFFF, .one, .none, .rw, .atCommit, .nat 10 5000, .val 0x64, .none, false⟩,
  ⟨P.hostDecTmo, 16, 0xFFFF, .one, .none, .rw, .atCommit, .nat 100 50000, .val 0x2710, .none, false⟩,
  ⟨P.hostDecLate, 32, 0xFFFFFFFF, .one, .none, .ro, .immediate, .any, .val 0x0, .none, false⟩,
  ⟨P.hostDecRun, 8, 0xFF, .one, .none, .ro, .immediate, .any, .val 0x0, .none, false⟩,
  ⟨P.hostDecStray, 32, 0xFFFFFFFF, .one, .none, .ro, .immediate, .any, .val 0x0, .none, false⟩]

/-- All rows of block 0x04. -/
def paramRows04 : List ParamRow :=
  paramRows04p1 ++ paramRows04p2

/-- Rows of block 0x05. -/
def paramRows05 : List ParamRow := [
  ⟨P.txnIdleMax, 16, 0xFFFF, .one, .none, .rw, .immediate, .nat 10 10000, .val 0x3E8, .none, false⟩,
  ⟨P.txnStat, 16, 0xFFFF, .rng 0 4, .none, .ro, .immediate, .any, .val 0x0, .none, false⟩,
  ⟨P.txnIdleRbCnt, 32, 0xFFFFFFFF, .one, .none, .ro, .immediate, .any, .val 0x0, .none, false⟩,
  ⟨P.txnCommitCnt, 32, 0xFFFFFFFF, .one, .none, .ro, .immediate, .any, .val 0x0, .none, false⟩,
  ⟨P.txnFailCnt, 32, 0xFFFFFFFF, .one, .none, .ro, .immediate, .any, .val 0x0, .none, false⟩]

/-- Rows of block 0x10, part 1. -/
def paramRows10p1 : List ParamRow := [
  ⟨P.pwmPeriod, 16, 0xFFFF, .rng 0 4, .drive, .rw, .atReload, .nat 2000 65535, .val 0x2710, .drive, false⟩,
  ⟨P.pwmCmpa, 21, 0x1FFFFF, .rng 0 12, .gen, .rw, .atReload, .any, .val 0x1FFFFF, .test, false⟩,
  ⟨P.pwmCmpb, 21, 0x1FFFFF, .rng 0 12, .gen, .rw, .atReload, .any, .val 0x1FFFFF, .test, false⟩,
  ⟨P.pwmOvr, 2, 0x3, .rng 0 12, .gen, .rw, .atReload, .any, .val 0x1, .test, false⟩,
  ⟨P.pwmDtRise, 14, 0x3FFF, .rng 0 12, .gen, .rw, .atReload, .any, .val 0x3C0, .none, false⟩,
  ⟨P.pwmDtFall, 14, 0x3FFF, .rng 0 12, .gen, .rw, .atReload, .any, .val 0x3C0, .none, false⟩,
  ⟨P.pwmUpdCommit, 1, 0x1, .rng 0 4, .drive, .wo, .atReload, .any, .val 0x0, .test, false⟩,
  ⟨P.pwmUpdStat, 8, 0xFF, .rng 0 4, .drive, .ro, .immediate, .any, .val 0x0, .none, false⟩,
  ⟨P.pwmTestEn, 1, 0x1, .rng 0 4, .drive, .rw, .atCommit, .any, .val 0x0, .drive, false⟩,
  ⟨P.pwmRepeatCnt, 32, 0xFFFFFFFF, .rng 0 4, .drive, .ro, .immediate, .any, .val 0x0, .none, false⟩,
  ⟨P.pwmUpdBroken, 32, 0xFFFFFFFF, .rng 0 4, .drive, .ro, .immediate, .any, .val 0x0, .none, false⟩,
  ⟨P.pwmShortCnt, 32, 0xFFFFFFFF, .rng 0 12, .gen, .ro, .immediate, .any, .val 0x0, .none, false⟩,
  ⟨P.pwmForceStat, 8, 0xFF, .rng 0 12, .gen, .ro, .immediate, .any, .val 0x0, .none, false⟩,
  ⟨P.pwmSyncSrc, 2, 0x3, .one, .none, .rw, .atCommit, .nat 0 2, .val 0x0, .none, false⟩,
  ⟨P.pwmSyncPeriod, 16, 0xFFFF, .one, .none, .rw, .atCommit, .nat 2000 65535, .val 0x2710, .none, false⟩,
  ⟨P.pwmSyncDly, 16, 0xFFFF, .rng 0 4, .bridge, .rw, .atCommit, .any, .val 0x0, .none, false⟩,
  ⟨P.pwmSyncMode, 1, 0x1, .rng 0 4, .drive, .rw, .atCommit, .any, .val 0x0, .none, false⟩,
  ⟨P.pwmSyncStep, 4, 0xF, .one, .none, .rw, .atCommit, .nat 1 8, .val 0x1, .none, false⟩,
  ⟨P.pwmSyncWin, 16, 0xFFFF, .one, .none, .rw, .atCommit, .nat 1 1000, .val 0x14, .none, false⟩,
  ⟨P.pwmSyncInCfg, 8, 0x3F, .one, .none, .rw, .atCommit, .any, .val 0x8, .none, false⟩,
  ⟨P.pwmSyncInComp, 8, 0xFF, .one, .none, .rw, .atCommit, .any, .val 0x0, .none, false⟩,
  ⟨P.pwmSyncOutCfg, 4, 0xF, .one, .none, .rw, .atCommit, .any, .val 0x0, .none, false⟩,
  ⟨P.pwmSyncPhaseCnt, 32, 0xFFFFFFFF, .rng 0 4, .drive, .ro, .immediate, .any, .val 0x0, .none, false⟩,
  ⟨P.pwmSyncLossCnt, 32, 0xFFFFFFFF, .rng 0 4, .drive, .ro, .immediate, .any, .val 0x0, .none, false⟩]

/-- Rows of block 0x10, part 2. -/
def paramRows10p2 : List ParamRow := [
  ⟨P.pwmIlMap, 12, 0xFFF, .rng 0 12, .gen, .rw, .atCommit, .any, .special, .ilGroup, false⟩,
  ⟨P.pwmTripCfg, 16, 0xFF0F, .rng 0 8, .none, .rw, .atCommit, .fields [(2, 2, 0, 2)], .val 0x808, .none, false⟩,
  ⟨P.pwmTripMap, 12, 0xFFF, .rng 0 8, .none, .rw, .atCommit, .any, .val 0xFFF, .none, false⟩,
  ⟨P.pwmTripStat, 16, 0xFFFF, .one, .none, .ro, .immediate, .any, .val 0x0, .none, false⟩,
  ⟨P.pwmClearRefused, 16, 0xFFFF, .rng 0 8, .none, .ro, .immediate, .any, .val 0x0, .none, false⟩,
  ⟨P.pwmGuardSet, 14, 0x3FFF, .one, .none, .rws, .atBoot, .any, .val 0x303F, .none, false⟩,
  ⟨P.pwmGuardSafe, 1, 0x1, .one, .none, .rws, .atBoot, .any, .val 0x0, .none, false⟩,
  ⟨P.pwmHaltStat, 8, 0xFF, .one, .none, .ro, .immediate, .any, .val 0x0, .none, false⟩]

/-- All rows of block 0x10. -/
def paramRows10 : List ParamRow :=
  paramRows10p1 ++ paramRows10p2

/-- Rows of block 0x11. -/
def paramRows11 : List ParamRow := [
  ⟨P.adcGain, 3, 0x7, .rng 0 4, .bridge, .rw, .atReload, .nat 0 4, .val 0x0, .none, false⟩,
  ⟨P.adcFcFilt, 2, 0x3, .rng 0 8, .conv, .rw, .atReload, .nat 0 2, .val 0x0, .none, false⟩,
  ⟨P.adcPhase, 4, 0xF, .rng 0 8, .conv, .rw, .atBoot, .nat 0 9, .special, .none, false⟩,
  ⟨P.adcChkList, 32, 0xFFFFFFFF, .rng 0 4, .bridge, .rw, .atReload, .any, .val 0x51413121, .none, false⟩,
  ⟨P.adcChkSlot, 4, 0xF, .rng 0 4, .bridge, .rw, .atReload, .nat 1 15, .val 0x3, .none, false⟩,
  ⟨P.adcPlausThr, 12, 0xFFF, .rng 0 4, .bridge, .rw, .atCommit, .nat 1 4095, .val 0x40, .none, false⟩,
  ⟨P.adcPlausN, 8, 0xFF, .rng 0 4, .bridge, .rw, .atCommit, .nat 1 255, .val 0x8, .none, false⟩,
  ⟨P.adcPlausCnt, 32, 0xFFFFFFFF, .rng 0 4, .bridge, .ro, .immediate, .any, .val 0x0, .none, false⟩,
  ⟨P.adcVbusAgeMax, 16, 0xFFFF, .rng 0 4, .bridge, .rw, .atCommit, .nat 10 1000, .val 0x64, .none, false⟩,
  ⟨P.adcOfsA, 32, 0xFFFFFFFF, .rng 0 4, .bridge, .ro, .immediate, .any, .special, .none, false⟩,
  ⟨P.adcOfsB, 32, 0xFFFFFFFF, .rng 0 4, .bridge, .ro, .immediate, .any, .special, .none, false⟩,
  ⟨P.adcOrngCnt, 32, 0xFFFFFFFF, .rng 0 8, .none, .ro, .immediate, .any, .val 0x0, .none, false⟩,
  ⟨P.adcInvCnt, 32, 0xFFFFFFFF, .rng 0 8, .none, .ro, .immediate, .any, .val 0x0, .none, false⟩,
  ⟨P.adcLast, 32, 0xFFFFFFFF, .rng 0 8, .none, .ro, .immediate, .any, .val 0x0, .none, false⟩,
  ⟨P.adcHkPeriod, 6, 0x3F, .one, .none, .rw, .atCommit, .nat 1 32, .val 0x4, .none, false⟩,
  ⟨P.adcHkDec, 3, 0x7, .one, .none, .rw, .immediate, .nat 0 4, .val 0x1, .none, false⟩,
  ⟨P.adcHkList, 8, 0xFF, .rng 0 32, .none, .rw, .atCommit, .hkEntry, .special, .none, false⟩,
  ⟨P.adcHkResult, 32, 0xFFFFFFFF, .rng 0 32, .none, .ro, .immediate, .any, .val 0x0, .none, false⟩,
  ⟨P.adcHkValue, 32, 0xFFFFFFFF, .rng 0 32, .none, .ro, .immediate, .any, .val 0x0, .none, false⟩,
  ⟨P.adcHkEpoch, 64, 0xFFFFFFFFFFFFFFFF, .rng 0 32, .none, .ro, .immediate, .any, .val 0x0, .none, false⟩,
  ⟨P.adcHkRoundEpoch, 64, 0xFFFFFFFFFFFFFFFF, .one, .none, .ro, .immediate, .any, .val 0x0, .none, false⟩,
  ⟨P.adcHkRoundCnt, 32, 0xFFFFFFFF, .one, .none, .ro, .immediate, .any, .val 0x0, .none, false⟩,
  ⟨P.adcUrgDrop, 32, 0xFFFFFFFF, .one, .none, .ro, .immediate, .any, .val 0x0, .none, false⟩,
  ⟨P.adcVbusPlausThr, 8, 0xFF, .one, .none, .rw, .atCommit, .nat 1 255, .val 0x14, .none, false⟩]

/-- Rows of block 0x12. -/
def paramRows12 : List ParamRow := [
  ⟨P.shuntRShunt, 16, 0xFFFF, .rng 0 4, .bridge, .rw, .atReload, .nat 100 65535, .val 0x3E8, .none, false⟩,
  ⟨P.shuntTSettle, 8, 0xFF, .rng 0 4, .drive, .rw, .atSample, .nat 20 200, .val 0x32, .none, false⟩,
  ⟨P.shuntTGuard, 6, 0x3F, .rng 0 4, .drive, .rw, .atSample, .nat 1 40, .val 0x5, .none, false⟩,
  ⟨P.shuntTMinWin, 16, 0xFFFF, .rng 0 4, .drive, .ro, .atSample, .any, .val 0x4B, .none, false⟩,
  ⟨P.shuntMMax, 16, 0xFFFF, .rng 0 4, .drive, .ro, .atSample, .any, .val 0x7E35, .none, false⟩,
  ⟨P.shuntMissMax, 8, 0xFF, .rng 0 4, .drive, .rw, .atCommit, .nat 1 255, .val 0x8, .none, false⟩,
  ⟨P.shuntMissRun, 8, 0xFF, .rng 0 4, .drive, .ro, .immediate, .any, .val 0x0, .none, false⟩,
  ⟨P.shuntMissCnt, 32, 0xFFFFFFFF, .rng 0 4, .bridge, .ro, .immediate, .any, .val 0x0, .none, false⟩,
  ⟨P.shuntCarryCnt, 32, 0xFFFFFFFF, .rng 0 4, .drive, .ro, .immediate, .any, .val 0x0, .none, false⟩,
  ⟨P.shuntShiftCnt, 32, 0xFFFFFFFF, .rng 0 4, .drive, .ro, .immediate, .any, .val 0x0, .none, false⟩,
  ⟨P.shuntMlimCnt, 32, 0xFFFFFFFF, .rng 0 4, .drive, .ro, .immediate, .any, .val 0x0, .none, false⟩,
  ⟨P.shuntStat, 8, 0xFF, .rng 0 4, .bridge, .ro, .immediate, .any, .val 0x4, .none, false⟩,
  ⟨P.shuntIPhase, 32, 0xFFFFFFFF, .rng 0 12, .gen, .ro, .immediate, .any, .val 0x0, .none, false⟩]

/-- Rows of block 0x13, part 1. -/
def paramRows13p1 : List ParamRow := [
  ⟨P.posSrc, 2, 0x3, .rng 0 4, .drive, .rw, .atCommit, .any, .val 0x0, .drive, false⟩,
  ⟨P.posPolePairs, 6, 0x3F, .rng 0 4, .drive, .rw, .atCommit, .nat 1 32, .val 0x4, .drive, false⟩,
  ⟨P.posInCfg, 8, 0x7F, .rng 0 4, .bridge, .rw, .atCommit, .any, .val 0x4, .none, false⟩,
  ⟨P.posHallOfs, 16, 0xFFFF, .rng 0 4, .drive, .rw, .atSample, .any, .val 0x0, .none, false⟩,
  ⟨P.posHallSlack, 16, 0xFFFF, .rng 0 4, .drive, .rw, .atSample, .nat 0 5461, .val 0x71C, .none, false⟩,
  ⟨P.posEncLines, 16, 0xFFFF, .rng 0 4, .drive, .rw, .atCommit, .nat 16 16384, .val 0x400, .drive, false⟩,
  ⟨P.posEncZOfs, 16, 0xFFFF, .rng 0 4, .drive, .rw, .atSample, .any, .val 0x0, .none, false⟩,
  ⟨P.posEncZTol, 8, 0xFF, .rng 0 4, .drive, .rw, .atCommit, .nat 1 255, .val 0x4, .none, false⟩,
  ⟨P.posTrkKa, 16, 0xFFFF, .rng 0 4, .drive, .rw, .atSample, .nat 1 65535, .val 0x4000, .none, false⟩,
  ⟨P.posTrkKw, 16, 0xFFFF, .rng 0 4, .drive, .rw, .atSample, .nat 1 65535, .val 0x1000, .none, false⟩,
  ⟨P.posZeroTmo, 16, 0xFFFF, .rng 0 4, .drive, .rw, .atCommit, .nat 1 10000, .val 0x64, .none, false⟩,
  ⟨P.posEclIMax, 8, 0xFF, .rng 0 4, .drive, .rw, .atSample, .nat 1 200, .val 0x1E, .none, false⟩,
  ⟨P.posEclPerRev, 3, 0x7, .rng 0 4, .drive, .rw, .atSample, .nat 1 6, .val 0x3, .none, false⟩,
  ⟨P.posEclLen, 2, 0x3, .rng 0 4, .drive, .rw, .atSample, .nat 1 2, .val 0x1, .none, false⟩,
  ⟨P.posEclGap, 4, 0xF, .rng 0 4, .drive, .rw, .atSample, .nat 1 15, .val 0x2, .none, false⟩,
  ⟨P.posEclSkipMax, 8, 0xFF, .rng 0 4, .drive, .rw, .atCommit, .nat 1 255, .val 0xC, .none, false⟩,
  ⟨P.posEclWMin, 10, 0x3FF, .rng 0 4, .drive, .rw, .atCommit, .nat 5 500, .val 0x1E, .none, false⟩,
  ⟨P.posZcThr, 8, 0xFF, .rng 0 4, .bridge, .rw, .atSample, .nat 1 255, .val 0x4, .none, false⟩,
  ⟨P.posStart, 1, 0x1, .rng 0 4, .drive, .rw, .atCommit, .any, .val 0x0, .drive, false⟩,
  ⟨P.posAlignAng, 16, 0xFFFF, .rng 0 4, .drive, .rw, .atCommit, .any, .val 0x0, .none, false⟩,
  ⟨P.posAlignI, 10, 0x3FF, .rng 0 4, .drive, .rw, .atCommit, .nat 0 1000, .val 0x12C, .none, false⟩,
  ⟨P.posAlignT, 16, 0xFFFF, .rng 0 4, .drive, .rw, .atCommit, .nat 1 5000, .val 0xC8, .none, false⟩,
  ⟨P.posOlI, 10, 0x3FF, .rng 0 4, .drive, .rw, .atCommit, .nat 0 1000, .val 0x1F4, .none, false⟩,
  ⟨P.posOlAcc, 32, 0xFFFFFFFF, .rng 0 4, .drive, .rw, .atCommit, .flt 0x3F800000#32 0x49742400#32, .val 0x44FA0000, .none, false⟩]

/-- Rows of block 0x13, part 2. -/
def paramRows13p2 : List ParamRow := [
  ⟨P.posOlWEnd, 10, 0x3FF, .rng 0 4, .drive, .rw, .atCommit, .nat 5 500, .val 0x50, .none, false⟩,
  ⟨P.posOlWTol, 7, 0x7F, .rng 0 4, .drive, .rw, .atCommit, .nat 1 100, .val 0x19, .none, false⟩,
  ⟨P.posOlHandover, 4, 0xF, .rng 0 4, .drive, .rw, .atCommit, .nat 1 15, .val 0x3, .none, false⟩,
  ⟨P.posOlTMax, 16, 0xFFFF, .rng 0 4, .drive, .rw, .atCommit, .nat 10 60000, .val 0xBB8, .none, false⟩,
  ⟨P.posListen, 16, 0xFFFF, .rng 0 4, .drive, .rw, .atCommit, .nat 1 1000, .val 0x14, .none, false⟩,
  ⟨P.posListenEdges, 4, 0xF, .rng 0 4, .drive, .rw, .atCommit, .nat 2 12, .val 0x3, .none, false⟩,
  ⟨P.posListenHyst, 4, 0xF, .rng 0 4, .bridge, .rw, .atCommit, .nat 1 15, .val 0x3, .none, false⟩,
  ⟨P.posFlyMin, 10, 0x3FF, .rng 0 4, .drive, .rw, .atCommit, .nat 5 1000, .val 0x32, .none, false⟩,
  ⟨P.posRevMax, 10, 0x3FF, .rng 0 4, .drive, .rw, .atCommit, .nat 5 1000, .val 0xC8, .none, false⟩,
  ⟨P.posAscStep, 16, 0xFFFF, .rng 0 4, .drive, .rw, .atCommit, .nat 5 1000, .val 0x32, .none, false⟩,
  ⟨P.posBrakeMax, 16, 0xFFFF, .rng 0 4, .drive, .rw, .atCommit, .nat 100 60000, .val 0x1388, .none, false⟩,
  ⟨P.posAngle, 32, 0xFFFFFFFF, .rng 0 4, .drive, .ro, .immediate, .any, .val 0x0, .none, false⟩,
  ⟨P.posSpeed, 32, 0xFFFFFFFF, .rng 0 4, .drive, .ro, .immediate, .any, .val 0x0, .none, false⟩,
  ⟨P.posEvEpoch, 64, 0xFFFFFFFFFFFFFFFF, .rng 0 4, .drive, .ro, .immediate, .any, .val 0x0, .none, false⟩,
  ⟨P.posStat, 16, 0xFFFF, .rng 0 4, .drive, .ro, .immediate, .any, .val 0x0, .none, false⟩,
  ⟨P.posEncCount, 32, 0xFFFFFFFF, .rng 0 4, .drive, .ro, .immediate, .any, .val 0x0, .none, false⟩,
  ⟨P.posEclRun, 8, 0xFF, .rng 0 4, .drive, .ro, .immediate, .any, .val 0x0, .none, false⟩,
  ⟨P.posEclCnt, 32, 0xFFFFFFFF, .rng 0 4, .drive, .ro, .immediate, .any, .val 0x0, .none, false⟩,
  ⟨P.posEclSkipCnt, 32, 0xFFFFFFFF, .rng 0 4, .drive, .ro, .immediate, .any, .val 0x0, .none, false⟩,
  ⟨P.posEclLast, 32, 0xFFFFFFFF, .rng 0 4, .drive, .ro, .immediate, .any, .val 0x0, .none, false⟩,
  ⟨P.posHallErrCnt, 32, 0xFFFFFFFF, .rng 0 4, .bridge, .ro, .immediate, .any, .val 0x0, .none, false⟩,
  ⟨P.posEncErrCnt, 32, 0xFFFFFFFF, .rng 0 4, .bridge, .ro, .immediate, .any, .val 0x0, .none, false⟩,
  ⟨P.posAngMode, 8, 0x3, .rng 0 4, .drive, .rw, .atSample, .nat 0 3, .val 0x2, .none, false⟩]

/-- All rows of block 0x13. -/
def paramRows13 : List ParamRow :=
  paramRows13p1 ++ paramRows13p2

/-- Rows of block 0x14, part 1. -/
def paramRows14p1 : List ParamRow := [
  ⟨P.focCtrl, 1, 0x1, .rng 0 4, .drive, .rw, .atSample, .any, .val 0x0, .none, false⟩,
  ⟨P.focSet, 32, 0xFFFFFFFF, .rng 0 4, .drive, .rw, .atSample, .any, .val 0x0, .none, false⟩,
  ⟨P.focIRated, 32, 0xFFFFFFFF, .rng 0 4, .drive, .rw, .atCommit, .flt 0x3DCCCCCD#32 0x44FA0000#32, .val 0x41200000, .drive, false⟩,
  ⟨P.focWRated, 32, 0xFFFFFFFF, .rng 0 4, .drive, .rw, .atCommit, .flt 0x3F800000#32 0x47C35000#32, .val 0x447A0000, .drive, false⟩,
  ⟨P.focIMax, 32, 0xFFFFFFFF, .rng 0 4, .drive, .rw, .atSample, .flt 0x3DCCCCCD#32 0x44FA0000#32, .val 0x41200000, .none, false⟩,
  ⟨P.focTMax, 32, 0xFFFFFFFF, .rng 0 4, .drive, .rw, .atSample, .flt 0x0#32 0x461C4000#32, .val 0x3F800000, .none, false⟩,
  ⟨P.focWMax, 32, 0xFFFFFFFF, .rng 0 4, .drive, .rw, .atSample, .flt 0x3F800000#32 0x47C35000#32, .val 0x44FA0000, .none, false⟩,
  ⟨P.focPGenMax, 32, 0xFFFFFFFF, .rng 0 4, .drive, .rw, .atSample, .flt 0x0#32 0x49742400#32, .val 0x447A0000, .none, false⟩,
  ⟨P.focPsi, 32, 0xFFFFFFFF, .rng 0 4, .drive, .rw, .atSample, .flt 0x38D1B717#32 0x3F800000#32, .val 0x3C23D70A, .none, false⟩,
  ⟨P.focLd, 32, 0xFFFFFFFF, .rng 0 4, .drive, .rw, .atSample, .flt 0x33D6BF95#32 0x3DCCCCCD#32, .val 0x38D1B717, .none, false⟩,
  ⟨P.focLq, 32, 0xFFFFFFFF, .rng 0 4, .drive, .rw, .atSample, .flt 0x33D6BF95#32 0x3DCCCCCD#32, .val 0x38D1B717, .none, false⟩,
  ⟨P.focRs, 32, 0xFFFFFFFF, .rng 0 4, .drive, .rw, .atSample, .flt 0x0#32 0x41200000#32, .val 0x3C23D70A, .none, false⟩,
  ⟨P.focBrOfs, 16, 0xFFFF, .rng 0 4, .bridge, .rw, .atCommit, .any, .val 0x0, .owner, false⟩,
  ⟨P.focKpD, 32, 0xFFFFFFFF, .rng 0 4, .drive, .rw, .atSample, .flt 0x0#32 0x447A0000#32, .val 0x3DCCCCCD, .none, true⟩,
  ⟨P.focKiD, 32, 0xFFFFFFFF, .rng 0 4, .drive, .rw, .atSample, .flt 0x0#32 0x4B189680#32, .val 0x42C80000, .none, true⟩,
  ⟨P.focKpQ, 32, 0xFFFFFFFF, .rng 0 4, .drive, .rw, .atSample, .flt 0x0#32 0x447A0000#32, .val 0x3DCCCCCD, .none, true⟩,
  ⟨P.focKiQ, 32, 0xFFFFFFFF, .rng 0 4, .drive, .rw, .atSample, .flt 0x0#32 0x4B189680#32, .val 0x42C80000, .none, true⟩,
  ⟨P.focViLim, 32, 0xFFFFFFFF, .rng 0 4, .drive, .rw, .atSample, .flt 0x0#32 0x437A0000#32, .val 0x42480000, .none, true⟩,
  ⟨P.focOpt, 8, 0xF, .rng 0 4, .drive, .rw, .atSample, .nat 0 15, .val 0x3, .none, false⟩,
  ⟨P.focKpW, 32, 0xFFFFFFFF, .rng 0 4, .drive, .rw, .atSample, .flt 0x0#32 0x447A0000#32, .val 0x3C23D70A, .none, true⟩,
  ⟨P.focKiW, 32, 0xFFFFFFFF, .rng 0 4, .drive, .rw, .atSample, .flt 0x0#32 0x49742400#32, .val 0x3DCCCCCD, .none, true⟩,
  ⟨P.focTiLim, 32, 0xFFFFFFFF, .rng 0 4, .drive, .rw, .atSample, .flt 0x0#32 0x461C4000#32, .val 0x3F800000, .none, true⟩,
  ⟨P.focRampRate, 32, 0xFFFFFFFF, .rng 0 4, .drive, .rw, .atSample, .flt 0x3A83126F#32 0x4B189680#32, .val 0x447A0000, .none, false⟩,
  ⟨P.focRampJerk, 32, 0xFFFFFFFF, .rng 0 4, .drive, .rw, .atSample, .fltOrZero 0x3A83126F#32 0x4E6E6B28#32, .val 0x0, .none, false⟩]

/-- Rows of block 0x14, part 2. -/
def paramRows14p2 : List ParamRow := [
  ⟨P.focIdMin, 32, 0xFFFFFFFF, .rng 0 4, .drive, .rw, .atSample, .flt 0xC4FA0000#32 0x0#32, .val 0xC0A00000, .none, false⟩,
  ⟨P.focFwKv, 16, 0xFFFF, .rng 0 4, .drive, .rw, .atSample, .nat 16384 32768, .val 0x799A, .none, false⟩,
  ⟨P.focFwKi, 32, 0xFFFFFFFF, .rng 0 4, .drive, .rw, .atSample, .flt 0x0#32 0x49742400#32, .val 0x447A0000, .none, true⟩,
  ⟨P.focPaWMax, 32, 0xFFFFFFFF, .rng 0 4, .drive, .rw, .atSample, .flt 0x3F800000#32 0x47C35000#32, .val 0x44FA0000, .none, false⟩,
  ⟨P.focPaTab, 16, 0xFFFF, .rng 0 128, .driveBy 32, .rw, .atSample, .nat 0 10922, .val 0x0, .none, false⟩,
  ⟨P.focAscSpeed, 32, 0xFFFFFFFF, .rng 0 4, .drive, .rw, .atSample, .flt 0x0#32 0x47C35000#32, .val 0x43FA0000, .none, false⟩,
  ⟨P.focStopSpeed, 32, 0xFFFFFFFF, .rng 0 4, .drive, .rw, .atSample, .flt 0x0#32 0x461C4000#32, .val 0x41A00000, .none, false⟩,
  ⟨P.focStopTMax, 16, 0xFFFF, .rng 0 4, .drive, .rw, .atCommit, .nat 100 60000, .val 0x2710, .none, false⟩,
  ⟨P.focSoftRate, 32, 0xFFFFFFFF, .rng 0 4, .drive, .rw, .atSample, .flt 0x3C23D70A#32 0x461C4000#32, .val 0x41200000, .none, false⟩,
  ⟨P.focSoftTMax, 16, 0xFFFF, .rng 0 4, .drive, .rw, .atCommit, .nat 1 10000, .val 0x64, .none, false⟩,
  ⟨P.focDerateK, 16, 0xFFFF, .rng 0 4, .drive, .rw, .atCommit, .nat 0 32768, .val 0x4000, .none, false⟩,
  ⟨P.focIDq, 64, 0xFFFFFFFFFFFFFFFF, .rng 0 4, .bridge, .ro, .immediate, .any, .val 0x0, .none, false⟩,
  ⟨P.focVDq, 64, 0xFFFFFFFFFFFFFFFF, .rng 0 4, .bridge, .ro, .immediate, .any, .val 0x0, .none, false⟩,
  ⟨P.focRefDq, 64, 0xFFFFFFFFFFFFFFFF, .rng 0 4, .drive, .ro, .immediate, .any, .val 0x0, .none, false⟩,
  ⟨P.focRampX, 32, 0xFFFFFFFF, .rng 0 4, .drive, .ro, .immediate, .any, .val 0x0, .none, false⟩,
  ⟨P.focTorque, 32, 0xFFFFFFFF, .rng 0 4, .drive, .ro, .immediate, .any, .val 0x0, .none, false⟩,
  ⟨P.focM, 16, 0xFFFF, .rng 0 4, .bridge, .ro, .immediate, .any, .val 0x0, .none, false⟩,
  ⟨P.focStat, 16, 0xFFFF, .rng 0 4, .drive, .ro, .immediate, .any, .val 0x0, .none, false⟩,
  ⟨P.focIlimCnt, 32, 0xFFFFFFFF, .rng 0 4, .drive, .ro, .immediate, .any, .val 0x0, .none, false⟩,
  ⟨P.focGlimCnt, 32, 0xFFFFFFFF, .rng 0 4, .drive, .ro, .immediate, .any, .val 0x0, .none, false⟩,
  ⟨P.focCurMode, 8, 0x3, .rng 0 4, .drive, .rw, .atSample, .nat 0 3, .val 0x2, .none, false⟩,
  ⟨P.focLoopMode, 8, 0x3, .rng 0 4, .drive, .rw, .atSample, .nat 0 3, .val 0x2, .none, false⟩,
  ⟨P.focFwMode, 8, 0x3, .rng 0 4, .drive, .rw, .atSample, .nat 0 3, .val 0x2, .none, false⟩]

/-- All rows of block 0x14. -/
def paramRows14 : List ParamRow :=
  paramRows14p1 ++ paramRows14p2

/-- Rows of block 0x15, part 1. -/
def paramRows15p1 : List ParamRow := [
  ⟨P.engSpp, 2, 0x3, .rng 0 4, .drive, .rw, .atCommit, .nat 1 2, .val 0x2, .drive, false⟩,
  ⟨P.engLane, 1, 0x1, .rng 0 4, .drive, .rw, .atCommit, .any, .special, .drive, false⟩,
  ⟨P.engLoadMargin, 16, 0xFFFF, .one, .none, .rw, .atCommit, .nat 20 400, .val 0x28, .none, false⟩,
  ⟨P.engOvrN, 4, 0xF, .one, .none, .rw, .atCommit, .nat 2 15, .val 0x3, .none, false⟩,
  ⟨P.engOvrWin, 8, 0xFF, .one, .none, .rw, .atCommit, .nat 4 255, .val 0x10, .none, false⟩,
  ⟨P.engBank, 8, 0xFF, .rng 0 4, .drive, .ro, .immediate, .any, .val 0x0, .none, false⟩,
  ⟨P.engView, 8, 0x3F, .rng 0 4, .none, .rw, .immediate, .nat 0 63, .val 0x0, .none, false⟩,
  ⟨P.engRcCtl, 8, 0x7, .rng 0 4, .drive, .rw, .atSample, .nat 0 7, .val 0x1, .none, false⟩,
  ⟨P.engRcKl, 32, 0xFFFFFFFF, .rng 0 4, .drive, .rw, .atSample, .flt 0x0#32 0x41200000#32, .val 0x3D4CCCCD, .none, true⟩,
  ⟨P.engRcForget, 16, 0xFFFF, .rng 0 4, .drive, .rw, .atSample, .nat 28672 32768, .val 0x7FDF, .none, true⟩,
  ⟨P.engRcLpf, 16, 0xFFFF, .rng 0 4, .drive, .rw, .atSample, .nat 0 16384, .val 0x1000, .none, true⟩,
  ⟨P.engRcLead, 5, 0x1F, .rng 0 4, .drive, .rw, .atSample, .any, .val 0x3, .none, true⟩,
  ⟨P.engRcLim, 32, 0xFFFFFFFF, .rng 0 4, .drive, .rw, .atSample, .flt 0x0#32 0x42480000#32, .val 0x40000000, .none, false⟩,
  ⟨P.engRcSpeedMin, 10, 0x3FF, .rng 0 4, .drive, .rw, .atSample, .nat 5 1000, .val 0x64, .none, false⟩,
  ⟨P.engRcSettle, 16, 0xFFFF, .rng 0 4, .drive, .rw, .atCommit, .nat 0 10000, .val 0xC8, .none, false⟩,
  ⟨P.engRcHold, 16, 0xFFFF, .rng 0 4, .drive, .rw, .atCommit, .nat 0 60000, .val 0x1F4, .none, false⟩,
  ⟨P.engRcTab, 32, 0xFFFFFFFF, .rng 0 64, .rcPage, .rw, .atSample, .any, .val 0x0, .none, false⟩,
  ⟨P.engRcUpdCnt, 32, 0xFFFFFFFF, .rng 0 4, .drive, .ro, .immediate, .any, .val 0x0, .none, false⟩,
  ⟨P.engFfJ, 32, 0xFFFFFFFF, .rng 0 4, .drive, .rw, .atSample, .flt 0x0#32 0x42C80000#32, .val 0x0, .none, true⟩,
  ⟨P.engFfKv, 16, 0xFFFF, .rng 0 4, .drive, .rw, .atSample, .nat 0 32768, .val 0x6000, .none, true⟩,
  ⟨P.engFfIband, 32, 0xFFFFFFFF, .rng 0 4, .drive, .rw, .atSample, .flt 0x3C23D70A#32 0x42C80000#32, .val 0x40000000, .none, false⟩,
  ⟨P.engStat, 16, 0xFFFF, .rng 0 4, .drive, .ro, .immediate, .any, .val 0x0, .none, false⟩,
  ⟨P.engCycLast, 16, 0xFFFF, .rng 0 4, .drive, .ro, .immediate, .any, .val 0x0, .none, false⟩,
  ⟨P.engCycMax, 16, 0xFFFF, .rng 0 4, .drive, .rw, .immediate, .any, .val 0x0, .none, false⟩]

/-- Rows of block 0x15, part 2. -/
def paramRows15p2 : List ParamRow := [
  ⟨P.engWaitLast, 16, 0xFFFF, .rng 0 4, .drive, .ro, .immediate, .any, .val 0x0, .none, false⟩,
  ⟨P.engWaitMax, 16, 0xFFFF, .rng 0 4, .drive, .rw, .immediate, .any, .val 0x0, .none, false⟩,
  ⟨P.engRunCnt, 64, 0xFFFFFFFFFFFFFFFF, .rng 0 4, .drive, .ro, .immediate, .any, .val 0x0, .none, false⟩,
  ⟨P.engOvrCnt, 32, 0xFFFFFFFF, .rng 0 4, .drive, .ro, .immediate, .any, .val 0x0, .none, false⟩,
  ⟨P.engSkipCnt, 32, 0xFFFFFFFF, .rng 0 4, .drive, .ro, .immediate, .any, .val 0x0, .none, false⟩,
  ⟨P.engLoad, 32, 0xFFFFFFFF, .one, .none, .ro, .atCommit, .any, .val 0x0, .none, false⟩,
  ⟨P.engLaneLoad, 32, 0xFFFFFFFF, .rng 0 2, .none, .ro, .atCommit, .any, .val 0x0, .none, false⟩,
  ⟨P.engCapStop, 1, 0x1, .rng 0 4, .drive, .wo, .immediate, .any, .val 0x0, .none, false⟩,
  ⟨P.engCapDrop, 32, 0xFFFFFFFF, .rng 0 4, .drive, .ro, .immediate, .any, .val 0x0, .none, false⟩,
  ⟨P.engCapStat, 8, 0xFF, .rng 0 4, .drive, .ro, .immediate, .any, .val 0x0, .none, false⟩,
  ⟨P.engRcMode, 8, 0x3, .rng 0 4, .drive, .rw, .atSample, .nat 0 3, .val 0x2, .none, false⟩]

/-- All rows of block 0x15. -/
def paramRows15 : List ParamRow :=
  paramRows15p1 ++ paramRows15p2

/-- Rows of block 0x16. -/
def paramRows16 : List ParamRow := [
  ⟨P.gateDtMin, 14, 0x3FFF, .rng 0 4, .bridge, .rw, .atCommit, .any, .val 0x280, .none, false⟩,
  ⟨P.gatePrecharge, 16, 0xFFFF, .one, .none, .rw, .atCommit, .nat 5 1000, .val 0x14, .none, false⟩,
  ⟨P.gateUvloSel, 4, 0xF, .rng 1 2, .none, .rw, .atCommit, .any, .val 0x0, .die, false⟩,
  ⟨P.gateDesatCfg, 20, 0xFFFFF, .rng 0 4, .bridge, .rw, .atCommit, .fields [(0, 5, 0, 25), (5, 5, 0, 25)], .val 0x4A54A, .none, false⟩,
  ⟨P.gateSoftCfg, 9, 0x1FF, .rng 0 4, .bridge, .rw, .atCommit, .fields [(0, 4, 0, 8), (4, 5, 0, 18)], .val 0x84, .none, false⟩,
  ⟨P.gateHoc, 8, 0xFF, .rng 0 4, .bridge, .rw, .atCommit, .nat 10 250, .val 0x64, .none, false⟩,
  ⟨P.gateHocFilt, 4, 0xF, .rng 0 4, .bridge, .rw, .atCommit, .any, .val 0x4, .none, false⟩,
  ⟨P.gateAscIMax, 32, 0xFFFFFFFF, .rng 0 4, .drive, .rw, .atSample, .flt 0x3DCCCCCD#32 0x44FA0000#32, .val 0x41200000, .none, false⟩,
  ⟨P.gateQg, 16, 0xFFFF, .rng 0 4, .bridge, .rw, .atCommit, .nat 0 10000, .val 0x64, .none, false⟩,
  ⟨P.gateStoDiscT, 8, 0xFF, .one, .none, .rw, .atCommit, .nat 1 100, .val 0xA, .none, false⟩,
  ⟨P.gateStat, 8, 0xFF, .rng 1 2, .none, .ro, .immediate, .any, .val 0x0, .none, false⟩,
  ⟨P.gateChStat, 8, 0xFF, .rng 0 12, .gen, .ro, .immediate, .any, .val 0x0, .none, false⟩,
  ⟨P.gateBrStat, 8, 0xFF, .rng 0 4, .bridge, .ro, .immediate, .any, .val 0x0, .none, false⟩,
  ⟨P.gateDesatCnt, 32, 0xFFFFFFFF, .rng 0 12, .gen, .ro, .immediate, .any, .val 0x0, .none, false⟩,
  ⟨P.gateHocCnt, 32, 0xFFFFFFFF, .rng 0 4, .bridge, .ro, .immediate, .any, .val 0x0, .none, false⟩,
  ⟨P.gateBstUvCnt, 32, 0xFFFFFFFF, .rng 0 12, .gen, .ro, .immediate, .any, .val 0x0, .none, false⟩,
  ⟨P.gateVdrvUvCnt, 32, 0xFFFFFFFF, .rng 1 2, .none, .ro, .immediate, .any, .val 0x0, .none, false⟩,
  ⟨P.gateStoCnt, 32, 0xFFFFFFFF, .rng 1 2, .none, .ro, .immediate, .any, .val 0x0, .none, false⟩,
  ⟨P.gateStStat, 8, 0xFF, .rng 0 3, .none, .ro, .immediate, .any, .val 0x0, .none, false⟩,
  ⟨P.gateStFail, 32, 0xFFFFFFFF, .rng 0 3, .none, .ro, .immediate, .any, .val 0x0, .none, false⟩,
  ⟨P.gateStEpoch, 64, 0xFFFFFFFFFFFFFFFF, .rng 0 3, .none, .ro, .immediate, .any, .val 0x0, .none, false⟩,
  ⟨P.gateQf, 32, 0xFFFFFFFF, .rng 1 2, .none, .ro, .atCommit, .any, .val 0x0, .none, false⟩]

/-- Rows of block 0x17. -/
def paramRows17 : List ParamRow := [
  ⟨P.busGroup, 2, 0x3, .rng 0 4, .bridge, .rw, .atCommit, .any, .val 0x0, .owner, false⟩,
  ⟨P.busOv1, 16, 0xFFFF, .rng 0 4, .none, .rw, .atCommit, .nat 200 2000, .val 0x5DC, .none, false⟩,
  ⟨P.busOv2, 16, 0xFFFF, .rng 0 4, .none, .rw, .atCommit, .nat 200 2000, .val 0x60E, .none, false⟩,
  ⟨P.busOv3, 16, 0xFFFF, .rng 0 4, .none, .rw, .atCommit, .nat 200 2000, .val 0x62C, .none, false⟩,
  ⟨P.busOv4, 9, 0x1FF, .rng 0 4, .none, .rw, .atCommit, .nat 40 400, .val 0x14A, .none, false⟩,
  ⟨P.busUv1, 16, 0xFFFF, .rng 0 4, .none, .rw, .atCommit, .nat 100 2000, .val 0xC8, .none, false⟩,
  ⟨P.busUv2, 16, 0xFFFF, .rng 0 4, .none, .rw, .atCommit, .nat 100 2000, .val 0xB4, .none, false⟩,
  ⟨P.busHyst, 8, 0xFF, .rng 0 4, .none, .rw, .atCommit, .nat 5 255, .val 0x14, .none, false⟩,
  ⟨P.busUvFilt, 16, 0xFFFF, .rng 0 4, .none, .rw, .atCommit, .nat 10 10000, .val 0x3E8, .none, false⟩,
  ⟨P.busOv4Hold, 16, 0xFFFF, .rng 0 4, .none, .rw, .atCommit, .nat 100 60000, .val 0x3E8, .none, false⟩,
  ⟨P.busLbK, 32, 0xFFFFFFFF, .rng 0 4, .drive, .rw, .atSample, .flt 0x0#32 0x447A0000#32, .val 0x41200000, .none, false⟩,
  ⟨P.busChopCfg, 16, 0x3FF7, .rng 0 2, .none, .rw, .atCommit, .fields [(4, 5, 0, 25)], .val 0x12A0, .none, false⟩,
  ⟨P.busChopCheck, 16, 0xFFFF, .rng 0 2, .none, .rw, .atCommit, .nat 20 5000, .val 0xC8, .none, false⟩,
  ⟨P.busChopDv, 8, 0xFF, .rng 0 2, .none, .rw, .atCommit, .nat 1 100, .val 0x5, .none, false⟩,
  ⟨P.busStat, 16, 0xFFFF, .rng 0 4, .none, .ro, .immediate, .any, .val 0x0, .none, false⟩,
  ⟨P.busVHi, 32, 0xFFFFFFFF, .rng 0 4, .none, .ro, .immediate, .any, .val 0x0, .none, false⟩,
  ⟨P.busVLo, 32, 0xFFFFFFFF, .rng 0 4, .none, .ro, .immediate, .any, .val 0x0, .none, false⟩,
  ⟨P.busPBus, 32, 0xFFFFFFFF, .rng 0 4, .drive, .ro, .immediate, .any, .val 0x0, .none, false⟩,
  ⟨P.busILb, 32, 0xFFFFFFFF, .rng 0 4, .drive, .ro, .immediate, .any, .val 0x0, .none, false⟩,
  ⟨P.busChopStat, 8, 0xFF, .rng 0 2, .none, .ro, .immediate, .any, .val 0x0, .none, false⟩,
  ⟨P.busChopOnCnt, 32, 0xFFFFFFFF, .rng 0 2, .none, .ro, .immediate, .any, .val 0x0, .none, false⟩,
  ⟨P.busOv4Cnt, 32, 0xFFFFFFFF, .rng 0 4, .none, .ro, .immediate, .any, .val 0x0, .none, false⟩,
  ⟨P.busLbCnt, 32, 0xFFFFFFFF, .rng 0 4, .drive, .ro, .immediate, .any, .val 0x0, .none, false⟩]

/-- Rows of block 0x18, part 1. -/
def paramRows18p1 : List ParamRow := [
  ⟨P.thermDieLvl, 32, 0xFFFFFF, .rng 0 3, .none, .rw, .atCommit, .level, .special, .none, false⟩,
  ⟨P.thermPsLvl, 32, 0xFFFFFF, .rng 0 12, .bridgeBy 3, .rw, .atCommit, .level, .special, .none, false⟩,
  ⟨P.thermDwell, 4, 0xF, .one, .none, .rw, .atCommit, .nat 1 15, .val 0x3, .none, false⟩,
  ⟨P.thermRorN, 4, 0xF, .one, .none, .rw, .atCommit, .nat 1 15, .val 0x4, .none, false⟩,
  ⟨P.thermRorDie, 16, 0xFFFF, .one, .none, .rw, .atCommit, .nat 1 65535, .val 0xC8, .none, false⟩,
  ⟨P.thermRorPs, 16, 0xFFFF, .rng 0 4, .bridge, .rw, .atCommit, .nat 1 65535, .val 0x3E8, .none, false⟩,
  ⟨P.thermNtcR25, 32, 0xFFFFFFFF, .rng 0 4, .bridge, .rw, .atCommit, .flt 0x42C80000#32 0x49742400#32, .val 0x461C4000, .none, false⟩,
  ⟨P.thermNtcB, 32, 0xFFFFFFFF, .rng 0 4, .bridge, .rw, .atCommit, .flt 0x447A0000#32 0x461C4000#32, .val 0x4556B000, .none, false⟩,
  ⟨P.thermNtcRpu, 32, 0xFFFFFFFF, .rng 0 4, .bridge, .rw, .atCommit, .flt 0x42C80000#32 0x49742400#32, .val 0x461C4000, .none, false⟩,
  ⟨P.thermRds25, 32, 0xFFFFFFFF, .rng 0 4, .bridge, .rw, .atSample, .flt 0x3727C5AC#32 0x3F800000#32, .val 0x3B03126F, .none, false⟩,
  ⟨P.thermRdsTc, 32, 0xFFFFFFFF, .rng 0 4, .bridge, .rw, .atSample, .flt 0x0#32 0x3CA3D70A#32, .val 0x3BC49BA6, .none, false⟩,
  ⟨P.thermEsw, 32, 0xFFFFFFFF, .rng 0 4, .bridge, .rw, .atSample, .flt 0x0#32 0x3DCCCCCD#32, .val 0x38D1B717, .none, false⟩,
  ⟨P.thermEswV, 32, 0xFFFFFFFF, .rng 0 4, .bridge, .rw, .atSample, .flt 0x3F800000#32 0x437A0000#32, .val 0x42400000, .none, false⟩,
  ⟨P.thermEswI, 32, 0xFFFFFFFF, .rng 0 4, .bridge, .rw, .atSample, .flt 0x3F800000#32 0x44FA0000#32, .val 0x42C80000, .none, false⟩,
  ⟨P.thermVf, 32, 0xFFFFFFFF, .rng 0 4, .bridge, .rw, .atSample, .flt 0x0#32 0x40400000#32, .val 0x3F4CCCCD, .none, false⟩,
  ⟨P.thermFosterR, 32, 0xFFFFFFFF, .rng 0 16, .bridgeBy 4, .rw, .atSample, .flt 0x0#32 0x42C80000#32, .special, .none, false⟩,
  ⟨P.thermFosterTau, 32, 0xFFFFFFFF, .rng 0 16, .bridgeBy 4, .rw, .atSample, .flt 0x3727C5AC#32 0x461C4000#32, .special, .none, false⟩,
  ⟨P.thermDerSlope, 32, 0xFFFFFFFF, .rng 0 4, .bridge, .rw, .atCommit, .flt 0x0#32 0x3F800000#32, .val 0x3CA3D70A, .none, false⟩,
  ⟨P.thermDerFloor, 16, 0xFFFF, .rng 0 4, .bridge, .rw, .atCommit, .nat 0 32768, .val 0x3333, .none, false⟩,
  ⟨P.thermTDie, 16, 0xFFFF, .rng 0 3, .none, .ro, .immediate, .any, .val 0x0, .none, false⟩,
  ⟨P.thermTNtc, 16, 0xFFFF, .rng 0 4, .bridge, .ro, .immediate, .any, .val 0x0, .none, false⟩,
  ⟨P.thermTj, 32, 0xFFFFFFFF, .rng 0 12, .gen, .ro, .immediate, .any, .val 0x0, .none, false⟩,
  ⟨P.thermTBr, 16, 0xFFFF, .rng 0 4, .bridge, .ro, .immediate, .any, .val 0x0, .none, false⟩,
  ⟨P.thermPLoss, 64, 0xFFFFFFFFFFFFFFFF, .rng 0 12, .gen, .ro, .immediate, .any, .val 0x0, .none, false⟩]

/-- Rows of block 0x18, part 2. -/
def paramRows18p2 : List ParamRow := [
  ⟨P.thermITherm, 32, 0xFFFFFFFF, .rng 0 4, .drive, .ro, .immediate, .any, .special, .none, false⟩,
  ⟨P.thermLevel, 16, 0xFFFF, .rng 0 7, .none, .ro, .immediate, .any, .val 0x0, .none, false⟩,
  ⟨P.thermCrossCnt, 32, 0xFFFFFFFF, .rng 0 21, .none, .ro, .immediate, .any, .val 0x0, .none, false⟩,
  ⟨P.thermRorCnt, 32, 0xFFFFFFFF, .rng 0 7, .none, .ro, .immediate, .any, .val 0x0, .none, false⟩,
  ⟨P.thermShdnRec, 64, 0xFFFFFFFFFFFFFFFF, .rng 0 32, .none, .ro, .immediate, .any, .val 0x0, .none, false⟩,
  ⟨P.thermShdnNext, 8, 0xFF, .one, .none, .ro, .immediate, .any, .val 0x0, .none, false⟩,
  ⟨P.thermPsMode, 8, 0x3, .rng 0 4, .bridge, .rw, .atCommit, .nat 0 3, .val 0x2, .none, false⟩,
  ⟨P.thermHostT, 32, 0xFFFFFFFF, .rng 0 12, .gen, .rw, .immediate, .hostT, .val 0x19001900, .none, false⟩]

/-- All rows of block 0x18. -/
def paramRows18 : List ParamRow :=
  paramRows18p1 ++ paramRows18p2

/-- Rows of block 0x19. -/
def paramRows19 : List ParamRow := [
  ⟨P.fltHealthMask, 4, 0xF, .one, .none, .rw, .immediate, .nat 1 15, .val 0x7, .none, false⟩,
  ⟨P.fltPenumbra, 16, 0xFFFF, .one, .none, .rw, .atCommit, .nat 1 2000, .val 0x32, .none, false⟩,
  ⟨P.fltReact, 16, 0xFF, .kinds, .none, .rw, .atCommit, .any, .special, .none, false⟩,
  ⟨P.fltSel, 16, 0xFFFF, .rng 0 4, .none, .rw, .immediate, .any, .val 0x0, .none, false⟩,
  ⟨P.fltFind, 16, 0xFFFF, .rng 0 4, .none, .ro, .immediate, .any, .val 0xFFFF, .none, false⟩,
  ⟨P.fltRecStat, 32, 0xFFFFFFFF, .rng 0 4, .none, .ro, .immediate, .any, .val 0x0, .none, false⟩,
  ⟨P.fltRecPath, 32, 0xFFFFFFFF, .rng 0 4, .none, .ro, .immediate, .any, .val 0x0, .none, false⟩,
  ⟨P.fltRecFirst, 64, 0xFFFFFFFFFFFFFFFF, .rng 0 4, .none, .ro, .immediate, .any, .val 0x0, .none, false⟩,
  ⟨P.fltRecLast, 64, 0xFFFFFFFFFFFFFFFF, .rng 0 4, .none, .ro, .immediate, .any, .val 0x0, .none, false⟩,
  ⟨P.fltSum, 32, 0xFFFFFFFF, .one, .none, .ro, .immediate, .any, .val 0x0, .none, false⟩,
  ⟨P.fltJnlStat, 16, 0xFFFF, .one, .none, .ro, .immediate, .any, .val 0x0, .none, false⟩,
  ⟨P.fltJnlLost, 32, 0xFFFFFFFF, .one, .none, .ro, .immediate, .any, .val 0x0, .none, false⟩,
  ⟨P.fltJnlSeq, 32, 0xFFFFFFFF, .one, .none, .ro, .immediate, .any, .val 0x0, .none, false⟩,
  ⟨P.fltStream, 1, 0x1, .one, .none, .rw, .atCommit, .any, .val 0x0, .none, false⟩,
  ⟨P.fltMirrorNext, 8, 0xFF, .one, .none, .ro, .immediate, .any, .val 0x0, .none, false⟩,
  ⟨P.fltLife, 32, 0xFFFFFFFF, .kinds, .none, .ro, .immediate, .any, .val 0x0, .none, false⟩,
  ⟨P.fltLifeEpoch, 64, 0xFFFFFFFFFFFFFFFF, .one, .none, .ro, .immediate, .any, .val 0x0, .none, false⟩,
  ⟨P.fltInjCnt, 32, 0xFFFFFFFF, .one, .none, .ro, .immediate, .any, .val 0x0, .none, false⟩,
  ⟨P.fltPenOpen, 8, 0xFF, .one, .none, .ro, .immediate, .any, .val 0x0, .none, false⟩,
  ⟨P.fltConseqCnt, 32, 0xFFFFFFFF, .one, .none, .ro, .immediate, .any, .val 0x0, .none, false⟩,
  ⟨P.fltDecMode, 8, 0x3, .one, .none, .rw, .atCommit, .nat 0 3, .val 0x2, .none, false⟩,
  ⟨P.fltHostDec, 32, 0x3FFFFFF, .one, .none, .wo, .immediate, .any, .val 0x0, .none, false⟩]

/-- Rows of block 0x1A. -/
def paramRows1A : List ParamRow := [
  ⟨P.chkCfg, 16, 0x1F1F, .rng 0 4, .none, .rw, .immediate, .fields [(0, 3, 0, 4)], .val 0x3, .none, false⟩,
  ⟨P.chkPoly, 32, 0xFFFFFFFF, .rng 0 4, .none, .rw, .immediate, .any, .val 0x1EDC6F41, .none, false⟩,
  ⟨P.chkInit, 32, 0xFFFFFFFF, .rng 0 4, .none, .rw, .immediate, .any, .val 0xFFFFFFFF, .none, false⟩,
  ⟨P.chkXorout, 32, 0xFFFFFFFF, .rng 0 4, .none, .rw, .immediate, .any, .val 0xFFFFFFFF, .none, false⟩,
  ⟨P.chkAddr, 32, 0xFFFFFFFF, .rng 0 4, .none, .rw, .immediate, .any, .val 0x0, .none, false⟩,
  ⟨P.chkRem, 32, 0xFFFFFFFF, .rng 0 4, .none, .rw, .immediate, .nat 0 4194304, .val 0x0, .none, false⟩,
  ⟨P.chkCur, 32, 0xFFFFFFFF, .rng 0 4, .none, .rw, .immediate, .any, .val 0x0, .none, false⟩,
  ⟨P.chkResult, 32, 0xFFFFFFFF, .rng 0 4, .none, .ro, .immediate, .any, .val 0x0, .none, false⟩,
  ⟨P.chkExpect, 32, 0xFFFFFFFF, .rng 0 4, .none, .rw, .immediate, .any, .val 0x0, .none, false⟩,
  ⟨P.chkCtl, 8, 0x7, .rng 0 4, .none, .wo, .immediate, .any, .val 0x0, .none, false⟩,
  ⟨P.chkStat, 8, 0xFF, .rng 0 4, .none, .ro, .immediate, .any, .val 0x0, .none, false⟩,
  ⟨P.chkStallCnt, 32, 0xFFFFFFFF, .rng 0 4, .none, .ro, .immediate, .any, .val 0x0, .none, false⟩,
  ⟨P.chkPerInt, 16, 0xFFFF, .one, .none, .rw, .atCommit, .nat 1 65535, .val 0x3C, .none, false⟩,
  ⟨P.chkMramScrubInt, 8, 0xFF, .one, .none, .rw, .atCommit, .nat 1 168, .val 0x18, .none, false⟩,
  ⟨P.chkSbeCnt, 32, 0xFFFFFFFF, .rng 0 3, .none, .ro, .immediate, .any, .val 0x0, .none, false⟩,
  ⟨P.chkDbeCnt, 32, 0xFFFFFFFF, .rng 0 3, .none, .ro, .immediate, .any, .val 0x0, .none, false⟩,
  ⟨P.chkScrubEpoch, 64, 0xFFFFFFFFFFFFFFFF, .rng 0 3, .none, .ro, .immediate, .any, .val 0x0, .none, false⟩,
  ⟨P.chkCfgStat, 8, 0xFF, .one, .none, .ro, .immediate, .any, .val 0x0, .none, false⟩,
  ⟨P.chkCfgGen, 32, 0xFFFFFFFF, .one, .none, .ro, .immediate, .any, .val 0x0, .none, false⟩,
  ⟨P.chkCvRepairCnt, 32, 0xFFFFFFFF, .one, .none, .ro, .immediate, .any, .val 0x0, .none, false⟩]

/-- Rows of block 0x1B, part 1. -/
def paramRows1Bp1 : List ParamRow := [
  ⟨P.linkCfg, 8, 0x7, .one, .none, .rw, .atCommit, .nat 0 7, .val 0x0, .none, false⟩,
  ⟨P.linkPortEn, 3, 0x7, .one, .none, .rw, .immediate, .any, .val 0x0, .none, false⟩,
  ⟨P.linkPortStat, 8, 0xFF, .rng 0 3, .none, .ro, .immediate, .any, .val 0x0, .none, false⟩,
  ⟨P.linkDly, 16, 0xFFFF, .rng 0 3, .none, .ro, .immediate, .any, .val 0x0, .none, false⟩,
  ⟨P.linkId, 8, 0xFF, .one, .none, .ro, .immediate, .any, .val 0xFF, .none, false⟩,
  ⟨P.linkUid, 64, 0xFFFFFFFFFFFFFFFF, .one, .none, .ro, .immediate, .any, .special, .none, false⟩,
  ⟨P.linkStat, 8, 0xFF, .one, .none, .ro, .immediate, .any, .val 0x0, .none, false⟩,
  ⟨P.linkTopo, 16, 0xFFFF, .one, .none, .ro, .immediate, .any, .val 0x0, .none, false⟩,
  ⟨P.linkNode, 32, 0xFFFFFFFF, .rng 0 254, .none, .ro, .immediate, .any, .val 0xFF, .none, false⟩,
  ⟨P.linkSyncInt, 16, 0xFFFF, .one, .none, .rw, .atCommit, .nat 10 10000, .val 0x3E8, .none, false⟩,
  ⟨P.linkSyncTol, 8, 0xFF, .one, .none, .rw, .atCommit, .nat 4 255, .val 0xC, .none, false⟩,
  ⟨P.linkSyncErr, 16, 0xFFFF, .one, .none, .ro, .immediate, .any, .val 0x0, .none, false⟩,
  ⟨P.linkDlyInt, 16, 0xFFFF, .one, .none, .rw, .atCommit, .nat 100 60000, .val 0x2710, .none, false⟩,
  ⟨P.linkGang, 16, 0xBFFF, .rng 0 16, .gang, .rw, .atCommit, .any, .val 0x0, .home, false⟩,
  ⟨P.linkGangOfs, 16, 0xFFFF, .rng 0 64, .gangOfs, .rw, .atCommit, .any, .val 0x0, .home, false⟩,
  ⟨P.linkHome, 16, 0x3FF, .rng 0 4, .drive, .rw, .atCommit, .any, .val 0xFF, .drive, false⟩,
  ⟨P.linkWait, 16, 0xFFFF, .rng 0 4, .drive, .rw, .atCommit, .nat 20 4000, .val 0x258, .none, false⟩,
  ⟨P.linkExtra, 16, 0xFFFF, .rng 0 4, .drive, .rw, .atCommit, .nat 0 4000, .val 0x0, .none, false⟩,
  ⟨P.linkRepBound, 16, 0xFFFF, .rng 0 4, .drive, .ro, .atCommit, .any, .val 0x0, .none, false⟩,
  ⟨P.linkDutyLead, 16, 0xFFFF, .rng 0 4, .drive, .ro, .atCommit, .any, .val 0x0, .none, false⟩,
  ⟨P.linkLateMax, 8, 0xFF, .one, .none, .rw, .atCommit, .nat 1 255, .val 0x4, .none, false⟩,
  ⟨P.linkDutyMax, 8, 0xFF, .one, .none, .rw, .atCommit, .nat 1 255, .val 0x4, .none, false⟩,
  ⟨P.linkRetxTmo, 16, 0xFFFF, .one, .none, .rw, .atCommit, .nat 5 1000, .val 0x14, .none, false⟩,
  ⟨P.linkRetxMax, 4, 0xF, .one, .none, .rw, .atCommit, .nat 1 15, .val 0x3, .none, false⟩]

/-- Rows of block 0x1B, part 2. -/
def paramRows1Bp2 : List ParamRow := [
  ⟨P.linkRepLate, 32, 0xFFFFFFFF, .rng 0 4, .drive, .ro, .immediate, .any, .val 0x0, .none, false⟩,
  ⟨P.linkDutyLate, 32, 0xFFFFFFFF, .rng 0 4, .drive, .ro, .immediate, .any, .val 0x0, .none, false⟩,
  ⟨P.linkCrcCnt, 32, 0xFFFFFFFF, .rng 0 3, .none, .ro, .immediate, .any, .val 0x0, .none, false⟩,
  ⟨P.linkAuthCnt, 32, 0xFFFFFFFF, .rng 0 3, .none, .ro, .immediate, .any, .val 0x0, .none, false⟩,
  ⟨P.linkRetxCnt, 32, 0xFFFFFFFF, .rng 0 3, .none, .ro, .immediate, .any, .val 0x0, .none, false⟩,
  ⟨P.linkDownCnt, 32, 0xFFFFFFFF, .rng 0 3, .none, .ro, .immediate, .any, .val 0x0, .none, false⟩,
  ⟨P.linkHaDrop, 32, 0xFFFFFFFF, .one, .none, .ro, .immediate, .any, .val 0x0, .none, false⟩,
  ⟨P.linkMboxDrop, 32, 0xFFFFFFFF, .one, .none, .ro, .immediate, .any, .val 0x0, .none, false⟩]

/-- All rows of block 0x1B. -/
def paramRows1B : List ParamRow :=
  paramRows1Bp1 ++ paramRows1Bp2

/-- Rows of block 0x1C. -/
def paramRows1C : List ParamRow := [
  ⟨P.secStat, 16, 0xFFFF, .one, .none, .ro, .immediate, .any, .val 0x20, .none, false⟩,
  ⟨P.secBootPref, 1, 0x1, .one, .none, .rw, .atBoot, .any, .val 0x0, .none, false⟩,
  ⟨P.secSvnRun, 16, 0xFFFF, .one, .none, .ro, .immediate, .any, .special, .none, false⟩,
  ⟨P.secArbCnt, 8, 0xFF, .rng 0 2, .none, .ro, .immediate, .any, .val 0x0, .none, false⟩,
  ⟨P.secArbCommit, 2, 0x3, .one, .none, .wo, .immediate, .nat 1 2, .val 0x0, .none, false⟩,
  ⟨P.secSlotStat, 32, 0xFFFFFFFF, .rng 0 4, .none, .ro, .immediate, .any, .special, .none, false⟩,
  ⟨P.secFwTmo, 16, 0xFFFF, .one, .none, .rw, .immediate, .nat 100 60000, .val 0x2710, .none, false⟩,
  ⟨P.secKeyWr, 64, 0xFFFFFFFFFFFFFFFF, .keyWr, .none, .wo, .immediate, .any, .val 0x0, .none, false⟩,
  ⟨P.secKeyRd, 64, 0xFFFFFFFFFFFFFFFF, .keyRd, .none, .ro, .immediate, .any, .special, .none, false⟩,
  ⟨P.secKeyStat, 8, 0xFF, .one, .none, .ro, .immediate, .any, .val 0x3, .none, false⟩,
  ⟨P.secLock, 1, 0x1, .one, .none, .wo, .immediate, .nat 1 1, .val 0x0, .none, false⟩,
  ⟨P.secDbgTmo, 16, 0xFFFF, .one, .none, .rw, .immediate, .nat 1 3600, .val 0x3C, .none, false⟩,
  ⟨P.secRng, 32, 0xFFFFFFFF, .one, .none, .ro, .immediate, .any, .val 0x0, .none, false⟩,
  ⟨P.secAuthFailCnt, 32, 0xFFFFFFFF, .one, .none, .ro, .immediate, .any, .val 0x0, .none, false⟩,
  ⟨P.secTaskAuto, 8, 0xFF, .one, .none, .rws, .atBoot, .any, .val 0x0, .none, false⟩,
  ⟨P.secTaskStat, 8, 0xFF, .rng 0 8, .none, .ro, .immediate, .any, .val 0x0, .none, false⟩]

/-- Rows of block 0x1D. -/
def paramRows1D : List ParamRow := [
  ⟨P.perfCycle, 64, 0xFFFFFFFFFFFFFFFF, .rng 0 2, .none, .ro, .immediate, .any, .val 0x0, .none, false⟩,
  ⟨P.perfCnt, 64, 0xFFFFFFFFFFFF, .rng 0 12, .none, .rw, .immediate, .nat 0 281474976710655, .val 0x0, .none, false⟩,
  ⟨P.perfEvt, 16, 0x7FF, .rng 0 12, .none, .rw, .immediate, .event, .val 0x0, .none, false⟩,
  ⟨P.perfCtl, 8, 0x1, .rng 0 2, .none, .rw, .immediate, .nat 0 1, .val 0x0, .none, false⟩,
  ⟨P.perfOvf, 8, 0x3F, .rng 0 2, .none, .w1c, .immediate, .any, .val 0x0, .none, false⟩,
  ⟨P.perfUserEn, 8, 0x7F, .one, .none, .rw, .atCommit, .nat 0 127, .val 0x0, .none, false⟩,
  ⟨P.perfDumpInterval, 32, 0xFFFFFFFF, .one, .none, .rw, .atCommit, .nat 10 1000000, .val 0x3E8, .none, false⟩,
  ⟨P.perfDumpCfg, 8, 0xF, .one, .none, .rw, .atCommit, .nat 0 15, .val 0x0, .none, false⟩,
  ⟨P.perfSampleCfg, 16, 0xFF01, .rng 0 2, .none, .rw, .atCommit, .sampleEvent, .val 0x200, .none, false⟩,
  ⟨P.perfSampleN, 32, 0xFFFFFFFF, .rng 0 2, .none, .rw, .atCommit, .nat 1 16777216, .val 0x10000, .none, false⟩,
  ⟨P.perfSampleDrop, 32, 0xFFFFFFFF, .rng 0 2, .none, .ro, .immediate, .any, .val 0x0, .none, false⟩,
  ⟨P.perfDumpDrop, 32, 0xFFFFFFFF, .rng 0 3, .none, .ro, .immediate, .any, .val 0x0, .none, false⟩,
  ⟨P.perfStat, 8, 0xFF, .one, .none, .ro, .immediate, .any, .val 0x0, .none, false⟩]

/-- The rows of one block byte (R93). -/
def paramBlock (b : Nat) : List ParamRow :=
  if b = 0x01 then paramRows01
  else if b = 0x02 then paramRows02
  else if b = 0x03 then paramRows03
  else if b = 0x04 then paramRows04
  else if b = 0x05 then paramRows05
  else if b = 0x10 then paramRows10
  else if b = 0x11 then paramRows11
  else if b = 0x12 then paramRows12
  else if b = 0x13 then paramRows13
  else if b = 0x14 then paramRows14
  else if b = 0x15 then paramRows15
  else if b = 0x16 then paramRows16
  else if b = 0x17 then paramRows17
  else if b = 0x18 then paramRows18
  else if b = 0x19 then paramRows19
  else if b = 0x1A then paramRows1A
  else if b = 0x1B then paramRows1B
  else if b = 0x1C then paramRows1C
  else if b = 0x1D then paramRows1D
  else []

/-- The row of a parameter ID; none for an ID that no table lists (R6). -/
def paramRow (id : Nat) : Option ParamRow := (paramBlock (id / 256)).find? (fun r => r.id == id)

/-- The instances of a kind, ascending (R94, R423, R466). -/
def instList : Insts → List Nat
  | .one => [0]
  | .rng lo n => List.range' lo n
  | .kinds => faultKinds
  | .keyWr => List.range' 16 18
  | .keyRd => List.range 4 ++ List.range' 16 16

/-- INST names an instance (R94); INST = 0xFF, for every instance, is asked for separately. -/
def instOk (r : ParamRow) (inst : Nat) : Bool := (instList r.insts).contains inst

/-- The instances that an item's INST stands for; none where it names none (checks 2 of R524). A
parameter without instances takes INST = 0 only. -/
def instsOf (r : ParamRow) (inst : Nat) : Option (List Nat) :=
  if r.insts ≠ .one ∧ inst = 0xFF then some (instList r.insts)
  else if instOk r inst then some [inst] else none

/-- SIZE of a parameter: the smallest of 1, 2, 4 and 8 bytes that holds its bits (R93). -/
def paramSize (r : ParamRow) : Nat :=
  if r.bits ≤ 8 then 1 else if r.bits ≤ 16 then 2 else if r.bits ≤ 32 then 4 else 8

/-- The events that PERF.EVT and PERF.SAMPLE_CFG may name (R493). -/
def perfEventListed (e : Nat) : Bool :=
  [0x00, 0x01, 0x02, 0x03, 0x04, 0x05, 0x06, 0x08, 0x09, 0x0A, 0x0B, 0x10, 0x11, 0x12, 0x13, 0x14,
   0x15, 0x16, 0x18, 0x19, 0x20, 0x21, 0x22, 0x23].contains e

/-- −55 °C to 200 °C in sQ9.7. -/
def tempOk (t : Nat) : Bool := decide (-7040 ≤ toSigned 16 t) && decide (toSigned 16 t ≤ 25600)

/-- The value lies within the range of the row (check 5 of R524), `v` with its reserved bits dropped. -/
def rangeOk (g : Range) (v : Nat) : Bool :=
  match g with
  | .any => true
  | .nat lo hi => decide (lo ≤ v) && decide (v ≤ hi)
  | .flt lo hi => F32.le lo (BitVec.ofNat 32 v) && F32.le (BitVec.ofNat 32 v) hi
  | .fltOrZero lo hi =>
    F32.eq (BitVec.ofNat 32 v) 0#32 || (F32.le lo (BitVec.ofNat 32 v) && F32.le (BitVec.ofNat 32 v) hi)
  | .fields l => l.all (fun (lo, w, a, b) => decide (a ≤ bits v lo w) && decide (bits v lo w ≤ b))
  | .hkEntry => decide (v ≤ 31) || decide (v = 0xFF)
  | .level => tempOk (bits v 0 16) && decide (1 ≤ bits v 16 8)
  | .hostT => tempOk (bits v 0 16) && tempOk (bits v 16 16)
  | .event => perfEventListed (bits v 0 8) && decide (bits v 8 2 ≤ 2)
  | .sampleEvent => perfEventListed (bits v 8 8)

/-- A written value is acceptable: no bit beyond the parameter's bits, and the fields that are not
reserved within their range (R5, R7). DEDUCED: a bit above the parameter's Bits is out of range
(assumption log 12). -/
def valueOk (r : ParamRow) (v : Nat) : Bool :=
  decide (v < 2 ^ r.bits) && rangeOk r.range (v &&& r.mask)

/-- LINK.UID of the part: not one of the two numbers that R522 excludes. -/
def partUid : Nat :=
  if Config.uidFree.toNat = 0 ∨ Config.uidFree.toNat = 2 ^ 64 - 1 then 1 else Config.uidFree.toNat
/-- FWREL of the shipped image: 0x01 to 0xFF (R522). -/
def partFwRel : Nat := if Config.fwRelFree.toNat = 0 then 1 else Config.fwRelFree.toNat
/-- SVN of the shipped image: 0 to 64 (R522). -/
def partSvn : Nat := Config.svnFree.toNat % 65
/-- SYS.ID of an image with release `rel` (R103, R522). -/
def sysIdOf (rel : Nat) : Nat := 0x1224 + 3 * 2 ^ 16 + 3 * 2 ^ 20 + rel * 2 ^ 24

/-- HOST.RING_CFG with EN, DIR, ESIZE, SIZE and BASE. -/
def ringCfgWord (en dir : Bool) (esize size base : Nat) : Nat :=
  base + size * 2 ^ 20 + esize * 2 ^ 24 + dir.toNat * 2 ^ 26 + en.toNat * 2 ^ 31

/-- Rings 36 to 47 and 50 to 63, whose geometry is internal (R525). -/
def internalRing (r : Nat) : Bool := (decide (36 ≤ r) && decide (r ≤ 47)) || decide (50 ≤ r)
/-- Their descriptors: at 0xF_4000 and above, disabled (R84), otherwise free (assumption log 84). -/
def internalCfg (r : Nat) : Nat :=
  let f := (Config.internalRing r).toNat
  ringCfgWord false (f / 2 ^ 26 % 2 == 1) (f / 2 ^ 24 % 4) (f / 2 ^ 20 % 16) (0xF4000 + 64 * (f % 0x300))

/-- The descriptor of ring r at boot (R84, R525). Rings 2, 4 take commands, rings 3, 5 and 17 to 25 are
`to_host`; a ring without a default starts with the other fields 0. The internal rings read as `internalCfg`. -/
def ringReset (r : Nat) : Nat :=
  match r with
  | 0 => ringCfgWord true false 2 6 0
  | 1 => ringCfgWord true true 2 6 0x1000
  | 6 => ringCfgWord true false 2 4 0x2000
  | 7 => ringCfgWord true true 2 4 0x2400
  | 16 => ringCfgWord true true 1 8 0x4000
  | 32 => ringCfgWord true false 2 6 0xF0000
  | 33 => ringCfgWord true true 2 6 0xF1000
  | 34 => ringCfgWord true false 2 5 0xF2000
  | 35 => ringCfgWord true true 2 5 0xF2800
  | 48 => ringCfgWord true false 2 5 0xF3000
  | 49 => ringCfgWord true true 2 5 0xF3800
  | _ => if r = 3 ∨ r = 5 ∨ (17 ≤ r ∧ r ≤ 25) then ringCfgWord false true 0 0 0 else 0

/-- Reset values that depend on the instance or the part. -/
def paramResetSpecial (id i : Nat) : Nat :=
  match id with
  | 0x0100 => sysIdOf partFwRel
  | 0x0207 => Config.rcTrim.toNat
  | 0x0208 => Config.bgTrim.toNat
  | 0x0313 => 36000000
  | 0x0408 => ringReset i
  | 0x1020 => 2 ^ i
  | 0x1102 => if i % 2 = 0 then 0 else 5
  | 0x1109 => (Config.ofsFactory false i 0).toNat
  | 0x110A => (Config.ofsFactory true i 0).toNat
  | 0x1112 => i
  | 0x1501 => if i < 2 then 0 else 1
  | 0x1800 => if i = 0 then 0x00324380 else if i = 1 then 0x00324880 else 0x00965280
  | 0x1801 => if i % 3 = 0 then 0x00323E80 else if i % 3 = 1 then 0x00324600 else 0x00645000
  | 0x180F => if i % 4 = 0 then 0x3E800000 else if i % 4 = 1 then 0x3E19999A else if i % 4 = 2 then 0x3E99999A else 0x3ECCCCCD
  | 0x1810 => if i % 4 = 0 then 0x3B03126F else if i % 4 = 1 then 0x3CA3D70A else if i % 4 = 2 then 0x3F000000 else 0x41A00000
  | 0x181D => 0x41200000
  | 0x1902 => match sourceRow i with | some r => r.react | none => 0
  | 0x1B05 => partUid
  | 0x1C02 => partSvn
  | 0x1C05 => if i = 0 then 1 + partSvn * 2 ^ 16 else 0
  | 0x1C09 => if i < 4 then (Config.keyFactory 0 i).toNat else 0
  | _ => 0

/-- The Reset column of instance `i` of a parameter; 0 for an ID that no table lists. -/
def paramReset (id i : Nat) : Nat :=
  match paramRow id with
  | some r => (match r.reset with | .val n => n | .special => paramResetSpecial id i)
  | none => 0

end Sys2Proof.Machine
end

