-- ==== Sys2Proof/Machine/Smap.lean ====
section
/-! DEFINITION. Sparse maps in one canonical form: a list of key and value pairs, keys strictly rising,
no entry equal to what an unlisted key reads as. Registers, ring memory and per-instance records are
held in this form, so equal contents are equal data. -/

namespace Sys2Proof.Machine

/-- A sparse map from numbers. -/
abbrev Smap (α : Type) := List (Nat × α)

/-- The value at a key; `d k` where the key is not listed. -/
def Smap.get {α : Type} (d : Nat → α) (m : Smap α) (k : Nat) : α :=
  match m with
  | [] => d k
  | (j, v) :: r => if k = j then v else Smap.get d r k

/-- The map with `v` listed at `k`, whatever `v` is. -/
def Smap.insert {α : Type} (m : Smap α) (k : Nat) (v : α) : Smap α :=
  match m with
  | [] => [(k, v)]
  | (j, w) :: r =>
    if k < j then (k, v) :: (j, w) :: r
    else if k = j then (k, v) :: r
    else (j, w) :: Smap.insert r k v

/-- The map without an entry at `k`. -/
def Smap.erase {α : Type} (m : Smap α) (k : Nat) : Smap α :=
  match m with
  | [] => []
  | (j, w) :: r => if k = j then Smap.erase r k else (j, w) :: Smap.erase r k

/-- The map that reads `v` at `k`; the entry is left out where `v` is what an unlisted key reads as. -/
def Smap.set {α : Type} [DecidableEq α] (d : Nat → α) (m : Smap α) (k : Nat) (v : α) : Smap α :=
  if v = d k then Smap.erase m k else Smap.insert m k v

/-- Every key lies above `b`, the keys rise strictly, and no entry holds what an unlisted key reads as. -/
def Smap.wfFrom {α : Type} [DecidableEq α] (d : Nat → α) (b : Nat) : Smap α → Bool
  | [] => true
  | (j, v) :: r => decide (b ≤ j) && decide (v ≠ d j) && Smap.wfFrom d (j + 1) r

/-- The canonical form. -/
def Smap.wf {α : Type} [DecidableEq α] (d : Nat → α) (m : Smap α) : Bool := Smap.wfFrom d 0 m

/-! Memory: bytes at addresses, an unlisted address reading 0 (assumption log 2). -/

/-- A memory: `Host.Cell` pairs in canonical form. -/
abbrev Memory := List Host.Cell

/-- What an address that nothing has written reads as. -/
def Memory.unlisted (_ : Nat) : Byte := 0#8

/-- The byte at an address. -/
def Memory.read (m : Memory) (a : Nat) : Byte := Smap.get Memory.unlisted m a

/-- The memory with one byte written. -/
def Memory.write (m : Memory) (a : Nat) (b : Byte) : Memory := Smap.set Memory.unlisted m a b

/-- `n` bytes from an address. -/
def Memory.readBytes (m : Memory) (a : Nat) : Nat → List Byte
  | 0 => []
  | n + 1 => Memory.read m a :: Memory.readBytes m (a + 1) n

/-- Bytes written from an address upwards. -/
def Memory.writeBytes (m : Memory) (a : Nat) : List Byte → Memory
  | [] => m
  | b :: bs => Memory.writeBytes (Memory.write m a b) (a + 1) bs

/-- The canonical form of a memory. -/
def Memory.wf (m : Memory) : Bool := Smap.wf Memory.unlisted m

end Sys2Proof.Machine
end

