-- ==== Sys2Proof/Machine/Trig.lean ====
section
/-! DEFINITION. Sine, cosine and atan2 of the Orbit engine within the error bounds of R289. The
value inside the bound is free: `Config.sinFree`, `Config.cosFree` and `Config.atanFree` are taken
where they lie within the bound, and the series value where they do not (assumption log 3). -/

namespace Sys2Proof.Machine

/-- 2π times 2⁴⁸. -/
def twoPi48 : Int := 1768559438007110

/-- Fixed-point product of two values scaled by 2⁴⁸. -/
def mul48 (a b : Int) : Int := a * b / 2 ^ 48

/-- Sine of `x` radians, |x| ≤ π/4, scaled by 2⁴⁸: the series to x¹³. -/
def sinSeries (x : Int) : Int :=
  let y := mul48 x x
  let t1 := x
  let t3 := -(mul48 t1 y) / 6
  let t5 := -(mul48 t3 y) / 20
  let t7 := -(mul48 t5 y) / 42
  let t9 := -(mul48 t7 y) / 72
  let t11 := -(mul48 t9 y) / 110
  let t13 := -(mul48 t11 y) / 156
  t1 + t3 + t5 + t7 + t9 + t11 + t13

/-- Cosine of `x` radians, |x| ≤ π/4, scaled by 2⁴⁸: the series to x¹². -/
def cosSeries (x : Int) : Int :=
  let y := mul48 x x
  let t0 : Int := 2 ^ 48
  let t2 := -(mul48 t0 y) / 2
  let t4 := -(mul48 t2 y) / 12
  let t6 := -(mul48 t4 y) / 30
  let t8 := -(mul48 t6 y) / 56
  let t10 := -(mul48 t8 y) / 90
  let t12 := -(mul48 t10 y) / 132
  t0 + t2 + t4 + t6 + t8 + t10 + t12

/-- Sine of an angle in uQ0.32 of a turn, scaled by 2⁴⁸. -/
def sinScaled (θ : Nat) : Int :=
  let t := θ % 2 ^ 32
  -- octant-centred reduction: quarter q, remainder r in [−1/8, 1/8) turn
  let q := (t + 2 ^ 29) / 2 ^ 30 % 4
  let r : Int := ((t + 2 ^ 29) % 2 ^ 30 : Nat) - (2 ^ 29 : Nat)
  let x := twoPi48 * r / 2 ^ 32
  if q = 0 then sinSeries x else if q = 1 then cosSeries x
  else if q = 2 then -(sinSeries x) else -(cosSeries x)

/-- Cosine of an angle in uQ0.32 of a turn, scaled by 2⁴⁸. -/
def cosScaled (θ : Nat) : Int := sinScaled (θ + 2 ^ 30)

/-- A free float32 value where it lies within `2^-20` of `v / 2⁴⁸`, else the rounded `v`. -/
def within20 (free : F32) (v : Int) : F32 :=
  if F32.finite free && decide ((F32.toUnits free - v * 2 ^ 101).natAbs ≤ 2 ^ 129) then free
  else F32.ofDyadic v 48

/-- Sine of an angle in uQ0.32 of a turn, absolute error at most 2⁻²⁰ (R289). -/
def sinTurn (θ : Nat) : F32 := within20 (Config.sinFree (θ % 2 ^ 32)) (sinScaled θ)
/-- Cosine of an angle in uQ0.32 of a turn, absolute error at most 2⁻²⁰ (R289). -/
def cosTurn (θ : Nat) : F32 := within20 (Config.cosFree (θ % 2 ^ 32)) (cosScaled θ)

/-- atan(2⁻ⁱ) in turns, scaled by 2⁴⁸. -/
def atanTable : List Nat :=
  [35184372088832, 20770547670515, 10974586953444, 5570871696862, 2796246208089, 1399486241028,
   699913886760, 349978300884, 174991820497, 87496244017, 43748163730, 21874087080, 10937044192,
   5468522177, 2734261099, 1367130551, 683565276, 341782638, 170891319, 85445659, 42722830,
   21361415, 10680707, 5340354, 2670177, 1335088, 667544, 333772, 166886, 83443, 41722, 20861]

/-- Rotation of (x, y), x ≥ 0, onto the x axis; the angle turned, scaled by 2⁴⁸. -/
def cordic : List Nat → Nat → Int → Int → Int → Int
  | [], _, _, _, z => z
  | t :: ts, i, x, y, z =>
    if 0 ≤ y then cordic ts (i + 1) (x + y / 2 ^ i) (y - x / 2 ^ i) (z + t)
    else cordic ts (i + 1) (x - y / 2 ^ i) (y + x / 2 ^ i) (z - t)

/-- atan2(y, x) in uQ0.32 of a turn by rotation; 0 for the zero vector. -/
def atan2Series (y x : F32) : Nat :=
  let yu := F32.toUnits y * 2 ^ 40
  let xu := F32.toUnits x * 2 ^ 40
  let z := if 0 ≤ xu then cordic atanTable 0 xu yu 0 else cordic atanTable 0 (-xu) (-yu) 0 + 2 ^ 47
  ((z / 2 ^ 16) % (2 ^ 32 : Nat)).toNat

/-- Distance of two angles in uQ0.32 of a turn. -/
def angleDist (a b : Nat) : Nat :=
  let d := (a + 2 ^ 32 - b % 2 ^ 32) % 2 ^ 32
  Nat.min d (2 ^ 32 - d)

/-- atan2 in uQ0.32 of a turn with an error of at most 0.001°, that is 11,930 units (R289). -/
def atan2Turn (y x : F32) : Nat :=
  let free := Config.atanFree y x % 2 ^ 32
  let z := atan2Series y x
  if angleDist free z ≤ 11930 then free else z

/-- An angle in uQ0.32 of a turn as radians in float32. -/
def turnToRad (θ : Int) : F32 := F32.ofFrac (θ * twoPi48) (2 ^ 80)

/-- Radians in float32 as a signed angle in units of 2⁻³² turn, to the nearest (R7). -/
def radToTurn (x : F32) : Int :=
  if F32.finite x then roundDiv (F32.toUnits x * 2 ^ 80) (twoPi48.toNat * 2 ^ 149) else 0

end Sys2Proof.Machine
end

