-- ==== Sys2Proof/Machine/State.lean ====
section
/-! DEFINITION. The state of the block as plain data, the reasons a step can stop, and the state after
reset. Every parameter of the manual's tables stands in `regs` (or in `bankB` and `rcTab`) under its ID
and instance; what the tables do not show is held in the structures below. -/

namespace Sys2Proof.Machine

/-- Reasons for a fault. Every command has an effect or none, so no meaning of this model raises one. -/
inductive Fault where
  /-- Raised by no meaning; safe. -/
  | none_
  deriving DecidableEq, Repr

/-- Reasons for a refusal of a command by the model. -/
inductive Refusal where
  /-- Raised by an arm of `exec` whose command has no meaning yet; safe. -/
  | notModelled (mnemonic : String)
  deriving DecidableEq, Repr

/-! Host interfaces, rings and messages. -/

/-- One message command: where it came from and what its response repeats (R86). -/
structure Cmd where
  ring : Nat := 0
  opcode : Nat := 0
  tag : Nat := 0
  inst : Nat := 0
  flags : Nat := 0
  seq : Nat := 0
  arrival : Nat := 0
  deriving DecidableEq, Repr

/-- What a ring holds beside its descriptor, indices, stamp and drop count (R79 to R91). -/
structure RingSt where
  /-- SEQUENCE of the previous command on the ring; none after boot and after an enable (R87). -/
  lastSeq : Option Nat := none
  /-- SEQUENCE of the last command that was not late (R87, R88). -/
  execSeq : Option Nat := none
  /-- The stored response of that command, as opcode, tag, instance and payload (R87). -/
  resp : Option (Nat × Nat × Nat × Nat × List Byte) := none
  /-- That command is still executing and its response is not yet written (R87). -/
  executing : Bool := false
  /-- SEQUENCE of the next message that the device writes on the ring (R87). -/
  seqOut : Nat := 0
  /-- The doorbells that exposed the entries which a command ring holds, oldest first: the first entry that each
  exposed, and its tick (R89). -/
  exposed : List (Nat × Nat) := []
  /-- The waiting command has been counted in HOST.RESP_STALL (R90). -/
  stalled : Bool := false
  /-- Dropped messages not yet told by a LOST event, with the first and last stamp (R85). -/
  lost : Nat := 0
  lostFirst : Nat := 0
  lostLast : Nat := 0
  /-- Arrival stamps of the entries held by a ring of 8 to 15, by index (R124). -/
  arr : Smap Nat := []
  deriving DecidableEq, Repr

/-- The snapshot and the held low word of one interface (R41, R43). The address is the parameter's ID
times 256 plus its instance. -/
structure Snapshot where
  addr : Option Nat := none
  hi : Nat := 0
  fresh : Bool := false
  heldAddr : Option Nat := none
  heldLow : Nat := 0
  deriving DecidableEq, Repr

/-- A partial message: its bytes, the next segment number and the tick of its last segment (R102, R444). -/
structure Reasm where
  bytes : List Byte
  next : Nat
  stamp : Nat
  deriving DecidableEq, Repr

/-- A frame that leaves the device on CAN FD (R100 to R102): identifier, ESI, whether the bit rate is switched, the
time quanta of 25 ns before and after the sample point of an arbitration bit and of a data bit, and the data. -/
structure CanTx where
  ident : Nat
  esi : Bool
  brs : Bool
  arb : Nat × Nat
  fast : Nat × Nat
  data : List Byte
  deriving DecidableEq, Repr

/-- A response that waits for room on its response ring (R91): command ring, opcode and the rest of `Cmd` that it
repeats, and its payload. -/
structure LateResp where
  ring : Nat
  opcode : Nat
  tag : Nat
  inst : Nat
  low : Nat
  payload : List Byte
  deriving DecidableEq, Repr

/-- The host interfaces. -/
structure HostSt where
  rings : Smap RingSt := []
  snaps : Smap Snapshot := []
  /-- Data that the last direct read of each interface returned (R41, R484). -/
  rdata : Smap Nat := []
  /-- SDO bytes of the last SPI frame (R74). -/
  sdo : List Byte := []
  /-- nIRQ is asserted; the tick of its last release, for HOST.IRQ_HOLDOFF (R98). -/
  nirq : Bool := false
  nirqOff : Option Nat := none
  /-- Bits of HOST.IRQ_PEND and HOST.GSTAT that were set on tick `setAt`: a clear on that tick leaves them (R98). -/
  setAt : Nat := 0
  setPend : Nat := 0
  setGstat : Nat := 0
  canIn : Option Reasm := none
  canPassive : Bool := false
  /-- Frames sent on CAN FD since the last idle tick. -/
  canTx : List CanTx := []
  /-- Command rings that Vioskik has served in the present turn (R90). -/
  turn : List Nat := []
  /-- Responses that wait for room, oldest first (R91). -/
  respQ : List LateResp := []
  /-- Deferred commands that still run: each is answered `busy` if sent again (R91). -/
  running : List Cmd := []
  /-- Commands taken on this tick that act at its end, with their payloads (R389). -/
  atEnd : List (Cmd × List Byte) := []
  /-- Tick of the last mailbox message received on any interface (R55, R63). -/
  lastMsg : Nat := 0
  /-- Dexlia segments being reassembled, by sender (R444). -/
  linkIn : Smap (Option Reasm) := []
  deriving DecidableEq, Repr

/-! Transactions. -/

/-- One staged pair: a write, with the table page for ENG.RC_TAB (R106, R528), or an ENG_SWAP (R108). -/
inductive Staged where
  | write (id inst page v : Nat)
  | swap (d : Nat) (copy : Bool)
  deriving DecidableEq, Repr

/-- The transaction of one interface (R104 to R107, R117). -/
structure Txn where
  isOpen : Bool := false
  pairs : List Staged := []
  idle : Nat := 0
  deriving DecidableEq, Repr

/-- A commit whose response waits for its affected drives (R114). -/
structure CommitWait where
  cmd : Cmd
  accept : Nat
  /-- Affected drives, and those that have taken the commit with the epoch of that boundary. -/
  drives : Nat
  taken : List (Nat × Nat)
  deriving DecidableEq, Repr

/-- An applied pair that waits for its drive's sample boundary (`atReload = false`) or for the drive's
next reload with a committed update group (R9, R10); drive 4 for a pair that belongs to no drive (R11). -/
structure Waiting where
  drive : Nat
  atReload : Bool
  tick : Nat
  item : Staged
  deriving DecidableEq, Repr

/-- The content of one configuration record (R523): the stored values, both banks with their ACTIVE
bits, the kept tables and the generation number. -/
structure ConfigRec where
  gen : Nat := 0
  regs : Smap Nat := []
  bankB : Smap Nat := []
  active : Smap Nat := []
  rc : Smap Nat := []
  deriving DecidableEq, Repr

/-- Transactions and stored configuration. -/
structure TxnSt where
  txns : Smap Txn := []
  /-- Accepted commits whose response waits, oldest first. -/
  commits : List CommitWait := []
  waiting : List Waiting := []
  /-- Pending `at boot` values (R9, R116). -/
  bootPend : Smap Nat := []
  /-- The two copies of the configuration record in MRAM; none where absent or damaged (R434). -/
  copyA : Option ConfigRec := none
  copyB : Option ConfigRec := none
  /-- The record being written, and the tick at which its write began (R116). -/
  saving : Option (ConfigRec × Nat) := none
  deriving DecidableEq, Repr

/-! Power. -/

/-- The power states of R46, and the times in which no state of that table holds: unpowered, and from
the start of a reset until boot ends. -/
inductive PwrMode where
  | unpowered | reset | boot | new | crescent | half | full
  deriving DecidableEq, Repr

/-- What an entry flush leads to (R49, R53). -/
inductive Entry where
  | new | crescent
  deriving DecidableEq, Repr

/-- The steps of the motion-wake sequence that wait for something (R61). -/
inductive MwStage where
  | none | boot | vdrv | unguarded | guarded
  deriving DecidableEq, Repr

/-- The motion watch of one bridge (R59). -/
structure MwWatch where
  last : Option Nat := none
  /-- Sample numbers of the motion edges, newest first. -/
  edges : List Nat := []
  deriving DecidableEq, Repr

/-- Power states, wake sources and the budget scheduler. -/
structure PowerSt where
  mode : PwrMode := .half
  entering : Option Entry := none
  /-- Wake events latched during the entry flush (R53), in the layout of PWR.WAKE_SRC. -/
  wakeLatch : Nat := 0
  /-- Epoch at entry into CRESCENT and slow-clock cycles counted there (R37). -/
  crEntry : Nat := 0
  crCycles : Nat := 0
  /-- Start of the interval that PWR.HALF_IDLE measures. -/
  idleStart : Nat := 0
  mw : Smap MwWatch := []
  mwStage : MwStage := .none
  /-- FULL was entered by motion wake (PWR.STATE.MW). -/
  mwFull : Bool := false
  mwSamples : Nat := 0
  /-- Start of the wait for VDRV UVLO, and of the quiet interval (R61, R63). -/
  mwStart : Nat := 0
  mwQuiet : Nat := 0
  /-- The return of R63 has been cancelled by a mailbox message. -/
  mwCancel : Bool := false
  /-- Energy account in units of 1 / 720,000,000,000 µJ, and the tick to which it is settled (R68). -/
  eLevel : Nat := 36000000 * 720000000000
  eTick : Nat := 0
  /-- The background chunk that runs: priority and start (R66); the pause that follows one (R71). -/
  chunk : Option (Nat × Nat) := none
  pause : Option Nat := none
  /-- Tick since which the task of each priority is ready, and whether its lateness is counted (R70). -/
  ready : Smap (Option Nat) := []
  lateDone : Nat := 0
  /-- The crystal runs, and is the reference (R29, R30). -/
  xtalOk : Bool := true
  xtalRef : Bool := true
  /-- A chip reset waits for every drive to fall below FOC.ASC_SPEED: its bit of SYS.RST_SRC (R17). -/
  chipReq : Option Nat := none
  /-- nRST is held low (R517). -/
  nrstLow : Bool := false
  /-- Boot starts the motion-wake sequence (R54, R61). -/
  bootMotion : Bool := false
  /-- The boot stopped in HALF, for want of the crystal that TIME.REF_SEL = `xtal` asks for (R29). -/
  bootStopped : Bool := false
  deriving DecidableEq, Repr

/-! Faults. -/

/-- One fault record (R396). The path and cell follow from the selector. -/
structure FRec where
  cause : Bool := false
  live : Bool := false
  first : Bool := false
  conseq : Bool := false
  inj : Bool := false
  /-- The last report was consequent (R409). -/
  lastConseq : Bool := false
  firstEpoch : Nat := 0
  lastEpoch : Nat := 0
  count : Nat := 0
  /-- Tick of the last report, on which an `event` source is live, and of the last one that set CAUSE (R397, R398). -/
  tick : Option Nat := none
  setAt : Option Nat := none
  /-- Drive action in force while CAUSE = 1 (layout of FLT.REACT.ACTION) and the drives it acts on. -/
  act : Nat := 0
  drives : Nat := 0
  /-- SEQ of the last report that has one, the parent of the penumbras it opens. -/
  seq : Nat := 0
  /-- Awaiting a host decision since this stamp (R132). -/
  awaiting : Option Nat := none
  deriving DecidableEq, Repr

/-- What opens a penumbra: the rows of the consequence map (R410). -/
inductive PenKind where
  | driveAction (d : Nat) | twoStep (d : Nat) | tripForce (t : Nat) | vdrvHold (j : Nat)
  | stoHold (j : Nat) | ov4 (n : Nat) | blk (u : BlkUnit)
  deriving DecidableEq, Repr

/-- An open penumbra: its opener, opening tick, the selector of its report and that report's SEQ, none until the end of
its tick (R398, R406, R408). -/
structure Pen where
  kind : PenKind
  start : Nat
  /-- Last tick that it shadows. -/
  stop : Nat
  sel : Nat
  seq : Option Nat
  deriving DecidableEq, Repr

/-- TYPE of a journal entry (R414). -/
inductive JType where
  | report | consequent | tail | clear
  /-- A wake (R37), which R414 gives no code. -/
  | wake
  deriving DecidableEq, Repr

/-- One journal entry (R414); `jbytes` lays it out. -/
structure JEntry where
  epoch : Nat := 0
  frac : Option Nat := none
  type : JType := .report
  cls : Nat := 0
  first : Bool := false
  inj : Bool := false
  kind : Nat := 0
  inst : Nat := 0
  path : Nat := 0
  cell : Nat := 0
  seq : Nat := 0
  parent : Nat := 0xFFFFFFFF
  react : Nat := 0
  count : Nat := 0
  data : Nat := 0
  /-- Of a wake, the epoch at entry into CRESCENT; `epoch` holds that at exit (R37). -/
  entered : Nat := 0
  deriving DecidableEq, Repr

/-- The tail: reports lost while the journal was full (R415). -/
structure JTail where
  lost : Nat := 0
  lostAb : Nat := 0
  first : Nat := 0
  last : Nat := 0
  deriving DecidableEq, Repr

/-- One MRAM mirror slot (R418), as its 44 bytes stand in MRAM, little-endian (R4): the entry in 32, the era in 4, the
write count in 4 and the CRC-32C of these in 4. An empty slot holds write count 0. -/
structure MirrorSlot where
  bytes : List Byte := zeros 40 ++ leBytes 4 (crc32C (zeros 40))
  /-- The write was cut by loss of supply: the CRC does not pass (assumption log 67). -/
  cut : Bool := false
  deriving DecidableEq, Repr

/-- A slot as it is written: entry bytes, era and write count, then their CRC-32C (R418). -/
def MirrorSlot.ofEntry (entry : List Byte) (era count : Nat) (cut : Bool := false) : MirrorSlot :=
  let b := entry ++ leBytes 4 era ++ leBytes 4 count
  { bytes := b ++ leBytes 4 (crc32C b), cut := cut }
/-- The write count of a slot. -/
def MirrorSlot.count (x : MirrorSlot) : Nat := leNat ((x.bytes.drop 36).take 4)
/-- The slot's CRC-32C passes. -/
def MirrorSlot.good (x : MirrorSlot) : Bool := !x.cut && leNat (x.bytes.drop 40) == crc32C (x.bytes.take 40)

/-- A report of the present tick, whose journal entry takes its SEQ at the end of the tick (R398, R401): the entry, whether
it is of class A or B and not consequent, the SEQ and selector of the penumbra that shadows it, whether it goes to a home
device, and whether it writes a fault event. -/
structure Draft where
  sel : Nat
  entry : JEntry
  ab : Bool
  parent : Option (Option Nat × Nat)
  trouble : Bool
  event : Bool
  deriving DecidableEq, Repr

/-- A test injection that awaits its report (R420, R421). -/
structure Inject where
  cmd : Cmd
  noReact : Bool
  epoch : Nat
  kind : Nat
  inst : Nat
  /-- TARGET 5: the port's next frame has not arrived yet. -/
  waits : Bool := false
  deriving DecidableEq, Repr

/-- The fault collector and the journal. -/
structure FaultSt where
  recs : Smap FRec := []
  pens : List Pen := []
  /-- Reports of the present tick, in ascending selector order. -/
  drafts : List Draft := []
  journal : List JEntry := []
  seq : Nat := 0
  tail : JTail := {}
  mirror : Smap MirrorSlot := []
  /-- Reports of class A and B that wait for their mirror slot, oldest first (R418). -/
  mirrorQ : List (JEntry × Nat) := []
  /-- Reports that a member forwards to the home of a drive as TROUBLE, oldest first (R462). -/
  troubleQ : List (Nat × JEntry) := []
  mirrorCount : Nat := 0
  /-- FLT.LIFE in MRAM (R419). -/
  lifeMram : Smap Nat := []
  /-- Units in block reset (R16, R403), and the epoch of the last completion of each. -/
  blk : List BlkUnit := []
  blkDone : List (BlkUnit × Nat) := []
  /-- Block resets that reactions of this tick ask for, with the selector of the report; the tick on which a reaction
  last asked for a chip reset (R401, R403). -/
  blkAsked : List (BlkUnit × Nat) := []
  chipAt : Option Nat := none
  inject : Option Inject := none
  /-- The satellite core's fault interrupt and non-maskable trap are asserted (R402). -/
  satInt : Bool := false
  satNmi : Bool := false
  /-- Shutdown records that wait for their MRAM write (R387): unit and the four words. -/
  shdnQ : List (Nat × List Nat) := []
  deriving DecidableEq, Repr

/-! PWM generators, trips, sync and halt. -/

/-- One generator. Edge times are in fractions of 1/32 tick (R38). The set in force stands in `regs`
as PWM.CMPA, PWM.CMPB and PWM.OVR (R148). -/
structure Gen where
  /-- The high-side request (R139). -/
  req : Bool := false
  /-- The gate commands to the driver die, and the turn-ons pending in a dead time (R142). -/
  gh : Bool := false
  gl : Bool := false
  pendH : Bool := false
  pendL : Bool := false
  /-- When GH and GL last went off, in fractions. -/
  offH : Nat := 0
  offL : Nat := 0
  /-- Stamp of the last edge of each command, in fractions (R38, R140). -/
  edgeH : Nat := 0
  edgeL : Nat := 0
  /-- Stamp of the last turn-on of each command, from which its desaturation blanking runs (R335). -/
  onH : Nat := 0
  onL : Nat := 0
  /-- The interlock holds both gates off (R150). -/
  conflict : Bool := false
  /-- The shadows of the update group (R146). -/
  shA : Nat := 0x1FFFFF
  shB : Nat := 0x1FFFFF
  shOvr : Nat := 1
  /-- Source codes of R160 whose latch forces `off`, and those whose latch forces `asc`. -/
  fOff : Nat := 0
  fAsc : Nat := 0
  /-- Level held until the next reload after the last latch was cleared, 1 `off`, 2 `asc`, plus 4 times its source
  (R168). -/
  hold : Nat := 0
  /-- Frozen by a debug halt (R171). -/
  frozen : Bool := false
  /-- Delay-line map in force, as the taps per tick of its calibration; none before the first (R33). -/
  taps : Option Nat := none
  /-- On-times of GH and GL and turn-on and turn-off commands of GH since `accAt`, the previous update of
  the loss accumulator (R376); times in fractions. -/
  accH : Nat := 0
  accL : Nat := 0
  accN : Nat := 0
  accAt : Nat := 0
  deriving DecidableEq, Repr

/-- One trip input (R162). Its last sample after POL stands in PWM.TRIP_STAT.LEVEL. -/
structure TripSt where
  /-- Level of the pin. -/
  pin : Bool := false
  /-- Stamp of the raw edge that began the present run of active samples. -/
  raw : Nat := 0
  frac : Nat := 0
  /-- The filtered edge of that run has acted. -/
  fired : Bool := false
  deriving DecidableEq, Repr

/-- An update group as it stood before the writes of a reload tick, which belong to the following reload point
(R147): the tick, the commit flag, and generator, CMPA, CMPB and OVR of each shadow set. -/
structure Kept where
  tick : Nat
  commit : Bool
  sets : List (Nat × Nat × Nat × Nat)
  deriving DecidableEq, Repr

/-- The carrier counter and update group of one drive (R135, R146, R155). -/
structure Carrier where
  run : Bool := false
  cnt : Nat := 0
  /-- Length of the period in progress, and its half reload point; PERIOD of that period. -/
  len : Nat := 10000
  half : Nat := 5000
  per : Nat := 10000
  /-- Length of the period before it (R155). -/
  prev : Nat := 10000
  /-- Samples per period in force for the period in progress (R300). -/
  spp : Nat := 2
  /-- Correction for the period that starts next, in ticks (R155). -/
  corr : Int := 0
  /-- Waits for the first pulse P_b in `lock` mode (R136). -/
  waitPulse : Bool := false
  /-- Tick of the last pulse, and SYNC_LOSS (R157). -/
  pulse : Nat := 0
  lost : Bool := false
  /-- The update group's commit flag, and the group of a reload tick that has been written since (R146, R147). -/
  commit : Bool := false
  kept : Option Kept := none
  /-- Tick of the last reload point taken, and of the last count 0. -/
  lastReload : Option Nat := none
  /-- TEST_EN = 0 was committed: the next reload point loads `float` (R149). -/
  floatNext : Bool := false
  deriving DecidableEq, Repr

/-- Sync chain and debug halt. -/
structure PwmSt where
  gens : Smap Gen := []
  trips : Smap TripSt := []
  /-- Chain counter (R153), and the ticks of the pulses P_b that are on their way down the chain, oldest first. -/
  chain : Nat := 0
  pulses : Smap (List Nat) := []
  /-- Raw-edge stamp of SYNC_IN, in fractions (R158). -/
  syncIn : Nat := 0
  /-- Start of the SYNC_OUT pulse (R159). -/
  syncOut : Option Nat := none
  /-- Epoch of the debug halt; a halt has been requested and takes effect at the end of the tick (R171). -/
  halted : Option Nat := none
  haltReq : Bool := false
  /-- Satellite core halted (R171). -/
  satHalt : Bool := false
  /-- Chopper generators off by the guarded set (R172). -/
  guardChop : Nat := 0
  deriving DecidableEq, Repr

/-! Drives. -/

/-- The drive states of R257, in the order of POS.STAT.STATE. -/
inductive DPhase where
  | stopped | precharge | listen | brake | lossBrake | align | openLoop | running | stopping | mwHold
  deriving DecidableEq, Repr

/-- POS.STAT.STATE (R257). -/
def DPhase.code : DPhase → Nat
  | .stopped => 0 | .precharge => 1 | .listen => 2 | .brake => 3 | .lossBrake => 4 | .align => 5
  | .openLoop => 6 | .running => 7 | .stopping => 8 | .mwHold => 9

/-- The stop phases of R283, in the order of FOC.STAT.STOP_PH. -/
inductive StopPh where
  | none | ramp | short | off
  deriving DecidableEq, Repr

/-- The angle tracker of one drive (R234 to R237). -/
structure Tracker where
  /-- θ in uQ0.32 turn at `tp`, ω in rad/s electrical, stamp of the last event. -/
  theta : Nat := 0
  omega : F32 := 0#32
  tp : Nat := 0
  /-- The next event is the first after initialisation (R234). -/
  fresh : Bool := true
  /-- Tick of the last event that ZERO_TMO measures from, and whether its expiry has acted (R235). -/
  evTick : Nat := 0
  zeroed : Bool := false
  abs : Bool := false
  /-- Tick of the last crossing or listen (R237). -/
  crossAt : Option Nat := none
  /-- EV_SRC of the last event. -/
  evSrc : Nat := 0
  /-- Hall state and the tick it was entered; encoder index: seen, and the count at it (R233). -/
  hall : Nat := 0
  hallTick : Nat := 0
  idxSeen : Bool := false
  idxCount : Nat := 0
  /-- Index of the last valid Hall state in the order of R230. -/
  hallIdx : Option Nat := none
  /-- Encoder reference: the electrical angle at a count, and the counts since, modulo a mechanical turn (R232, R233). -/
  encAng : Nat := 0
  encN : Nat := 0
  /-- Tick of the last encoder event given to the tracker (R226). -/
  encTick : Nat := 0
  deriving DecidableEq, Repr

/-- One listen (R254): the crossings of the present sequence, newest first, as stamp in fractions and
angle in uQ0.32. -/
structure ListenSt where
  xs : List (Nat × Nat) := []
  deriving DecidableEq, Repr

/-- What the completion event of DRV_START reports (R258). -/
structure StartSt where
  cmd : Option Cmd := none
  noListen : Bool := false
  decision : Nat := 0
  dirBack : Bool := false
  listened : Bool := false
  braked : Bool := false
  lossBraked : Bool := false
  speed : F32 := 0#32
  /-- The drive enters `running` at its next sample boundary. -/
  pendRun : Bool := false
  /-- Ticks spent in `brake` and `loss_brake` (R256). -/
  brakeTicks : Nat := 0
  /-- The path of the fault that ended the start (R258). -/
  path : Nat := 0
  /-- A home drive waits for the GANG_ACKs of these devices since this tick (R458). -/
  gangWait : Option (Nat × List Nat) := none
  /-- The members have been started and not stopped (R458). -/
  gangOn : Bool := false
  /-- The drive came from `mw_hold`, so the precharge is left out (R253). -/
  skipPre : Bool := false
  /-- START_FAIL or FLY_FAIL of this start has been raised (R250, R256). -/
  failed : Bool := false
  deriving DecidableEq, Repr

/-- What DRV_STOP and the drive actions hold (R283 to R286). -/
structure StopSt where
  cmd : Option Cmd := none
  ph : StopPh := .none
  ramped : Bool := false
  shorted : Bool := false
  timeout : Bool := false
  listened : Bool := false
  omega0 : F32 := 0#32
  entry : Nat := 0
  shortStart : Nat := 0
  shortTicks : Nat := 0
  /-- The listen inside a short began at this tick; none while shorted (R284). -/
  listen : Bool := false
  stepStart : Nat := 0
  /-- The stop carries out a drive action, not DRV_STOP, raised by the source with this path. -/
  byAction : Bool := false
  path : Nat := 0
  /-- `soft_off` in progress since this tick (R286). -/
  soft : Option Nat := none
  /-- `high_on` has been given up for `low_on` (R284). -/
  forceLow : Bool := false
  deriving DecidableEq, Repr

/-! The window picker (R205 to R215). -/

/-- A window that has closed and waits for its delivery 200 ns later (R26), or a delivered one. Times
are fractions; `n` counts the primary samples in `sum`. -/
structure Window where
  close : Nat
  vec : Nat
  /-- Generators floating while it was open, as a phase mask (U 1, V 2, W 4). -/
  floating : Nat
  sum : Int
  n : Nat
  /-- Checker SHUNT samples of the window (R195), sum and number. -/
  csum : Int
  cn : Nat
  /-- ADC.OFS_A and ADC.OFS_B on the closing tick. -/
  ofsA : Nat
  ofsB : Nat
  ecl : Bool
  shift : Bool
  second : Bool
  /-- The plausibility comparison failed (R195). -/
  plaus : Bool := false
  /-- The window closed within 200 ns of the boundary that ended its interval (R26). -/
  tooLate : Bool := false
  deriving DecidableEq, Repr

/-- The picker of one bridge: the state of the gates, the window that is open and the windows of the
present interval. -/
structure Picker where
  /-- 0 in a dead time, 1 in an active-vector state, 2 in a zero-vector state (R190). -/
  st : Nat := 2
  vec : Nat := 0
  floating : Nat := 7
  /-- Opening of the present window, in fractions (R206). -/
  openAt : Nat := 0
  /-- Beginning of the present state, and the last gate change, in fractions. -/
  began : Nat := 0
  edgeAt : Nat := 0
  /-- A debug halt has closed the window of the present state (R209). -/
  shut : Bool := false
  /-- Changes of the offset estimates in the present state, newest first: tick, and OFS_A and OFS_B before (R207). -/
  ofs : List (Nat × Nat × Nat) := []
  /-- ECL, SHIFT and SECOND of the interval that ended last (R223). -/
  was : Bool × Bool × Bool := (false, false, false)
  /-- Samples since the last edge: tick, code, valid; newest first; primary, then checker SHUNT. -/
  samples : List (Nat × Int × Bool) := []
  csamples : List (Nat × Int × Bool) := []
  /-- Closed windows that wait for delivery, oldest first (R26). -/
  closed : List Window := []
  /-- Windows of the present interval, oldest first (R210). -/
  delivered : List Window := []
  /-- Windows in a row whose plausibility comparison failed (R195). -/
  plausRun : Nat := 0
  /-- Some generator of the bridge was neither floated, overridden nor forced in the interval (R211). -/
  driven : Bool := false
  deriving DecidableEq, Repr

/-! Eclipse windows (R238 to R246). -/

/-- One observation: time in fractions, value u in checker LSB as sum over number where a slot was taken
and the value is not clamped, and the sign of u (R243). -/
structure EclObs where
  t : Nat
  val : Option (Int × Nat)
  pos : Bool
  deriving DecidableEq, Repr

/-- A decided window: crossing number k, start of its first period, intervals in all, intervals loaded;
whether it has counted a skip and whether its crossing has been given; its observations, newest first. -/
structure EclWin where
  k : Nat
  start : Nat
  total : Nat
  planned : Nat := 0
  loaded : Nat := 0
  dead : Bool := false
  found : Bool := false
  obs : List EclObs := []
  deriving DecidableEq, Repr

/-- Eclipse scheduling of one drive. -/
structure EclSt where
  win : Option EclWin := none
  /-- End of the previous window on the bridge (R239). -/
  lastEnd : Nat := 0
  /-- Windows in a row that yielded crossings (R250). -/
  okRun : Nat := 0
  /-- Since when the speed lies below ECL_W_MIN (R247). -/
  lowSince : Option Nat := none
  /-- Hall events steer the tracker under POS.START = `hall` (R251). -/
  useHall : Bool := true
  deriving DecidableEq, Repr

/-! Current control and the Orbit engine. -/

/-- One winding set of a drive: integrators, the two previous samples (R213), the output of step 9 and
of step 10, and the edge shift that the second interval repeats (R217). -/
structure SetSt where
  xd : F32 := 0#32
  xq : F32 := 0#32
  id1 : F32 := 0#32
  iq1 : F32 := 0#32
  id2 : F32 := 0#32
  iq2 : F32 := 0#32
  vdU : F32 := 0#32
  vqU : F32 := 0#32
  vd : F32 := 0#32
  vq : F32 := 0#32
  /-- Shift of each phase planned with the rising edges, in 1/32 tick. -/
  shU : Int := 0
  shV : Int := 0
  shW : Int := 0
  /-- CMPA planned for the first interval, for a remote set (R280). -/
  cU : Nat := 0x1FFFFF
  cV : Nat := 0x1FFFFF
  cW : Nat := 0x1FFFFF
  deriving DecidableEq, Repr

/-- A test injection (R313). -/
structure InjSet where
  point : Nat
  wave : Nat
  at_ : Bool
  prbsN : Nat
  prbsDiv : Nat
  amp : F32
  f0 : F32
  f1 : F32
  dur : Nat
  start : Nat
  deriving DecidableEq, Repr

/-- Injection state (R314, R315). -/
structure InjSt where
  pend : Option InjSet := none
  act : Option InjSet := none
  k : Nat := 0
  lfsr : Nat := 0
  last : Nat := 0
  deriving DecidableEq, Repr

/-- A transit capture (R316 to R319). -/
structure Capture where
  cmd : Cmd
  kind : Nat
  trig : Nat
  decim : Nat
  set : Nat
  sigs : List Nat
  count : Nat
  start : Nat
  active : Bool := false
  /-- The boundary at which it started: runs of earlier boundaries are not recorded (R316). -/
  since : Nat := 0
  /-- Recording has ended, and the tick (R319). -/
  ended : Option Nat := none
  stopped : Bool := false
  seq : Nat := 0
  done : Nat := 0
  dropped : Nat := 0
  runs : Nat := 0
  skip : Bool := false
  first : Nat := 0
  last : Nat := 0
  fifo : List (List Byte) := []
  deriving DecidableEq, Repr

/-- The parameter register file: bank A and unbanked parameters, and bank B (R302). -/
structure Regs where
  a : Smap Nat := []
  b : Smap Nat := []
  deriving DecidableEq, Repr

/-- What the run of one sample is given for one set (R211 to R213, R278, R294): its key, which is the bridge
of an own set and 16 + 4·j + b of a remote one; its bridge; status; phase currents; currents and angle in
the set's frame; bus voltage. -/
structure SetIn where
  key : Nat
  bridge : Nat
  status : Nat := 4
  iu : F32 := 0#32
  iv : F32 := 0#32
  iw : F32 := 0#32
  id_ : F32 := 0#32
  iq : F32 := 0#32
  θ : Nat := 0
  vbus : F32 := 0#32
  deriving DecidableEq, Repr

/-- A released run: the values in force at its boundary and its lane times (R293 to R297). -/
structure Run where
  boundary : Nat
  /-- Tick of the drive's next reload point, PERIOD and samples per period. -/
  next : Nat
  per : Nat
  spp : Nat
  deadline : Nat
  /-- 0 FOC-S, 1 FOC-G, 2 START. -/
  prog : Nat
  regs : Regs
  /-- θ(P) and ω of the frame. -/
  theta : Nat
  omega : F32
  sets : List SetIn
  /-- Compensation mode: 0 `none`, 1 `rc`, 2 `ff` (R306). -/
  comp : Nat
  injOn : Bool := false
  inj : F32 := 0#32
  injPoint : Nat := 0
  /-- Host values in use at the boundary, by KIND, and the KINDs that fell back there (R129, R130). -/
  host : Smap (Option (Word × Word)) := []
  fb : Nat := 0
  /-- Occasion of R277: 0 none, 1 flyby or known, 2 handover, 3 standstill, 4 first run of START. -/
  init : Nat := 0
  /-- START's frame less the tracker's at a handover (R250). -/
  rot : Nat := 0
  /-- The run plans the first interval of a period (R280). -/
  plansFirst : Bool
  /-- Fixed override of the drive state, or none where the regulators run (R290). -/
  ovr : Option Nat
  /-- PWM.TEST_EN (R290). -/
  test : Bool := false
  /-- X = 0 of a stop (R283); `soft_off`; `derate`; `loss_brake`. -/
  toZero : Bool := false
  soft : Bool := false
  derate : Bool := false
  lossBrake : Bool := false
  iTherm : F32
  pBus : F32
  iLb : F32
  /-- START's current references (R248, R249); the run carries the open-loop frame on to the next boundary. -/
  refD : F32 := 0#32
  refQ : F32 := 0#32
  openLoop : Bool := false
  /-- ω of the tracker, which START does not steer by (R161). -/
  estimate : F32 := 0#32
  /-- The drive's repetitive-controller tables at the boundary (R294). -/
  rc : Smap Nat := []
  /-- What R308 asks of the boundary is met. -/
  mayLearn : Bool := false
  /-- Lane-cycles of the run (R291, R292). -/
  cost : Nat
  lane : Nat
  /-- Lane-cycle of the start, counted at 400 MHz from epoch 0; none while it waits. -/
  start : Option Nat := none
  /-- The deadline has passed and is counted (R296). -/
  late : Bool := false
  /-- The members' reports of the boundary are in, or their wait has ended, on this tick (R460). -/
  ready : Bool := true
  readyAt : Nat := 0
  deriving DecidableEq, Repr

/-- Held host value of one movable function (R129, R130). -/
structure HostFn where
  a : Word := 0#32
  b : Word := 0#32
  /-- TARGET of the held entry, for the trajectory of R237. -/
  target : Nat := 0
  run : Nat := 0
  /-- The function has run in `host` mode since its MODE was last written. -/
  started : Bool := false
  deriving DecidableEq, Repr

/-- Control chain of one drive. -/
structure FocSt where
  x : F32 := 0#32
  r : F32 := 0#32
  xw : F32 := 0#32
  xfw : F32 := 0#32
  idRef : F32 := 0#32
  iqRef : F32 := 0#32
  tstar : F32 := 0#32
  ctrl : Nat := 0
  sets : Smap SetSt := []
  /-- Soft turn-off magnitudes of i_d,ref and i_q,ref (R286); none before the first sample. -/
  softD : Option F32 := none
  softQ : F32 := 0#32
  /-- Open-loop frame (R249). -/
  olTheta : Nat := 0
  olW : F32 := 0#32
  /-- Occasion of R277 that the next run initialises for: 1 flyby or known, 2 handover, 3 standstill, 4 START. -/
  init : Nat := 0
  inj : InjSt := {}
  cap : Option Capture := none
  /-- Tick from which RC_HOLD counts (R306), and since which FOC.STAT.RAMP has been 0, none while it is 1 (R308). -/
  holdFrom : Nat := 0
  rampZero : Option Nat := some 0
  /-- Limits set in the previous sample: ILIM, GLIM, VLIM or LB (R308). -/
  limited : Bool := false
  /-- Open bin visit: bin, samples, sums of the errors (R309). -/
  visit : Option (Nat × Nat × F32 × F32) := none
  rcClear : Bool := false
  swap : Option (Bool × Option Cmd) := none
  /-- The run waiting or in progress, stamps of overruns (R298), boundary and outcome of the last run. -/
  run : Option Run := none
  overruns : List Nat := []
  /-- Bridges for which the interval in force was planned as a compensating one, and as a shifted or
  compensating one (R211, R217, R223); whether it is an eclipse interval of the lowest bridge. -/
  compInt : Nat := 0
  shInt : Nat := 0
  eclInt : Bool := false
  /-- The same of the set that stands in the shadows. -/
  compNext : Nat := 0
  shNext : Nat := 0
  eclNext : Bool := false
  host : Smap HostFn := []
  /-- Tick of the last sample boundary (R210). -/
  boundary : Nat := 0
  deriving DecidableEq, Repr

/-- One drive. -/
structure DriveSt where
  phase : DPhase := .stopped
  /-- Tick at which the phase was entered, and at which `running` was last entered (R306). -/
  since : Nat := 0
  runAt : Option Nat := none
  /-- Tick of the reload from which every generator carries the override of the present step (R25). -/
  inForce : Option Nat := none
  /-- A drive action that waits for the next sample boundary: action, ASC flag on the reaction tick and
  SOURCE_PATH (R286, R401). -/
  pendAct : Option (Nat × Bool × Nat) := none
  /-- Step of `mw_hold`: precharge, listen, or hold; a hold is the active short where `mwLow` (R61). -/
  mwPre : Bool := false
  mwListen : Bool := false
  mwLow : Bool := false
  /-- Tick and channel of the last encoder edge, with the count and tracker before it (R232). -/
  encSave : Option (Nat × Nat × Nat × Tracker) := none
  /-- Tick of the last Hall change, the tracker before it, and whether HALL_SEQ was raised on it: inputs that change
  on one tick make one change of the Hall state (R229, R230). -/
  hallSave : Option (Nat × Tracker × Bool) := none
  asc : Bool := false
  car : Carrier := {}
  trk : Tracker := {}
  listen : ListenSt := {}
  start : StartSt := {}
  stop : StopSt := {}
  ecl : EclSt := {}
  foc : FocSt := {}
  deriving DecidableEq, Repr

/-! Driver dies and comparators. -/

/-- One driver die: gate rail, STO inputs, STO latch and disagreement (R332, R345, R347). -/
structure DieSt where
  /-- The rail is above its rising threshold; it has been since the last boot (R332). -/
  up : Bool := false
  everUp : Bool := false
  /-- Filtered low level of STOA and STOB, and the tick of its last end. -/
  lowA : Bool := false
  lowB : Bool := false
  highA : Option Nat := none
  highB : Option Nat := none
  latch : Bool := false
  /-- Since when STOA and STOB differ. -/
  differ : Option Nat := none
  /-- STOA and STOB have been active in the boot under way, whose end reports them (R345, R346). -/
  bootA : Bool := false
  bootB : Bool := false
  deriving DecidableEq, Repr

/-- One gate channel of a driver die (R333, R334, R336). -/
structure ChanSt where
  /-- GH is held off since this time in fractions (R333). -/
  bst : Option Nat := none
  desatHi : Bool := false
  desatLo : Bool := false
  /-- The die interlock holds the channel off (R334). -/
  xcmd : Bool := false
  deriving DecidableEq, Repr

/-- A comparator self-test in progress (R349 to R353): the command, none for the test of PWR_SET `full`;
dies under test; dies aborted, with the tick; bridges whose OV4 test did not run, as seen while it would; results of the
dies that have ended. -/
structure SelfTest where
  cmd : Option Cmd
  start : Nat
  dies : List Nat
  aborted : Smap (Option Nat) := []
  noOv4 : List Nat := []
  done : List (Nat × SelftestResult) := []
  deriving DecidableEq, Repr

/-- The driver dies and the power-stage comparators. -/
structure GateSt where
  dies : Smap DieSt := []
  chans : Smap ChanSt := []
  /-- Tick at which a two-step turn-off of the bridge began (R340). -/
  soft : Smap (Option Nat) := []
  /-- Filtered output of the hardware overcurrent comparator of each bridge, as a mask (R338). -/
  hoc : Nat := 0
  tests : List SelfTest := []
  /-- ST_FAIL instances whose comparator has passed a self-test since the fault was raised (R354). -/
  stOk : Smap Bool := []
  deriving DecidableEq, Repr

/-! DC link and choppers. -/

/-- One bus group (R359, R360, R368). Voltages are codes of R180. -/
structure BusGrp where
  hi : Option Nat := none
  lo : Option Nat := none
  ov1 : Bool := false
  ov2 : Bool := false
  ov3 : Bool := false
  uv1 : Bool := false
  uv2 : Bool := false
  /-- Since when V_lo lies below UV1 and UV2. -/
  uv1At : Option Nat := none
  uv2At : Option Nat := none
  ov4Latch : Bool := false
  /-- Since when every OV4 comparator of the group is inactive, while latched (R368). -/
  ov4Clear : Nat := 0
  deriving DecidableEq, Repr

/-- One brake chopper (R364 to R366). -/
structure Chop where
  on : Bool := false
  /-- Tick of the last turn-on, from which its desaturation blanking runs (R365). -/
  onAt : Nat := 0
  /-- Start of the check that runs, and the highest valid sample since. -/
  check : Option Nat := none
  peak : Nat := 0
  /-- Start of its two-step turn-off after a desaturation (R365). -/
  desat : Option Nat := none
  deriving DecidableEq, Repr

/-- The bus block. -/
structure BusSt where
  grps : Smap BusGrp := []
  chops : Smap Chop := []
  /-- Filtered OV4 comparator outputs of the bridges, as a mask. -/
  ov4 : Nat := 0
  /-- Latest VBUS sample of each bridge that the bus block takes (R359). -/
  vbus : Smap (Option Nat) := []
  deriving DecidableEq, Repr

/-! Converters. -/

/-- One fast converter: samples still marked by each event of R186, the average's history, and ORNG of
the previous sample (R203). -/
structure Conv where
  mux : Nat := 0
  gain : Nat := 0
  filt : Nat := 0
  reset : Nat := 0
  hist : List Nat := []
  orng : Bool := false
  last : Option Nat := none
  deriving DecidableEq, Repr

/-- An eclipse observation that the position block requests of a checker (R193): drive, phase, and the
instants of the zero-vector state's start and end, in ticks. -/
structure EclReq where
  drive : Nat
  phase : Nat
  low : Bool
  start : Nat
  stop : Nat
  deriving DecidableEq, Repr

/-- The checker of one bridge (R190 to R194, R197). -/
structure Checker where
  ch : Nat := 0
  /-- Samples left in the slot; next entry of the list. -/
  left : Nat := 0
  idx : Nat := 0
  slotAt : Nat := 0
  /-- Valid samples of the slot: sum and number. -/
  sum : Int := 0
  n : Nat := 0
  /-- The slot converts an eclipse observation. -/
  ecl : Option EclReq := none
  reqs : List EclReq := []
  /-- Last gate change of the bridge at the last sample: an edge has come where it differs. -/
  zone : Nat := 0
  /-- Samples of the slot after its first, as it started (R191, R192). -/
  len : Nat := 0
  /-- Latest valid VBUS code; tick on which the last valid VBUS sample reached the bus block (R194). -/
  vbus : Option Nat := none
  vbusAt : Nat := 0
  /-- Valid VBUS samples since the raw samples of the HK conversion began (R197), and the run of rounds. -/
  hkSum : Nat := 0
  hkN : Nat := 0
  plausRun : Nat := 0
  /-- The run before the present round, none before its first comparison; whether the round has failed. -/
  plausWas : Option Nat := none
  plausBad : Bool := false
  deriving DecidableEq, Repr

/-- A checker result on its way to the bus and the position block, 60 ns after its sampling instant (R178): a VBUS
sample, or an observation of an eclipse slot with its drive, time, zero vector, value and bus voltage. -/
inductive FcResult where
  | vbus (b code : Nat) (orng : Bool)
  | slot (d t : Nat) (low : Bool) (val : Option (Int × Nat)) (vbus : Nat)
  deriving DecidableEq, Repr

/-- The housekeeping converter (R198 to R202). -/
structure HkSt where
  /-- Conversion in progress: channel, start, and the ADC_URGENT that asked for it. -/
  conv : Option (Nat × Nat × Option Cmd) := none
  round : Bool := false
  pos : Nat := 0
  due : Nat := 0
  /-- A round is due and starts when the present one ends (R200). -/
  late : Bool := false
  /-- Results still marked `filt` (R201). -/
  marks : Nat := 0
  /-- Results of the round: channel, value, valid, stamp. -/
  results : List (Nat × Word × Bool × Nat) := []
  deriving DecidableEq, Repr

/-! Temperatures. -/

/-- The Foster network of one half-bridge, in K (R378). -/
structure Foster where
  hi1 : Word := 0#32
  lo1 : Word := 0#32
  t2 : Word := 0#32
  t3 : Word := 0#32
  t4 : Word := 0#32
  /-- Junction temperatures of the last update, °C. -/
  tjHi : Word := 0#32
  tjLo : Word := 0#32
  at_ : Nat := 0
  deriving DecidableEq, Repr

/-- An entry into `shutdown` (R387): slot, peak temperature and whether the record is written. -/
structure Shdn where
  slot : Nat
  peak : Int
  deriving DecidableEq, Repr

/-- The thermal block. -/
structure ThermSt where
  foster : Smap Foster := []
  /-- T_NTC of each bridge in °C, none before a valid reading. -/
  ntc : Smap (Option Word) := []
  /-- T_die and T_BR of the last round in 1/128 °C, by unit of R383. -/
  temp : Smap (Option Int) := []
  /-- Readings of the last rounds, newest first: diodes 0 to 11, junctions 12 + 2·g and 13 + 2·g; each with its time,
  and whether it has a rate in its own round (R380). -/
  ror : Smap (List (Option (Nat × Word × Bool))) := []
  /-- Hottest cell of each unit at the last round (path and cell), and its highest rate (R387). -/
  hot : Smap (Nat × Nat) := []
  rate : Smap (Option Word) := []
  /-- Factor f_b of R385; none before the first round end. -/
  fb : Smap (Option Word) := []
  /-- Members' factors by drive (R459). -/
  member : Smap (Option Word) := []
  shdn : Smap (Option Shdn) := []
  /-- Tick of the last THERM.HOST_T write of each half-bridge (R131), and whether one has come in the present `host`
  mode (R129). -/
  hostAt : Smap (Option Nat) := []
  hostIn : Smap Bool := []
  deriving DecidableEq, Repr

/-! The Dexlia link. -/

/-- A frame that waits for an egress port (R442, R444): header fields, payload; the payload offset at which
the departure stamp of its /S/ is put; for a forwarded SYNC the arrival stamp of its /S/, whose
residence joins CORR (R453). -/
structure OutFrame where
  type : Nat
  dst : Nat
  src : Nat
  ackReq : Bool := false
  seq : Nat
  payload : List Byte
  stampAt : Option Nat := none
  arrived : Option Nat := none
  deriving DecidableEq, Repr

/-- A class 3 frame that awaits its ACK (R448): frame, tick of its last sending, repeats made. -/
structure Unacked where
  frame : OutFrame
  at_ : Nat
  tries : Nat
  deriving DecidableEq, Repr

/-- One port (R441, R444, R452). LINK.PORT_STAT holds its state, tree role and polarity. -/
structure PortSt where
  queue : List OutFrame := []
  /-- End of the frame being sent. -/
  busy : Nat := 0
  /-- Tick of the last DLY_RESP or of `up`; of the last DLY_REQ; T1 of the request that is open. -/
  resp : Nat := 0
  req : Nat := 0
  t1 : Option Nat := none
  /-- A delay exchange has been made since the training began (R441). -/
  exchanged : Bool := false
  /-- LINK.UID of the neighbour, from its DLY_REQ (R449). -/
  peer : Nat := 0
  unacked : List Unacked := []
  deriving DecidableEq, Repr

/-- One ENUM_REPLY (R449): UID, compensated epoch in ticks, UP port, HOPS, BUSY, peer UIDs. -/
structure EnumReply where
  uid : Nat
  epoch : Nat
  up : Nat
  hops : Nat
  busy : Bool
  peers : List Nat
  /-- Tick of its arrival. -/
  at_ : Nat
  deriving DecidableEq, Repr

/-- An enumeration on the root (R449): the command, its start, the replies; phase 5 waits for the first SYNC. -/
structure EnumSt where
  cmd : Cmd
  start : Nat
  replies : List EnumReply := []
  joined : Bool := false
  deriving DecidableEq, Repr

/-- The Dexlia link. -/
structure LinkSt where
  ports : Smap PortSt := []
  /-- Frames sent since the last idle tick: port and the bytes between /S/ and /T/. -/
  tx : List (Nat × List Byte) := []
  /-- Next SEQ by type (R442), and the SEQ last accepted by type · 256 + SRC (R447, R448). -/
  seqs : Smap Nat := []
  seen : Smap (List Nat) := []
  enum : Option EnumSt := none
  /-- The ENUM taken: root's UID, SEQ, and the upstream port it came on (R449). -/
  enumSeen : Option (Nat × Nat × Nat) := none
  /-- UID and ID pairs of the present tree, and SPARE_PEER by ID (R449). -/
  ids : List (Nat × Nat) := []
  spare : Smap Nat := []
  /-- The broken ring link after a heal (R450). -/
  broken : Option (Nat × Nat) := none
  /-- Acquisition runs since this tick; tick of the last SYNC taken, or sent by the root (R453). -/
  acq : Option Nat := none
  lastSync : Nat := 0
  /-- Fractions by which the clock phase has been slewed (R453). -/
  phase : Int := 0
  /-- Latest REPORT by 4 · SRC + home drive: arrival and payload; the action it reports (R460). -/
  reports : Smap (Option (Nat × List Byte)) := []
  acts : Smap Nat := []
  /-- Samples in a row with a late or missing report, by home drive (R460). -/
  lateRun : Smap Nat := []
  /-- Reload points in a row without a DUTY, by member drive, and whether one came since the last (R461). -/
  dutyRun : Smap Nat := []
  dutyIn : Smap Bool := []
  /-- TAG and SRC of the commands taken into ring 32 whose response has not been sent (R455). -/
  cmdSrc : List (Nat × Nat) := []
  deriving DecidableEq, Repr

/-! Check-value units and memory integrity. -/

/-- One check-value unit (R425 to R430). Its state, CRC and context stand in the CHK parameters. -/
structure ChkUnit where
  /-- The CHK_SCAN that runs; none for a scan started by CTL.GO. -/
  cmd : Option Cmd := none
  compare : Bool := false
  /-- Bytes scanned since the start. -/
  scanned : Nat := 0
  /-- CTL.HOLD has been written, and no GO since: the next chunk does not serve the unit (R428). -/
  hold : Bool := false
  /-- The tick on which the scan's chunk began, and the bytes that it may still read; none outside a chunk. -/
  chunk : Option Nat := none
  chunkBytes : Nat := 0
  deriving DecidableEq, Repr

/-- The check-value units, the scrubbers and the periodic checks. -/
structure ChkSt where
  units : Smap ChkUnit := []
  /-- Unit that the last scan chunk served (R429). -/
  last : Nat := 3
  /-- Start of the interval of R436; whether a pass is due, and the step of the pass that runs: 1 the
  image, 2 the two copies; 0 none. -/
  perAt : Nat := 0
  perDue : Bool := false
  perStep : Nat := 0
  /-- CRC-32C that Vioskik computed over the active image at boot (R436). -/
  imageCrc : Nat := 0
  /-- Start of the interval of CHK.MRAM_SCRUB_INT, and whether the scrub task is ready (R432). -/
  scrubAt : Nat := 0
  scrubDue : Bool := false
  /-- Next word of SRAM and of engine memory that the scrubber reads (R432), and the tick of the last read. -/
  sramNext : Nat := 0
  engNext : Nat := 0
  sramAt : Nat := 0
  engAt : Nat := 0
  /-- Copy A or B fails its CRC with the bytes of its record unchanged, or changed (R434, R435). -/
  badCrcA : Bool := false
  badCrcB : Bool := false
  deriving DecidableEq, Repr

/-! Security. -/

/-- The open firmware update (R474 to R477): interface, target, TOTAL, bytes received, tick of the last
chunk; the FW_FINISH that runs with its FLAGS. -/
structure FwUpdate where
  iface : Nat
  target : Nat
  total : Nat
  got : Nat := 0
  last : Nat
  finish : Option (Cmd × Nat) := none
  deriving DecidableEq, Repr

/-- The outstanding debug challenge: nonce, level, and the tick of its response (R482, R483). -/
structure Challenge where
  bytes : List Byte
  level : Nat
  at_ : Nat
  deriving DecidableEq, Repr

/-- Security state. -/
structure SecSt where
  fw : Option FwUpdate := none
  /-- The TASK_LOAD that runs: command, OFFSET, FLAGS (R479). -/
  load : Option (Cmd × Nat × Nat) := none
  chal : Option Challenge := none
  /-- Failed DBG_RESPONSEs since boot (R482). -/
  fails : Nat := 0
  /-- Draws taken from the TRNG (R484), and the tick of its last failure or retest. -/
  draws : Nat := 0
  retestAt : Nat := 0
  /-- SVN of each loaded task (R478), and the entry point at which it was started (R479). -/
  taskSvn : Smap Nat := []
  taskEntry : Smap Nat := []
  deriving DecidableEq, Repr

/-! Performance counters. -/

/-- Buffers and record counts of the dump streams (0 core 0, 1 core 1, 2 engine) and of the samplers
(3 core 0, 4 core 1) (R501, R503, R505). -/
structure PerfSt where
  buf : Smap (List (List Byte)) := []
  seq : Smap Nat := []
  /-- Records were dropped before the next one. -/
  drop : Smap Bool := []
  /-- Counters of a core that overflowed since its previous dump (R503). -/
  ovf : Smap Nat := []
  /-- Counters that wrapped on this tick, told at its end (R496, R497); tick of the last write of each counter (R492). -/
  wrapped : List Nat := []
  wrote : Smap (Option Nat) := []
  /-- The satellite core's counter-overflow interrupt is asserted (R496). -/
  satInt : Bool := false
  /-- Epoch of the last dump tick, and whether its dump is to be taken at the end of this tick (R492, R502). -/
  dumped : Option Nat := none
  dumpDue : Bool := false
  deriving DecidableEq, Repr

/-- The state of the block. -/
structure State where
  /-- Commands that wait, first in, first out. -/
  pending : List Instr
  /-- TIME.EPOCH in 5 ns ticks (R35). -/
  epoch : Nat
  /-- The parameter registers (R8): bank A and every unbanked parameter, and coefficient bank B. -/
  r : Regs
  /-- Repetitive-controller tables: key (2·d + axis)·256 + bin (R307). -/
  rcTab : Smap Nat
  /-- The 1 MiB ring pool (R79), and the byte address space of R424. -/
  pool : Memory
  mem : Memory
  /-- Number of free values read so far: the argument of the next one (model's own). -/
  free : Nat
  host : HostSt
  txn : TxnSt
  pwr : PowerSt
  flt : FaultSt
  pwm : PwmSt
  drives : Smap DriveSt
  pickers : Smap Picker
  /-- First lane-cycle on which each lane of the Orbit engine is free (R289, R293). -/
  lanes : Smap Nat
  gate : GateSt
  bus : BusSt
  convs : Smap Conv
  /-- Results on their way, oldest first, with the ticks on which they arrive (R178). -/
  fcQ : List (Nat × FcResult)
  checkers : Smap Checker
  hk : HkSt
  therm : ThermSt
  link : LinkSt
  chk : ChkSt
  sec : SecSt
  perf : PerfSt
  /-- Filtered position inputs after inversion (R229), and the bridges whose inputs have shown a valid Hall state since
  boot (R237). -/
  posIn : Smap Bool
  posSeen : Nat
  /-- Key-store words by slot · 8 + word, none where not written (R466, R467). -/
  keys : Smap (Option Nat)
  deriving DecidableEq, Repr

/-- The state right after reset: HALF, entered at the end of the first boot with no stored configuration
record, BOOT_DONE already taken by the host (assumption log 1). -/
def State.reset : State where
  pending := []
  epoch := 0
  r := {}
  rcTab := []
  pool := []
  mem := []
  free := 0
  host := {}
  txn := {}
  pwr := {}
  flt := {}
  pwm := {}
  drives := []
  pickers := []
  lanes := []
  gate := {}
  bus := {}
  convs := []
  fcQ := []
  checkers := []
  hk := {}
  therm := {}
  link := {}
  -- CRC-32C over the 192 zero bytes that the image memory of the model holds
  chk := { imageCrc := 0x74357830 }
  sec := {}
  perf := {}
  posIn := []
  posSeen := 0
  keys := []

end Sys2Proof.Machine
end

