-- ==== Sys2Proof/Machine/Ops.lean ====
section
/-! DEFINITION. The named operations over the state: registers and their counters, drives and bridges,
rings, messages, events and the views that the state shows (HOST.GSTAT, HEALTH, nIRQ). -/

namespace Sys2Proof.Machine

/-- The outcome of a command. -/
abbrev Out := Host.Outcome State Fault Refusal

/-! Registers. -/

/-- Key of a parameter's instance in the register file. -/
def regKey (id i : Nat) : Nat := id * 256 + i

/-- What an unlisted register reads as: its Reset column. -/
def regReset (k : Nat) : Nat := paramReset (k / 256) (k % 256)

/-- The parameters held in coefficient banks A and B (R288, R321). -/
def bankedIds : List Nat :=
  [P.focKpD, P.focKiD, P.focKpQ, P.focKiQ, P.focViLim, P.focKpW, P.focKiW, P.focTiLim, P.focFwKi,
   P.engRcKl, P.engRcForget, P.engRcLpf, P.engRcLead, P.engFfJ, P.engFfKv]
def isBanked (id : Nat) : Bool := bankedIds.contains id

/-- ACTIVE of ENG.BANK[d] (R302): bank B governs. -/
def Regs.bankB (r : Regs) (d : Nat) : Bool := bit (Smap.get regReset r.a (regKey P.engBank d)) 0

/-- The governing value of a parameter: of a banked one, the active bank's (R303). -/
def Regs.get (r : Regs) (id i : Nat) : Nat :=
  if isBanked id && r.bankB i then Smap.get regReset r.b (regKey id i)
  else Smap.get regReset r.a (regKey id i)

/-- The inactive bank's value of a banked parameter (R303). -/
def Regs.getInactive (r : Regs) (id i : Nat) : Nat :=
  if r.bankB i then Smap.get regReset r.a (regKey id i) else Smap.get regReset r.b (regKey id i)

/-- A write of the governing value. -/
def Regs.set (r : Regs) (id i v : Nat) : Regs :=
  if isBanked id && r.bankB i then { r with b := Smap.set regReset r.b (regKey id i) v }
  else { r with a := Smap.set regReset r.a (regKey id i) v }

/-- A write of a banked parameter writes the inactive bank (R303). -/
def Regs.setInactive (r : Regs) (id i v : Nat) : Regs :=
  if r.bankB i then { r with a := Smap.set regReset r.a (regKey id i) v }
  else { r with b := Smap.set regReset r.b (regKey id i) v }

/-- The banks of drive d change places; with COPY the new inactive bank takes the new active bank's values (R304). -/
def Regs.swap (r : Regs) (d : Nat) (copy : Bool) : Regs :=
  let r := r.set P.engBank d (1 - r.get P.engBank d % 2)
  if copy then bankedIds.foldl (fun r id => r.setInactive id d (r.get id d)) r else r

/-- A parameter as a float32 word. -/
def Regs.f (r : Regs) (id i : Nat) : F32 := BitVec.ofNat 32 (r.get id i)

/-- The governing value of a parameter. -/
def State.reg (s : State) (id i : Nat) : Nat := s.r.get id i
def State.f (s : State) (id i : Nat) : F32 := s.r.f id i
/-- A register with a new value. -/
def State.setReg (s : State) (id i v : Nat) : State := { s with r := s.r.set id i v }
def State.setF (s : State) (id i : Nat) (v : F32) : State := s.setReg id i v.toNat
/-- One count on a saturating counter. -/
def State.bump (s : State) (id i top : Nat) : State := s.setReg id i (satInc top (s.reg id i))
/-- `k` counts on a saturating counter. -/
def State.bumpBy (s : State) (id i top k : Nat) : State := s.setReg id i (satAdd top (s.reg id i) k)
/-- One bit of a register. -/
def State.setBit (s : State) (id i n : Nat) (b : Bool) : State := s.setReg id i (putBit (s.reg id i) n b)

/-- Bits of HOST.IRQ_PEND and HOST.GSTAT are set on this tick (R98). -/
def State.noteSet (s : State) (pend gstat : Nat) : State :=
  let h := s.host
  let same := h.setAt == s.epoch
  { s with host := { h with setAt := s.epoch, setPend := (if same then h.setPend else 0) ||| pend,
                            setGstat := (if same then h.setGstat else 0) ||| gstat } }
/-- The bits of a write-1-to-clear parameter that were set on this tick and that a clear leaves (R98). -/
def State.setNow (s : State) (id : Nat) : Nat :=
  if s.host.setAt ≠ s.epoch then 0
  else if id = P.hostIrqPend then s.host.setPend
  else if id = P.hostGstat then s.host.setGstat
  else 0
/-- A sticky bit of HOST.GSTAT is set. -/
def State.flagGstat (s : State) (n : Nat) : State := (s.setBit P.hostGstat 0 n true).noteSet 0 (2 ^ n)

/-- MODE[0] of a movable function: `host` (R119). -/
def State.hostMode (s : State) (id i : Nat) : Bool := bit (s.reg id i) 0

/-- A fold of a state change over a list. -/
def State.each {α : Type} (s : State) (l : List α) (f : State → α → State) : State := l.foldl f s

/-- The next free value (model's own counter, assumption log 7). -/
def State.takeFree (s : State) : Word × State := (Config.freeWord s.free, { s with free := s.free + 1 })

/-! Structures held per instance. -/

def State.drv (s : State) (d : Nat) : DriveSt := Smap.get (fun _ => {}) s.drives d
def State.setDrv (s : State) (d : Nat) (x : DriveSt) : State :=
  { s with drives := Smap.set (fun _ => {}) s.drives d x }
def State.modDrv (s : State) (d : Nat) (f : DriveSt → DriveSt) : State := s.setDrv d (f (s.drv d))

def State.gen (s : State) (g : Nat) : Gen := Smap.get (fun _ => {}) s.pwm.gens g
def State.setGen (s : State) (g : Nat) (x : Gen) : State :=
  { s with pwm := { s.pwm with gens := Smap.set (fun _ => {}) s.pwm.gens g x } }
def State.modGen (s : State) (g : Nat) (f : Gen → Gen) : State := s.setGen g (f (s.gen g))

def State.picker (s : State) (b : Nat) : Picker := Smap.get (fun _ => {}) s.pickers b
def State.setPicker (s : State) (b : Nat) (x : Picker) : State :=
  { s with pickers := Smap.set (fun _ => {}) s.pickers b x }

def State.ring (s : State) (r : Nat) : RingSt := Smap.get (fun _ => {}) s.host.rings r
def State.setRing (s : State) (r : Nat) (x : RingSt) : State :=
  { s with host := { s.host with rings := Smap.set (fun _ => {}) s.host.rings r x } }

def State.txnOf (s : State) (i : Nat) : Txn := Smap.get (fun _ => {}) s.txn.txns i
def State.setTxn (s : State) (i : Nat) (x : Txn) : State :=
  { s with txn := { s.txn with txns := Smap.set (fun _ => {}) s.txn.txns i x } }

def State.snap (s : State) (i : Nat) : Snapshot := Smap.get (fun _ => {}) s.host.snaps i
def State.setSnap (s : State) (i : Nat) (x : Snapshot) : State :=
  { s with host := { s.host with snaps := Smap.set (fun _ => {}) s.host.snaps i x } }

/-- The word that the last direct read of interface i returned. -/
def State.setRdata (s : State) (i v : Nat) : State :=
  { s with host := { s.host with rdata := Smap.set (fun _ => 0) s.host.rdata i v } }

def State.trip (s : State) (t : Nat) : TripSt := Smap.get (fun _ => {}) s.pwm.trips t
def State.setTrip (s : State) (t : Nat) (x : TripSt) : State :=
  { s with pwm := { s.pwm with trips := Smap.set (fun _ => {}) s.pwm.trips t x } }

/-- TRIPt is sampled active: PWM.TRIP_STAT.LEVEL (R162). -/
def State.tripLevel (s : State) (t : Nat) : Bool := bit (s.reg P.pwmTripStat 0) (8 + t)

def State.die (s : State) (j : Nat) : DieSt := Smap.get (fun _ => {}) s.gate.dies j
def State.setDie (s : State) (j : Nat) (x : DieSt) : State :=
  { s with gate := { s.gate with dies := Smap.set (fun _ => {}) s.gate.dies j x } }
def State.chan (s : State) (g : Nat) : ChanSt := Smap.get (fun _ => {}) s.gate.chans g
def State.setChan (s : State) (g : Nat) (x : ChanSt) : State :=
  { s with gate := { s.gate with chans := Smap.set (fun _ => {}) s.gate.chans g x } }
def State.softOf (s : State) (b : Nat) : Option Nat := Smap.get (fun _ => none) s.gate.soft b
def State.setSoft (s : State) (b : Nat) (x : Option Nat) : State :=
  { s with gate := { s.gate with soft := Smap.set (fun _ => none) s.gate.soft b x } }

def State.grp (s : State) (n : Nat) : BusGrp := Smap.get (fun _ => {}) s.bus.grps n
def State.setGrp (s : State) (n : Nat) (x : BusGrp) : State :=
  { s with bus := { s.bus with grps := Smap.set (fun _ => {}) s.bus.grps n x } }
def State.chop (s : State) (c : Nat) : Chop := Smap.get (fun _ => {}) s.bus.chops c
def State.setChop (s : State) (c : Nat) (x : Chop) : State :=
  { s with bus := { s.bus with chops := Smap.set (fun _ => {}) s.bus.chops c x } }

def State.conv (s : State) (k : Nat) : Conv := Smap.get (fun _ => {}) s.convs k
def State.setConv (s : State) (k : Nat) (x : Conv) : State :=
  { s with convs := Smap.set (fun _ => {}) s.convs k x }
def State.checker (s : State) (b : Nat) : Checker := Smap.get (fun _ => {}) s.checkers b
def State.setChecker (s : State) (b : Nat) (x : Checker) : State :=
  { s with checkers := Smap.set (fun _ => {}) s.checkers b x }

def State.foster (s : State) (g : Nat) : Foster := Smap.get (fun _ => {}) s.therm.foster g
def State.setFoster (s : State) (g : Nat) (x : Foster) : State :=
  { s with therm := { s.therm with foster := Smap.set (fun _ => {}) s.therm.foster g x } }

/-! Drives and bridges (R18 to R21). -/

/-- ROLE of SYS.DRV_MAP[d]: 0 `off`, 1 `local`, 2 `home`, 3 `member`. -/
def roleOf (m : Nat) : Nat := bits m 4 2
/-- BRIDGES of SYS.DRV_MAP[d]. -/
def bridgesOf (m : Nat) : Nat := bits m 0 4

def State.role (s : State) (d : Nat) : Nat := roleOf (s.reg P.sysDrvMap d)
/-- The bridges that a drive owns, ascending; none with ROLE `off`. -/
def State.bridges (s : State) (d : Nat) : List Nat :=
  if s.role d = 0 then [] else setBits 4 (bridgesOf (s.reg P.sysDrvMap d))
/-- The drive computes a program here: ROLE `local` or `home` (R290). -/
def State.computes (s : State) (d : Nat) : Bool := s.role d == 1 || s.role d == 2
/-- The lowest bridge of a drive; 0 for a drive that owns none. -/
def State.lowBridge (s : State) (d : Nat) : Nat := (s.bridges d).headD 0
/-- The drive that owns a bridge. -/
def State.ownerOf (s : State) (b : Nat) : Option Nat := (List.range 4).find? (fun d => (s.bridges d).contains b)
/-- The generators of a bridge and of a drive (R3). -/
def gensOfBridge (b : Nat) : List Nat := [3 * b, 3 * b + 1, 3 * b + 2]
def State.gensOf (s : State) (d : Nat) : List Nat := ((s.bridges d).map gensOfBridge).flatten
/-- The drives with a property, as a mask. -/
def maskOf (p : Nat → Bool) : Nat := (List.range 4).foldl (fun m d => if p d then m + 2 ^ d else m) 0
/-- The drives of a list, as a mask. -/
def drivesMask (l : List Nat) : Nat := maskOf l.contains
/-- The drives that own one of these bridges. -/
def State.ownersOf (s : State) (bs : List Nat) : List Nat :=
  (List.range 4).filter (fun d => (s.bridges d).any bs.contains)
/-- The drives of a bus group: those that own a bridge in it (R358). -/
def State.groupDrives (s : State) (n : Nat) : List Nat :=
  (List.range 4).filter (fun d => (s.bridges d).any (fun b => s.reg P.busGroup b == n))
/-- The bridges of driver die j (0 DA, 1 DB). -/
def dieBridges (j : Nat) : List Nat := if j = 0 then [0, 1] else [2, 3]

/-- The drive is stopped (R257). -/
def State.stopped (s : State) (d : Nat) : Bool := (s.drv d).phase == .stopped
/-- The device serves host commands: HALF or FULL, no halt of the supervisor (R171), no entry flush under way. -/
def State.serving (s : State) : Bool :=
  (s.pwr.mode == .half || s.pwr.mode == .full) && s.pwm.halted.isNone && s.pwr.entering.isNone
/-- The ROM runs in recovery: SEC.STAT.RECOVERY (R472). -/
def State.recovery (s : State) : Bool := bit (s.reg P.secStat 0) 2
/-- HALF or FULL. -/
def State.awake (s : State) : Bool := s.pwr.mode == .half || s.pwr.mode == .full

/-! Faults seen by other blocks. -/

def State.frec (s : State) (sel : Nat) : FRec := Smap.get (fun _ => {}) s.flt.recs sel
def State.setRec (s : State) (sel : Nat) (x : FRec) : State :=
  { s with flt := { s.flt with recs := Smap.set (fun _ => {}) s.flt.recs sel x } }

/-- Class of a selector's kind. -/
def selClass (sel : Nat) : FClass := match sourceRow (sel / 256) with | some r => r.cls | none => .d

/-- An uncleared class A, B or C fault (GSTAT.FAULT, R103). -/
def State.anyFault (s : State) : Bool := s.flt.recs.any (fun (k, x) => x.cause && (selClass k != .d))

/-- The governing drive action on d in the order `asc`, `soft_off`, `derate` (R287, R404): codes of
FLT.REACT.ACTION, 0 none. -/
def State.action (s : State) (d : Nat) : Nat :=
  let has (a : Nat) := s.flt.recs.any (fun (_, x) => x.cause && x.act == a && bit x.drives d)
    || s.link.acts.any (fun (k, v) => k % 4 == d && v == a)
  if has 2 then 2 else if has 1 then 1 else if has 3 then 3 else 0
/-- `derate` is kept alongside another action (R287). -/
def State.derated (s : State) (d : Nat) : Bool :=
  s.flt.recs.any (fun (_, x) => x.cause && x.act == 3 && bit x.drives d)
    || s.link.acts.any (fun (k, v) => k % 4 == d && v == 3)

/-- The HEALTH pin (R405). -/
def State.health (s : State) : Bool :=
  s.awake && !s.recovery &&
  !(s.flt.recs.any (fun (k, x) => x.cause &&
      (bit (s.reg P.fltHealthMask 0 ||| 1) (selClass k).code || bit (s.reg P.fltReact (k / 256)) 5)))

/-- GSTAT.BOOTED: Vioskik, or the ROM in recovery, runs and boot has ended (R29, R471, R472). -/
def State.booted (s : State) : Bool := s.awake && !s.pwr.bootStopped

/-- Any interface holds an open transaction (R104). -/
def State.txnOpen (s : State) : Bool := s.txn.txns.any (fun (_, t) => t.isOpen)

/-- HOST.GSTAT (R103): the sticky bits as stored, the others as the state shows them. -/
def State.gstat (s : State) : Nat :=
  (s.reg P.hostGstat 0 &&& 0x1BE0) + s.booted.toNat
    + (if s.pwr.mode == .full then 6 else if s.pwr.mode == .half then 4 else 0)
    + s.anyFault.toNat * 8 + s.health.toNat * 16 + s.txnOpen.toNat * 1024

/-- nIRQ would be asserted but for the hold-off (R98, R99). -/
def State.irqCond (s : State) : Bool :=
  s.booted && ((s.reg P.hostIrqPend 0 &&& s.reg P.hostIrqEn 0) != 0 || (s.gstat &&& s.reg P.hostIrqGen 0) != 0)

/-- The pin nIRQ follows its condition; after a release it is held off for HOST.IRQ_HOLDOFF (R98). -/
def State.settle (s : State) : State :=
  if s.irqCond then
    (if s.host.nirq then s
     else match s.host.nirqOff with
      | some t => if expired t (usTicks (s.reg P.hostIrqHoldoff 0)) s.epoch || s.reg P.hostIrqHoldoff 0 == 0 then
          { s with host := { s.host with nirq := true } } else s
      | none => { s with host := { s.host with nirq := true } })
  else if s.host.nirq then { s with host := { s.host with nirq := false, nirqOff := some s.epoch } }
  else s

/-- A command that has completed: the pins follow the new state. -/
def fin (s : State) : Out := .next s.settle

/-! Rings (R79 to R85). -/

/-- Fields of HOST.RING_CFG. -/
def cfgBase (c : Nat) : Nat := bits c 0 20
def cfgSize (c : Nat) : Nat := bits c 20 4
def cfgEsize (c : Nat) : Nat := bits c 24 2
def cfgDir (c : Nat) : Bool := bit c 26
def cfgErr (c : Nat) : Bool := bit c 30
def cfgEn (c : Nat) : Bool := bit c 31

def State.ringCfg (s : State) (r : Nat) : Nat := s.reg P.hostRingCfg r
/-- The ring is enabled. -/
def State.ringOn (s : State) (r : Nat) : Bool := cfgEn (s.ringCfg r)
/-- Entries of the ring, and bytes of an entry. -/
def State.ringEntries (s : State) (r : Nat) : Nat := 2 ^ cfgSize (s.ringCfg r)
def State.ringEsize (s : State) (r : Nat) : Nat := 16 * 2 ^ cfgEsize (s.ringCfg r)
def State.ringHead (s : State) (r : Nat) : Nat := bits (s.reg P.hostRingIdx r) 0 16
def State.ringTail (s : State) (r : Nat) : Nat := bits (s.reg P.hostRingIdx r) 16 16
/-- (HEAD − TAIL) mod 2¹⁶: entries held. -/
def State.ringFilled (s : State) (r : Nat) : Nat := (s.ringHead r + 2 ^ 16 - s.ringTail r) % 2 ^ 16
def State.ringFree (s : State) (r : Nat) : Nat := s.ringEntries r - s.ringFilled r
/-- The ring is enabled `to_host`, so the device produces it. -/
def State.ringOut (s : State) (r : Nat) : Bool := s.ringOn r && cfgDir (s.ringCfg r)

/-- Both indices and the stamp of the movement (R80). -/
def State.setIdx (s : State) (r head tail : Nat) : State :=
  (s.setReg P.hostRingIdx r (head % 2 ^ 16 + (tail % 2 ^ 16) * 2 ^ 16)).setReg P.hostRingStamp r s.epoch

/-- The device moved its own index of ring r (R98). -/
def State.irqPend (s : State) (r : Nat) : State :=
  (s.setReg P.hostIrqPend 0 (s.reg P.hostIrqPend 0 ||| 2 ^ r)).noteSet (2 ^ r) 0

/-- The device moves HEAD of a ring it produces. -/
def State.produce (s : State) (r n : Nat) : State := (s.setIdx r (s.ringHead r + n) (s.ringTail r)).irqPend r
/-- The device moves TAIL of a ring it consumes. -/
def State.consume (s : State) (r n : Nat) : State := (s.setIdx r (s.ringHead r) (s.ringTail r + n)).irqPend r

/-- Address of entry i of a ring (R79). -/
def State.entryAddr (s : State) (r i : Nat) : Nat :=
  cfgBase (s.ringCfg r) + (i % s.ringEntries r) * s.ringEsize r

/-- Bytes written into consecutive entries from entry i, wrapping from the last entry to entry 0 (R86). -/
def State.writeEntries (s : State) (r i : Nat) : List (List Byte) → State
  | [] => s
  | e :: es =>
    State.writeEntries { s with pool := Memory.writeBytes s.pool (s.entryAddr r i) e } r (i + 1) es

/-- The bytes of `n` entries from entry i. -/
def State.readEntries (s : State) (r i : Nat) : Nat → List Byte
  | 0 => []
  | n + 1 => Memory.readBytes s.pool (s.entryAddr r i) (s.ringEsize r) ++ State.readEntries s r (i + 1) n

/-- A byte run cut into entries of `e` bytes, the last padded with 0 (R86); `fuel` bounds the entries. -/
def cutEntries (e : Nat) : Nat → List Byte → List (List Byte)
  | 0, _ => []
  | _ + 1, [] => []
  | fuel + 1, bs => ((bs.take e) ++ zeros (e - (bs.take e).length)) :: cutEntries e fuel (bs.drop e)

/-- Entries that a message with `n` bytes of payload occupies (R86). -/
def State.entriesFor (s : State) (r n : Nat) : Nat := (20 + n + s.ringEsize r - 1) / s.ringEsize r

/-! Messages (R86). -/

/-- A message: 16-byte header, payload and CRC-32C. -/
def messageBytes (opcode tag inst flags deadline seq : Nat) (pl : List Byte) : List Byte :=
  let m := leBytes 2 opcode ++ leBytes 2 tag ++ leBytes 1 inst ++ leBytes 1 flags ++ leBytes 2 pl.length
    ++ leBytes 4 deadline ++ leBytes 4 seq ++ pl
  m ++ leBytes 4 (crc32C m)

/-- A raw entry record appended to a ring that the device produces, padded to the entry size. -/
def State.putRecord (s : State) (r : Nat) (bs : List Byte) : State :=
  (s.writeEntries r (s.ringHead r) (cutEntries (s.ringEsize r) 1024 bs)).produce r
    ((bs.length + s.ringEsize r - 1) / s.ringEsize r)

/-- The CAN FD controller transmits (R100, R103). -/
def State.canSends (s : State) : Bool := s.reg P.hostCanEn 0 == 1

/-- The smallest FD data length that holds `n` bytes (R102). -/
def fdLength (n : Nat) : Nat := if n ≤ 8 then n else ([12, 16, 20, 24, 32, 48].find? (n ≤ ·)).getD 64

/-- The segments of a byte run: up to `size` bytes each, behind FIRST, LAST and SEGNO (R102, R443); the first argument
bounds them. -/
def segmentRun : Nat → Nat → Nat → List Byte → List (List Byte)
  | 0, _, _, _ => []
  | fuel + 1, n, size, bs =>
    let last := decide (bs.length ≤ size)
    let seg := (n == 0).toNat * 128 + last.toNat * 64 + n % 64
    (leBytes 1 seg ++ bs.take size) :: (if last then [] else segmentRun fuel (n + 1) size (bs.drop size))

/-- The data fields that carry a message on CAN FD, each padded to its length with 0x00 (R102). -/
def canSegments (bs : List Byte) : List (List Byte) :=
  (segmentRun 17 0 63 bs).map (fun d => d ++ zeros (fdLength d.length - d.length))

/-- Time quanta of 25 ns in a bit of `tq`, before and after a sample point in % (R100). -/
def canBit (tq sp : Nat) : Nat × Nat := ((tq * sp + 50) / 100, tq - (tq * sp + 50) / 100)

/-- Time quanta of an arbitration bit and of a data bit, from the 40 MHz CAN clock (R100). -/
def State.canArb (s : State) : Nat × Nat := canBit (([320, 160, 80, 40][s.reg P.hostCanArb 0]?).getD 80) (s.reg P.hostCanSpArb 0)
def State.canFast (s : State) : Nat × Nat := canBit (([40, 20, 10, 8][s.reg P.hostCanData 0]?).getD 20) (s.reg P.hostCanSpData 0)

/-- The 29-bit identifier of a frame that the device sends (R101). -/
def State.canIdent (s : State) (prio : Nat) (event : Bool) : Nat :=
  prio * 2 ^ 26 + 2 ^ 25 + s.reg P.hostCanNode 0 * 2 ^ 17 + event.toNat * 2 ^ 16

/-- A message leaves on CAN FD, its segments one after the other (R100 to R102). -/
def State.canSend (s : State) (prio : Nat) (event : Bool) (bs : List Byte) : State :=
  if s.canSends then
    { s with host := { s.host with canTx := s.host.canTx ++ (canSegments bs).map (fun d =>
      { ident := s.canIdent prio event, esi := s.host.canPassive, brs := true, arb := s.canArb, fast := s.canFast, data := d }) } }
  else s

/-- A message written on a ring with room for it; the ring's SEQUENCE counts (R87). -/
def State.writeMessage (s : State) (r opcode tag inst deadline : Nat) (pl : List Byte) : State :=
  let x := s.ring r
  let bs := messageBytes opcode tag inst 0 deadline x.seqOut pl
  let s1 := (s.writeEntries r (s.ringHead r) (cutEntries (s.ringEsize r) 1024 bs)).produce r (s.entriesFor r pl.length)
  s1.setRing r { s1.ring r with seqOut := (x.seqOut + 1) % 2 ^ 32 }

/-- The ring is enabled `to_host` and has room for a message. -/
def State.hasRoom (s : State) (r n : Nat) : Bool := s.ringOut r && decide (s.entriesFor r n ≤ s.ringFree r)

/-- Payload of the LOST event of a ring (R85): stamp, number dropped, first and last stamp. -/
def lostPayload (now : Nat) (x : RingSt) : List Byte :=
  leBytes 8 now ++ leBytes 4 x.lost ++ leBytes 8 x.lostFirst ++ leBytes 8 x.lostLast

/-- The LOST event is written, with its copy on CAN FD, and the count of lost messages starts again (R85, R103). -/
def State.writeLost (s : State) (r : Nat) : State :=
  let x := s.ring r
  let pl := lostPayload s.epoch x
  let s1 := s.writeMessage r 0x4401 0 r (s.epoch % 2 ^ 32) pl
  let s2 := s1.setRing r { s1.ring r with lost := 0, lostFirst := 0, lostLast := 0 }
  if bit (s.reg P.hostCanEvtMask 0) 4 then
    s2.canSend 3 true (messageBytes 0x4401 0 r 0 (s.epoch % 2 ^ 32) x.seqOut pl)
  else s2

/-- A message dropped at a device-produced ring (R85). -/
def State.dropMessage (s : State) (r stamp : Nat) : State :=
  let x := s.ring r
  let s1 := (s.bump P.hostRingDrop r top32).flagGstat 9
  s1.setRing r { x with lost := satInc top32 x.lost, lostFirst := if x.lost = 0 then stamp else x.lostFirst,
                        lostLast := stamp }

/-- Who takes an event on CAN FD: a fault of a class, a completion event or another event (R101, R103). -/
inductive EventKind where
  | fault (cls : FClass) | completion | other
  deriving DecidableEq, Repr

/-- The event is sent on CAN FD (HOST.CAN_EVT_MASK), at this priority (R101, R103). -/
def EventKind.bitOf : EventKind → Nat
  | .fault cls => cls.code
  | _ => 4
def EventKind.prio : EventKind → Nat
  | .fault .a => 0 | .fault .b => 0 | .completion => 2 | _ => 3

/-- An event on ring 16, with its copy on CAN FD (R85, R91, R103). `pl` follows the 64-bit stamp. -/
def State.event (s : State) (k : EventKind) (opcode tag inst stamp : Nat) (pl : List Byte) : State :=
  let body := leBytes 8 stamp ++ pl
  let x := s.ring 16
  let put (s : State) : State :=
    let seq := (s.ring 16).seqOut
    let s1 := s.writeMessage 16 opcode tag inst (stamp % 2 ^ 32) body
    if bit (s.reg P.hostCanEvtMask 0) k.bitOf then
      s1.canSend k.prio true (messageBytes opcode tag inst 0 (stamp % 2 ^ 32) seq body)
    else s1
  if x.lost = 0 then
    (if s.hasRoom 16 body.length then put s else s.dropMessage 16 stamp)
  else if s.ringOut 16 && decide (s.entriesFor 16 28 + s.entriesFor 16 body.length ≤ s.ringFree 16) then
    put (s.writeLost 16)
  else s.dropMessage 16 stamp

/-- A user task runs on the satellite core (R403). -/
def State.taskRuns (s : State) : Bool := (List.range 8).any (fun t => bit (s.reg P.secTaskStat t) 1)

/-! Performance counters (R488 to R497). -/

/-- A core is halted by debug: 0 the supervisor pair, 1 the satellite core (R171, R481, R489). -/
def State.coreHalted (s : State) (c : Nat) : Bool :=
  if c = 0 then s.pwm.halted.isSome else s.pwm.satHalt

/-- `n` occurrences on programmable counter e; those of a tick on which it is written are lost (R492). A wrap is told at
the end of the tick, unless a write of that tick wins (R496, R497). -/
def State.countOn (s : State) (e n : Nat) : State :=
  if Smap.get (fun _ => none) s.perf.wrote e = some s.epoch then s
  else
    let v := s.reg P.perfCnt e + n
    if v < 2 ^ 48 then s.setReg P.perfCnt e v
    else
      let s := s.setReg P.perfCnt e (v - 2 ^ 48)
      { s with perf := { s.perf with wrapped := s.perf.wrapped ++ [e] } }

/-- A write replaces the value of counter e; bits [63:48] are ignored (R491, R492, R497). -/
def State.writeCount (s : State) (e v : Nat) : State :=
  let s := s.setReg P.perfCnt e (v % 2 ^ 48)
  { s with perf := { s.perf with wrapped := s.perf.wrapped.filter (fun k => k != e),
                                 wrote := Smap.set (fun _ => none) s.perf.wrote e (some s.epoch) } }

/-- The counters of core c that wrapped on this tick, as bits of PERF.OVF. -/
def State.wrapMask (s : State) (c : Nat) : Nat :=
  ((List.range 6).map (fun n => (s.perf.wrapped.contains (6 * c + n)).toNat * 2 ^ n)).foldl (· + ·) 0

/-- The wraps of core c on this tick set their bits of PERF.OVF, and are signalled where one of them has IRQ = 1 (R496). -/
def State.tellWraps (s : State) (c : Nat) : State :=
  let m := s.wrapMask c
  if m = 0 then s
  else
    let irq := (List.range 6).any (fun n => bit m n && bit (s.reg P.perfEvt (6 * c + n)) 10)
    let s := s.setReg P.perfOvf c (s.reg P.perfOvf c ||| m)
    let s := { s with perf := { s.perf with ovf := Smap.set (fun _ => 0) s.perf.ovf c (Smap.get (fun _ => 0) s.perf.ovf c ||| m) } }
    if !irq then s
    else if c = 1 then { s with perf := { s.perf with satInt := true } }
    else s.event .other 0x5D10 0 0 s.epoch (leBytes 1 0 ++ leBytes 1 m ++ zeros 2)

/-- The end of a tick tells the wraps of both cores. -/
def State.tellOverflows (s : State) : State :=
  let t := (s.tellWraps 0).tellWraps 1
  if t.perf.wrapped.isEmpty then t else { t with perf := { t.perf with wrapped := [] } }

/-- A core's event occurs: every running counter of the core that selects it counts (R488, R493). -/
def State.countEvent (s : State) (c evt n : Nat) : State :=
  if s.reg P.perfCtl c = 0 ∨ s.coreHalted c then s
  else s.each (List.range 6) (fun s k =>
    if bits (s.reg P.perfEvt (6 * c + k)) 0 8 = evt then s.countOn (6 * c + k) n else s)

/-! Status codes (R97). -/
abbrev St.ok : Nat := 0x0000
abbrev St.accepted : Nat := 0x0001
abbrev St.badOpcode : Nat := 0x0010
abbrev St.badParam : Nat := 0x0011
abbrev St.badInst : Nat := 0x0012
abbrev St.length : Nat := 0x0013
abbrev St.range : Nat := 0x0014
abbrev St.readOnly : Nat := 0x0015
abbrev St.late : Nat := 0x0016
abbrev St.busy : Nat := 0x0017
abbrev St.badState : Nat := 0x0020
abbrev St.driveRunning : Nat := 0x0021
abbrev St.uvlo : Nat := 0x0022
abbrev St.wakeActive : Nat := 0x0023
abbrev St.causeActive : Nat := 0x0024
abbrev St.txnOpen : Nat := 0x0030
abbrev St.noTxn : Nat := 0x0031
abbrev St.txnFull : Nat := 0x0032
abbrev St.budget : Nat := 0x0033
abbrev St.deadTime : Nat := 0x0034
abbrev St.interlock : Nat := 0x0035
abbrev St.combination : Nat := 0x0036
abbrev St.auth : Nat := 0x0040
abbrev St.locked : Nat := 0x0041
abbrev St.rollback : Nat := 0x0042
abbrev St.dropped : Nat := 0x0050
abbrev St.internal : Nat := 0x00FF

/-! Commands and responses (R87 to R91). -/

/-- The command rings and the interface each belongs to: 0 SPI, 1 CAN FD, 2 satellite core, 3 Dexlia link
(R72, R84, R455, R480); none for a ring that takes no commands: ring 34 carries commands for other devices. -/
def ringIface (r : Nat) : Option Nat :=
  if r = 0 ∨ r = 2 ∨ r = 4 then some 0 else if r = 6 then some 1 else if r = 48 then some 2
  else if r = 32 then some 3 else none

/-- The rings whose messages Vioskik takes, ring 34 among them (R84, R90, R455). -/
def commandRings : List Nat := [0, 2, 4, 6, 32, 34, 48]

/-- The response of a command is written on ring r + 1; ring 7 is emptied by the CAN reassembler at once (R103,
assumption log 21). -/
def State.putResponse (s : State) (r opcode tag inst low : Nat) (pl : List Byte) : State :=
  let seq := (s.ring (r + 1)).seqOut
  let s1 := s.writeMessage (r + 1) (opcode + 0x8000) tag inst low pl
  if r = 6 then
    (s1.canSend 2 false (messageBytes (opcode + 0x8000) tag inst 0 low seq pl)).setIdx 7 (s1.ringHead 7) (s1.ringHead 7)
  else s1

/-- The response of a command is written on ring r + 1, or dropped and counted where that ring is disabled (R83);
behind one that waits, or without room, it waits for room (R91, assumption log 85). -/
def State.writeResponse (s : State) (r opcode tag inst low : Nat) (pl : List Byte) : State :=
  if s.ringOut (r + 1) = false then s.bump P.hostRingDrop (r + 1) top32
  else if s.host.respQ.any (fun x => x.ring == r) || !s.hasRoom (r + 1) pl.length then
    { s with host := { s.host with respQ := s.host.respQ ++ [⟨r, opcode, tag, inst, low, pl⟩] } }
  else s.putResponse r opcode tag inst low pl

/-- The responses that wait are tried again in their order (R91). -/
def State.flushResponses (s : State) : State :=
  let q := s.host.respQ
  ({ s with host := { s.host with respQ := [] } }).each q (fun s x => s.writeResponse x.ring x.opcode x.tag x.inst x.low x.payload)

/-- The response of command `c` (R91): stored for a RETRY, and written unless NO_RESP and `ok`. -/
def State.respond (s : State) (c : Cmd) (status index : Nat) (data : List Byte) : State :=
  let pl := leBytes 2 status ++ leBytes 2 index ++ data
  let x := s.ring c.ring
  let s1 := s.setRing c.ring { x with executing := if x.execSeq = some c.seq then false else x.executing,
                                      resp := if x.execSeq = some c.seq then some (c.opcode, c.tag, c.inst, c.arrival % 2 ^ 32, pl) else x.resp }
  if bit c.flags 2 && status == St.ok then s1
  else s1.writeResponse c.ring c.opcode c.tag c.inst (c.arrival % 2 ^ 32) pl

/-- How a command's body ends: answered at once, started as a deferred command, or answered later. -/
inductive Reply where
  | now (status index : Nat) (data : List Byte)
  | deferred
  | later
  deriving DecidableEq, Repr

/-- Refusal without a failing item. -/
def Reply.refuse (status : Nat) : Reply := .now status 0xFFFF []
/-- `ok` with data. -/
def Reply.ok (data : List Byte) : Reply := .now St.ok 0xFFFF data

/-- The command opcodes of R96: whether INSTANCE is taken, and whether the command is deferred. -/
def opcodeInfo (op : Nat) : Option (Bool × Bool) :=
  if [0x0100, 0x0101, 0x0102, 0x0103, 0x0301, 0x0501, 0x0502, 0x0503, 0x1901, 0x1902, 0x1903, 0x1C04, 0x1C05].contains op
    then some (false, false)
  else if [0x1001, 0x1101, 0x1501, 0x1503, 0x1C01, 0x1C02, 0x1D01].contains op then some (true, false)
  else if [0x1401, 0x1402, 0x1502, 0x1601, 0x1A01, 0x1C03, 0x1C06].contains op then some (true, true)
  else if op = 0x1B01 then some (false, true)
  else none

/-- A deferred command of this opcode and instance still runs (R91). -/
def State.isRunning (s : State) (op inst : Nat) : Bool :=
  s.host.running.any (fun c => c.opcode == op && c.inst == inst)

/-- The deferred command starts. -/
def State.startDeferred (s : State) (c : Cmd) : State :=
  { s with host := { s.host with running := s.host.running ++ [c] } }
/-- The deferred command has ended. -/
def State.endDeferred (s : State) (op inst : Nat) : State :=
  { s with host := { s.host with running := s.host.running.filter (fun c => !(c.opcode == op && c.inst == inst)) } }

/-- Completion event of a deferred command: opcode with EVENT = 1, the command's tag, final STATUS and
INDEX, then data (R91). -/
def State.complete (s : State) (c : Cmd) (status index : Nat) (data : List Byte) : State :=
  (s.endDeferred c.opcode c.inst).event .completion (c.opcode + 0x4000) c.tag c.inst s.epoch
    (leBytes 2 status ++ leBytes 2 index ++ data)

/-- The command that a header spells, arrived now on its ring (R86, R88). -/
def cmdOf (h : Hdr) (opcode now : Nat) : Cmd :=
  { ring := h.ring.val, opcode := opcode, tag := h.tag.toNat, inst := h.inst.toNat, flags := h.flags.toNat,
    seq := h.seq.toNat, arrival := now }

/-- A message has arrived on a host interface: the idle timer restarts and the quiet return of a motion
wake is cancelled (R55, R63). -/
def State.messageSeen (s : State) : State :=
  { s with host := { s.host with lastMsg := s.epoch },
           pwr := { s.pwr with idleStart := s.epoch, mwCancel := true } }

/-- The message is seen: it counts as host activity and as an event of the supervisor, and its ring no longer
waits (R55, R63, R90). -/
def State.hear (s : State) (c : Cmd) : State :=
  let s := s.messageSeen.countEvent 0 0x21 1
  s.setRing c.ring { s.ring c.ring with stalled := false }

/-- The command asks for the stored response of the command executed last on its ring (R87). -/
def State.asksAgain (s : State) (c : Cmd) : Bool := bit c.flags 1 && (s.ring c.ring).execSeq == some c.seq

/-- The ring's SEQUENCE is taken; a gap is counted (R87). -/
def State.noteSeq (s : State) (c : Cmd) : State :=
  let x := s.ring c.ring
  let gap := match x.lastSeq with | some n => decide (c.seq ≠ (n + 1) % 2 ^ 32) | none => false
  let s := if gap then (s.bump P.hostSeqGap 0 top32).flagGstat 11 else s
  s.setRing c.ring { x with lastSeq := some c.seq }

/-- The command's deadline has passed when it is taken (R88). -/
def tooLate (c : Cmd) (deadline : Nat) : Bool := bit c.flags 0 && !inTime32 (c.arrival % 2 ^ 32) deadline

/-- The command executes: its response is the one that a RETRY asks for (R87). -/
def State.openCmd (s : State) (c : Cmd) : State :=
  s.setRing c.ring { s.ring c.ring with execSeq := some c.seq, resp := none, executing := true }

/-- The state in which the body of a command runs. -/
def State.served (s : State) (c : Cmd) : State := ((s.hear c).noteSeq c).openCmd c

/-- Commands refused before their opcode is looked up: block byte 0x1C over the link or from a user task, and in
recovery (R455, R472, R480). -/
def State.lockedOut (s : State) (c : Cmd) : Bool :=
  (c.opcode / 256 == 0x1C && (c.ring == 48 || (c.ring == 32 && !bit (s.reg P.linkCfg 0) 1)))
    || (s.recovery && !List.contains [0x0100, 0x0101, 0x0103, 0x1C01, 0x1C02, 0x1C03] c.opcode)

/-! Housekeeping rounds, which a clear and a commit follow on one tick (R389). -/

/-- Decimation ratio R, and length of a conversion in ticks (R198). -/
def State.hkRatio (s : State) : Nat := 16 * 2 ^ s.reg P.adcHkDec 0
def State.hkTicks (s : State) : Nat := usTicks (2 + 3 * s.hkRatio)

/-- The next entry of the list at or after position `i` (R200); `fuel` bounds the positions. -/
def State.hkEntry (s : State) : Nat → Nat → Option (Nat × Nat)
  | 0, _ => none
  | fuel + 1, i =>
    if 32 ≤ i then none
    else if s.reg P.adcHkList i = 0xFF then State.hkEntry s fuel (i + 1) else some (i, s.reg P.adcHkList i)

/-- A housekeeping round ends on this tick: its last conversion is done now, or a round of no entries is due
(R198, R200). -/
def State.roundDue (s : State) : Bool :=
  s.awake && !s.flt.blk.contains .hk &&
  (match s.hk.conv with
   | some (_, t, none) => decide (t + s.hkTicks ≤ s.epoch) && (s.hkEntry 33 s.hk.pos).isNone
   | some (_, t, some _) => decide (t + s.hkTicks ≤ s.epoch) && s.hk.late && (s.hkEntry 33 0).isNone
   | none => !s.hk.round && decide (s.hk.due ≤ s.epoch) && (s.hkEntry 33 0).isNone)

/-- The command is a FLT_CLEAR, or it commits: TXN_COMMIT, or a PARAM_WRITE outside a transaction (R104, R389). -/
def State.clearsOrCommits (s : State) (c : Cmd) : Bool :=
  c.opcode == 0x1901 || c.opcode == 0x0502
    || (c.opcode == 0x0102 && (match ringIface c.ring with | some k => !(s.txnOf k).isOpen | none => false))

/-- The command acts at the end of the tick: it clears or commits on the tick of a round's end, or follows on that
tick a command that does (R389, assumption log 119). -/
def State.waitsForRound (s : State) (c : Cmd) : Bool :=
  !s.host.atEnd.isEmpty || (s.clearsOrCommits c && s.roundDue)

/-- A command ends with its reply. -/
def State.reply (s : State) (c : Cmd) : Reply → State
  | .now st ix data => s.respond c st ix data
  | .deferred => (s.startDeferred c).respond c St.accepted 0xFFFF []
  | .later => s

/-- A command that waits for room on its response ring is counted once (R90). -/
def State.stall (s : State) (r : Nat) : State :=
  if (s.ring r).stalled then s else (s.bump P.hostRespStall 0 top32).setRing r { s.ring r with stalled := true }

/-- Vioskik takes a command: RETRY, SEQUENCE, deadline, opcode, instance and busy tests of R87 to R96,
then the command's body, then its response. -/
def State.serve (s : State) (c : Cmd) (deadline : Nat) (pl : List Byte)
    (body : State → Cmd → List Byte → State × Reply) : State :=
  match ringIface c.ring with
  | none => s
  | some _ =>
    if !s.serving || (s.recovery && c.ring != 0) then s
    else if !s.hasRoom (c.ring + 1) 1004 then s.stall c.ring
    else
      let s := s.hear c
      if s.asksAgain c then
        (match (s.ring c.ring).executing, (s.ring c.ring).resp with
         | false, some (op, tag, inst, low, rp) => s.writeResponse c.ring op tag inst low rp
         | _, _ => s)
      else
        let s := s.noteSeq c
        if tooLate c deadline then
          -- it is not executed, so the stored response stays that of the last command executed (R87, R88)
          (s.bump P.hostLateCnt 0 top32).writeResponse c.ring c.opcode c.tag c.inst (c.arrival % 2 ^ 32)
            (leBytes 2 St.late ++ leBytes 2 0xFFFF)
        else
          let s := s.openCmd c
          if s.lockedOut c then s.respond c St.locked 0xFFFF []
          else match opcodeInfo c.opcode with
          | none => s.respond c St.badOpcode 0xFFFF []
          | some (takesInst, isDeferred) =>
            if !takesInst && c.inst != 0 then s.respond c St.badInst 0xFFFF []
            else if isDeferred && s.isRunning c.opcode c.inst then s.respond c St.busy 0xFFFF []
            else if s.waitsForRound c then { s with host := { s.host with atEnd := s.host.atEnd ++ [(c, pl)] } }
            else match body s c pl with
              | (s, r) => s.reply c r

/-- A command row: the message of header `h` is taken now. -/
def runCommand (h : Hdr) (opcode : Nat) (pl : List Byte) (s : State)
    (body : State → Cmd → List Byte → State × Reply) : Out :=
  fin (s.serve (cmdOf h opcode s.epoch) h.deadline.toNat pl body)

end Sys2Proof.Machine
end

