-- ==== Sys2Proof/Machine/Drives.lean ====
section
/-! DEFINITION. Drive states and their ends: overrides of the drive states (R290), start and stop
completion events (R258, R285), the short and off phases of a stop (R283) and the drive actions
(R286, R287). -/

namespace Sys2Proof.Machine

/-- |ω| of the tracker exceeds a threshold. -/
def State.fasterThan (s : State) (d : Nat) (w : F32) : Bool := F32.lt w (F32.abs (s.drv d).trk.omega)

/-- The drive enters a state; time in `brake` and `loss_brake` is added up (R256). -/
def State.setPhase (s : State) (d : Nat) (p : DPhase) : State :=
  s.modDrv d (fun x =>
    let spent := if x.phase = .brake ∨ x.phase = .lossBrake then s.epoch - x.since else 0
    { x with phase := p, since := s.epoch, inForce := none, listen := {},
             runAt := if p = .running then some s.epoch else x.runAt,
             start := { x.start with brakeTicks := x.start.brakeTicks + spent } })

/-- The regulators of the drive run: its state is none of those with a fixed override (R290). A stop under a
`soft_off` regulates until the action ends (R286). -/
def DriveSt.regulating (x : DriveSt) : Bool :=
  match x.phase with
  | .align => true | .openLoop => true | .running => true | .lossBrake => true
  | .stopping => x.stop.ph == .ramp || x.stop.soft.isSome
  | _ => false

/-- Override that the state of a drive gives every generator; none where the regulators run (R253,
R254, R255, R283, R290). -/
def State.fixedOvr (s : State) (d : Nat) : Option Nat :=
  let x := s.drv d
  if x.regulating then none
  else match x.phase with
    | .precharge => some (if x.start.gangWait.isSome then 1 else 2)
    | .brake => some 2
    | .mwHold => some (if x.mwPre then 2 else if x.mwListen then 1 else if x.mwLow then 2 else 1)
    | .stopping =>
      some (if x.stop.ph = .short then
          (if x.stop.listen then 1 else if bit (s.reg P.focOpt d) 3 && !x.stop.forceLow then 3 else 2)
        else 1)
    | _ => some 1

/-! Completion events. -/

/-- Payload of the completion event of DRV_START after INDEX (R258). -/
def startData (x : StartSt) (epoch path : Nat) : List Byte :=
  leBytes 1 x.decision ++ leBytes 1 (x.dirBack.toNat + x.listened.toNat * 2 + x.braked.toNat * 4 + x.lossBraked.toNat * 8)
    ++ zeros 2 ++ leBytes 4 x.speed.toNat ++ leBytes 8 epoch ++ leBytes 3 path ++ zeros 1

/-- The start of drive d ends: its completion event, where a DRV_START runs (R258). -/
def State.endStart (s : State) (d status epoch path : Nat) : State :=
  let x := s.drv d
  match x.start.cmd with
  | none => s.modDrv d (fun x => { x with start := { x.start with pendRun := false, gangWait := none } })
  | some c =>
    (s.complete c status 0xFFFF (startData x.start epoch path)).modDrv d
      (fun x => { x with start := { x.start with cmd := none, pendRun := false, gangWait := none } })

/-- Payload of the completion event of DRV_STOP after INDEX (R285). -/
def stopData (x : StopSt) (path : Nat) : List Byte :=
  leBytes 1 (x.ramped.toNat + x.shorted.toNat * 2 + x.timeout.toNat * 4 + x.listened.toNat * 8) ++ zeros 3
    ++ leBytes 4 x.omega0.toNat ++ leBytes 4 (Nat.min top32 (x.shortTicks / 200)) ++ leBytes 3 path ++ zeros 1

/-- The drive is `stopped`: a stop that it ends is completed with `ok`, or with `bad_state` where a drive
action ended it (R283, R285, R286). -/
def State.toStopped (s : State) (d : Nat) : State :=
  let x := s.drv d
  let st := { x.stop with shortTicks := if x.stop.ph == StopPh.short then s.epoch - x.stop.shortStart else x.stop.shortTicks }
  let s := match st.cmd with
    | some c => s.complete c (if st.byAction then St.badState else St.ok) 0xFFFF (stopData st (if st.byAction then st.path else 0))
    | none => s
  (s.setPhase d .stopped).modDrv d (fun x =>
    { x with stop := {}, mwPre := false, mwListen := false, mwLow := false,
             foc := { x.foc with init := 0, softD := none, softQ := 0#32 } })

/-- The `short` phase begins, or goes on as that of an action (R283, R286); its time counts from its first tick (R285). -/
def State.enterShort (s : State) (d : Nat) : State :=
  (s.setPhase d .stopping).modDrv d (fun x =>
    { x with stop := { x.stop with ph := .short, shorted := true,
                                   shortStart := if x.stop.ph = .short then x.stop.shortStart else s.epoch,
                                   listen := false, stepStart := s.epoch, soft := none } })

/-- `short` when |ω| exceeds FOC.STOP_SPEED, else `off` (R283). -/
def State.shortOrOff (s : State) (d : Nat) : State :=
  if s.fasterThan d (s.f P.focStopSpeed d) then s.enterShort d else s.toStopped d

/-! Drive actions. -/

/-- Action `soft_off` (1) or `asc` (2) is registered for drive d with the ASC flag of this tick; it is
taken at the drive's next sample boundary (R286, R401). `derate` acts through the records. -/
def State.registerAction (s : State) (act d path : Nat) : State :=
  let x := s.drv d
  if act ≠ 1 ∧ act ≠ 2 then s
  else match x.pendAct with
    | some (2, _, _) => s
    | some (1, _, _) => if act = 2 then s.setDrv d { x with pendAct := some (act, x.asc, path) } else s
    | _ => s.setDrv d { x with pendAct := some (act, x.asc, path) }

/-- A `soft_off` floats the generators and ends, or becomes `asc` where |ω| exceeds FOC.ASC_SPEED (R286, R287). -/
def State.softFloat (s : State) (d : Nat) : State :=
  if s.fasterThan d (s.f P.focAscSpeed d) then s.enterShort d else s.toStopped d

/-- The registered action is carried out (R286, R287). -/
def State.carryAction (s : State) (d : Nat) : State :=
  let x := s.drv d
  match x.pendAct with
  | none => s
  | some (act, flag, path) =>
    let s := s.setDrv d { x with pendAct := none }
    -- an action of R363 has no record, and its path is 0
    if path ≠ 0 ∧ s.action d ≠ 1 ∧ s.action d ≠ 2 then s
    else if x.phase = .stopped then s
    else if x.stop.byAction && !(act == 2 && x.stop.soft.isSome) then s
    else
      let s := s.endStart d St.badState 0 path
      let s := s.modDrv d (fun x => { x with stop := { x.stop with
        byAction := true, path := if x.stop.byAction then x.stop.path else path } })
      if flag then s.enterShort d
      else if act = 1 && x.regulating && s.computes d then
        s.modDrv d (fun x => { x with stop := { x.stop with soft := some s.epoch } })
      else if act = 1 then s.softFloat d
      else s.toStopped d

/-- A requested chip reset waits for drive d: it is not below FOC.ASC_SPEED, or, where it is `stopped` in FULL, its
rotor turns above it (R17, assumption log 98). -/
def State.resetWaits (s : State) (d : Nat) : Bool :=
  !(s.bridges d).isEmpty &&
    (if s.stopped d then s.pwr.mode == .full && s.fasterThan d (s.f P.focAscSpeed d)
     else !F32.lt (F32.abs (s.drv d).trk.omega) (s.f P.focAscSpeed d))

/-- The drive is held in active short: by its state, or by the `short` phase, whose listens measure the speed (R284). -/
def State.inShort (s : State) (d : Nat) : Bool :=
  s.fixedOvr d == some 2 || s.fixedOvr d == some 3
    || ((s.drv d).phase == .stopping && (s.drv d).stop.ph == StopPh.short)

/-- While a chip reset is requested, a drive that it waits for is held in active short (R17). -/
def State.resetHold (s : State) (d : Nat) : State :=
  if s.pwr.chipReq.isSome && s.resetWaits d && !s.inShort d then (s.endStart d St.badState 0 0).enterShort d
  else s

/-- What a boundary does with a registered action and a requested chip reset. -/
def State.takeAction (s : State) (d : Nat) : State := (s.carryAction d).resetHold d

end Sys2Proof.Machine
end

