-- ==== Sys2Proof/Machine/Faults.lean ====
section
/-! DEFINITION. The fault collector: reports, records, reactions, penumbras and the journal
(R393 to R410, R414, R415, R418). -/

namespace Sys2Proof.Machine

/-! Scopes and paths. -/

/-- The drives in a source's scope, for ACTION and R399; none for the scope `—` (R422, R386). -/
def State.scope (s : State) (kind i : Nat) : Option (List Nat) :=
  let owner (b : Nat) : Option (List Nat) := some (s.ownersOf [b])
  let all : Option (List Nat) := some [0, 1, 2, 3]
  if kind = K.hostLateFault then (if i = 4 then all else some [i])
  else if kind = K.haFallback then (if i = 4 then none else some [i])
  else if [K.supvWdg, K.lockstep, K.xcmdDie, K.eccDbe].contains kind then all
  else if kind = K.trip then some (s.ownersOf ((setBits 12 (s.reg P.pwmTripMap i)).map (· / 3)))
  else if kind = K.xcmd ∨ kind = K.bstUv then owner (i / 3)
  else if [K.syncPhase, K.syncLoss, K.adcPlaus, K.vbusStale, K.vbusPlaus, K.hallBad, K.hallSeq, K.encErr,
           K.encIndex, K.hoc, K.ntcBad].contains kind then owner i
  else if kind = K.adcOrng then owner (i / 2)
  else if [K.shuntMiss, K.eclSkip, K.startFail, K.flyFail, K.engOvr, K.engOvrFault, K.engNan, K.linkLate].contains kind
    then some [i]
  else if kind = K.desat then owner (i / 6)
  else if kind = K.vdrvUv ∨ kind = K.stoDisc then some (s.ownersOf (dieBridges i))
  else if kind = K.stoAct then some (s.ownersOf (dieBridges (i / 2)))
  else if kind = K.stFail then
    (if i < 52 then
      (if i % 26 = 25 then some (s.groupDrives (bits (s.reg P.busChopCfg (i / 26)) 1 2))
       else if i % 26 = 24 then some (s.ownersOf (dieBridges (i / 26)))
       else owner ((6 * (i / 26) + i % 26 % 6) / 3))
     else owner ((i - 52) % 4))
  else if kind = K.busUv1 ∨ kind = K.busUv2 ∨ kind = K.busOv3 then some (s.groupDrives i)
  else if kind = K.busOv4 then some (s.groupDrives (s.reg P.busGroup i))
  else if kind = K.chopFail then some (s.groupDrives (bits (s.reg P.busChopCfg (i % 2)) 1 2))
  else if kind = K.thermWarn ∨ kind = K.thermThrottle ∨ kind = K.thermShdn then
    (if i = 0 then all else if i < 3 then some (s.ownersOf (dieBridges (i - 1))) else owner (i - 3))
  else if kind = K.thermRor then
    (if i < 4 then all else if i < 12 then some (s.ownersOf (dieBridges (i / 4 - 1))) else owner ((i - 12) / 6))
  else if [K.linkDown, K.linkCrc, K.linkAuth, K.linkSync].contains kind then
    some ((List.range 4).filter (fun d => s.role d == 2 || s.role d == 3))
  else none

/-- Two scopes share a drive; the scope `—` shares one with every scope (R399). -/
def scopesShare : Option (List Nat) → Option (List Nat) → Bool
  | some a, some b => a.any b.contains
  | _, _ => true

/-- The unit that a block reset of a path acts on; none where R402 lists no such unit. -/
def blkUnitOf (path : Nat) : Option BlkUnit :=
  let level := bits path 21 3
  let cl := bits path 16 3
  let u := bits path 10 6
  if bits path 19 2 ≠ 0 ∨ level < 1 ∨ 4 < level then none
  else if cl = 1 then
    (if h : u < 4 then some (.bridge ⟨u, h⟩)
     else if h : u - 4 < 4 then some (.pair ⟨u - 4, h⟩)
     else if u = 8 then some .wp else if u = 9 then some .pos else if u = 10 then some .eng
     else if u = 14 then some .loss else none)
  else if cl = 3 then (if u = 2 then some .hk else none)
  else if cl = 2 then
    (if u = 0 then some .spi else if u = 1 then some .can
     else if h : u - 2 < 3 then some (.link ⟨u - 2, h⟩) else none)
  else if cl = 0 then (if u = 6 then some .chk else if u = 5 then some .trng else none)
  else none

/-! Penumbras (R406 to R410). -/

/-- "Drive list of d" (R410). -/
def inDriveList (d kind i : Nat) : Bool :=
  [K.shuntMiss, K.eclSkip, K.startFail, K.flyFail, K.hostLateFault].contains kind && i == d

/-- The detector lies in the drive list of one of these drives. -/
def inDriveLists (ds : List Nat) (kind i : Nat) : Bool := ds.any (fun d => inDriveList d kind i)

/-- The consequence map: a penumbra's opener shadows a detector (R410). -/
def State.shadows (s : State) (k : PenKind) (kind i : Nat) : Bool :=
  match k with
  | .driveAction d => inDriveList d kind i
  | .twoStep d =>
    let bs := s.bridges d
    (kind == K.desat && bs.contains (i / 6)) || (kind == K.bstUv && bs.contains (i / 3))
    || ((kind == K.hoc || kind == K.adcPlaus) && bs.contains i) || (kind == K.adcOrng && bs.contains (i / 2))
    || inDriveList d kind i
  | .tripForce t => inDriveLists (s.ownersOf ((setBits 12 (s.reg P.pwmTripMap t)).map (· / 3))) kind i
  | .vdrvHold j =>
    (kind == K.bstUv && i / 6 == j) || (kind == K.desat && i / 12 == j) || (kind == K.chopFail && i == j + 2)
  | .stoHold j => (kind == K.bstUv && i / 6 == j) || inDriveLists (s.ownersOf (dieBridges j)) kind i
  | .ov4 n => inDriveLists (s.groupDrives n) kind i
  | .blk (.pair b) =>
    ((kind == K.adcPlaus || kind == K.vbusStale || kind == K.vbusPlaus) && i == b.val)
    || (kind == K.adcOrng && i / 2 == b.val) || inDriveLists (s.ownersOf [b.val]) kind i
  | .blk (.bridge b) =>
    ((kind == K.xcmd || kind == K.bstUv) && i / 3 == b.val)
    || ((kind == K.syncPhase || kind == K.syncLoss) && i == b.val) || inDriveLists (s.ownersOf [b.val]) kind i
  | .blk .wp => kind == K.shuntMiss || kind == K.adcPlaus
  | .blk .pos => [K.hallBad, K.hallSeq, K.encErr, K.encIndex, K.eclSkip].contains kind
  | .blk .eng => kind == K.engOvr || kind == K.engOvrFault || kind == K.engNan || inDriveLists [0, 1, 2, 3] kind i
  | .blk .loss => kind == K.thermRor && decide (12 ≤ i)
  | .blk .hk => kind == K.hkLate || kind == K.ntcBad || kind == K.tsensBad || kind == K.vbusPlaus
      || (kind == K.thermRor && decide (i < 12))
  | .blk (.link p) => ((kind == K.linkDown || kind == K.linkCrc) && i == p.val) || kind == K.linkLate
  | .blk .spi => false
  | .blk .can => false
  | .blk .chk => kind == K.chkScan
  | .blk .trng => kind == K.trngFail

/-- The open penumbra that shadows a report with a stamp: of those that cover it, the one that opened
first (R406, R408). Class A is never shadowed. -/
def State.shadowing (s : State) (kind i stamp : Nat) : Option Pen :=
  if selClass (selector kind i) = .a then none
  else
    (s.flt.pens.filter (fun p => decide (p.start < stamp) && decide (stamp ≤ p.stop) && s.shadows p.kind kind i)).foldl
      (fun acc p => match acc with
        | none => some p
        | some q => if p.start < q.start then some p else some q) none

/-- A penumbra opens for the last report of a record: FLT.PENUMBRA from its opening tick (R406). -/
def State.openPen (s : State) (k : PenKind) (start sel : Nat) : State :=
  let seq := if s.flt.drafts.any (fun d => d.sel == sel) then none else some (s.frec sel).seq
  { s with flt := { s.flt with pens := s.flt.pens ++ [⟨k, start, start + usTicks (s.reg P.fltPenumbra 0), sel, seq⟩] } }

/-! The journal (R414, R415, R418). -/

/-- TYPE code of a journal entry. -/
def JType.code : JType → Nat
  | .report => 0 | .consequent => 1 | .tail => 2 | .clear => 3
  -- not used: `jbytes` lays a wake out as an opaque run of bytes
  | .wake => 0

/-- The 32 bytes of a journal entry (R414). -/
def jbytes (e : JEntry) : List Byte :=
  if e.type = .wake then (List.range 32).map (Config.wakeEntry e.entered e.epoch)
  else
  leBytes 8 e.epoch
    ++ leBytes 1 (match e.frac with | some f => f % 32 + 32 | none => 0)
    ++ leBytes 1 (e.type.code + e.cls * 16 + e.first.toNat * 64 + e.inj.toNat * 128)
    ++ leBytes 1 e.kind ++ leBytes 1 e.inst ++ leBytes 3 e.path ++ leBytes 1 e.cell
    ++ leBytes 4 e.seq ++ leBytes 4 e.parent ++ leBytes 2 e.react ++ leBytes 2 e.count ++ leBytes 4 e.data

/-- The tail entry (R415): LOST_AB stands at bytes 10 and 11, the last lost epoch at 20 to 27. -/
def tailEntry (t : JTail) (seq : Nat) : JEntry :=
  { epoch := t.first, type := .tail, kind := t.lostAb % 256, inst := t.lostAb / 256, seq := seq,
    parent := t.last % 2 ^ 32, react := (t.last / 2 ^ 32) % 2 ^ 16, count := t.last / 2 ^ 48, data := t.lost }

/-- Entries that the journal holds. -/
def State.jnlHeld (s : State) : Nat := s.flt.journal.length

/-- The tail is entered as soon as the journal holds fewer than 1,008 entries (R415). -/
def State.enterTail (s : State) : State :=
  if s.flt.tail.lost ≠ 0 ∧ s.jnlHeld < 1008 then
    { s with flt := { s.flt with journal := s.flt.journal ++ [tailEntry s.flt.tail s.flt.seq],
                                 seq := (s.flt.seq + 1) % 2 ^ 32, tail := {} } }
  else s

/-- An entry takes the next SEQ and is entered, or lost to the tail (R414, R415). `ab` marks a report of
class A or B that is not consequent. The answer carries the entry as it stands in the journal. -/
def State.enter (s : State) (e : JEntry) (ab : Bool) : State × JEntry :=
  let s := s.enterTail
  let e := { e with seq := s.flt.seq }
  let s := { s with flt := { s.flt with seq := (s.flt.seq + 1) % 2 ^ 32 } }
  if s.jnlHeld < (if ab then 1024 else 1008) then
    ({ s with flt := { s.flt with journal := s.flt.journal ++ [e] } }, e)
  else
    let t := s.flt.tail
    let t := { t with lost := satInc top32 t.lost, lostAb := if e.cls < 2 && e.type != .clear then satInc top16 t.lostAb else t.lostAb,
                      first := if t.lost = 0 then e.epoch else t.first, last := e.epoch }
    (({ s with flt := { s.flt with tail := t } }).bump P.fltJnlLost 0 top32, e)

/-! Reactions (R401 to R404). -/

/-- The drives of a scope, as the mask that ACTION acts on; a scope `—` acts on none. -/
def scopeMask : Option (List Nat) → Nat
  | some l => drivesMask l
  | none => 0

/-- A block reset of a unit starts, unless it is under way (R403). -/
def State.startBlk (s : State) (u : BlkUnit) : State :=
  if s.flt.blk.contains u then s else { s with flt := { s.flt with blk := s.flt.blk ++ [u] } }

/-- A chip reset is requested; it starts under R17 (`bitNo` is its bit of SYS.RST_SRC). -/
def State.requestChip (s : State) (bitNo : Nat) : State :=
  { s with pwr := { s.pwr with chipReq := match s.pwr.chipReq with | some b => some b | none => some bitNo } }

/-- The deferred part of a configured reaction is carried out: BLK, CHIP and ACTION of a FLT.REACT
value, with the penumbras they open (R132, R402, R406). -/
def State.takeDeferred (s : State) (kind i react : Nat) : State :=
  let sel := selector kind i
  let x := s.frec sel
  let act := bits react 6 2
  let mask := scopeMask (s.scope kind i)
  let s := if act ≠ 0 then s.setRec sel { x with act := act, drives := mask } else s
  let s := if act = 1 ∨ act = 2 then
      s.each (setBits 4 mask) (fun s d =>
        -- R368: for a drive that is `stopped` or in `mw_hold` the OV4 latch is the only effect
        if kind = K.busOv4 ∧ ((s.drv d).phase = .mwHold ∨ s.stopped d = true) then s
        else (s.openPen (.driveAction d) s.epoch sel).registerAction act d (sourcePath kind i))
    else s
  if bit react 4 then { s.requestChip 4 with flt := { s.flt with chipAt := some s.epoch } }
  else if bit react 3 then
    (match blkUnitOf (sourcePath kind i) with
     | some u => { s with flt := { s.flt with blkAsked := s.flt.blkAsked ++ [(u, sel)] } }
     | none => s)
  else s

/-- The block resets that the reactions of this tick ask for start, each with its penumbra, unless a chip reset was
asked for as well (R403, R406). -/
def State.startBlks (s : State) : State :=
  let asked := s.flt.blkAsked
  let s := if asked.isEmpty then s else { s with flt := { s.flt with blkAsked := [] } }
  if s.flt.chipAt = some s.epoch then s
  else s.each asked (fun s (u, sel) =>
    if s.flt.blk.contains u then s else (s.startBlk u).openPen (.blk u) s.epoch sel)

/-- The hardware action that a report stands for opens its penumbra on the report's stamp (R406, R410). -/
def State.hardwarePen (s : State) (kind i stamp : Nat) : State :=
  let sel := selector kind i
  if kind = K.desat then s.each (s.ownersOf [i / 6]) (fun s d => s.openPen (.twoStep d) stamp sel)
  else if kind = K.hoc then s.each (s.ownersOf [i]) (fun s d => s.openPen (.twoStep d) stamp sel)
  else if kind = K.trip then s.openPen (.tripForce i) stamp sel
  else if kind = K.vdrvUv then s.openPen (.vdrvHold i) stamp sel
  else if kind = K.stoAct then s.openPen (.stoHold (i / 2)) stamp sel
  else if kind = K.busOv4 then s.openPen (.ov4 (s.reg P.busGroup i)) stamp sel
  else s

/-- A class C or D source under FLT.DEC_MODE = `host` awaits a decision (R132). -/
def State.defers (s : State) (cls : FClass) : Bool := bit (s.reg P.fltDecMode 0) 0 && (cls == .c || cls == .d)

/-- The report is marked FIRST (R399). -/
def State.isFirst (s : State) (sel stamp : Nat) : Bool :=
  let sc := s.scope (sel / 256) (sel % 256)
  selClass sel != .d &&
  !(s.flt.recs.any (fun (k, x) => k != sel && x.cause && selClass k != .d && decide (x.firstEpoch < stamp)
      && scopesShare sc (s.scope (k / 256) (k % 256))))

/-- A report of class A or B waits for its mirror slot (R418). -/
def State.queueMirror (s : State) (cls : FClass) (e : JEntry) : State :=
  if cls = .a ∨ cls = .b then
    { s with flt := { s.flt with mirrorQ := s.flt.mirrorQ ++ [(e, s.reg P.timeEra 0)] } }
  else s

/-- A report whose scope includes a member drive is forwarded to that drive's home (R462). -/
def State.queueTrouble (s : State) (kind i : Nat) (e : JEntry) : State :=
  match s.scope kind i with
  | none => s
  | some ds =>
    s.each (ds.filter (fun d => s.role d == 3)) (fun s d =>
      { s with flt := { s.flt with troubleQ := s.flt.troubleQ ++ [(d, e)] } })

/-- A report waits for its SEQ among those of its tick, in ascending selector order (R398). -/
def State.draft (s : State) (d : Draft) : State :=
  let l := s.flt.drafts
  { s with flt := { s.flt with
      drafts := l.takeWhile (fun x => decide (x.sel ≤ d.sel)) ++ [d] ++ l.dropWhile (fun x => decide (x.sel ≤ d.sel)) } }

/-- The reports of a tick take their SEQ; the records and the penumbras they opened take it with them (R398, R408). -/
def State.numberDrafts (s : State) : State :=
  let s := s.each s.flt.drafts.zipIdx (fun s (d, n) => s.setRec d.sel { s.frec d.sel with seq := (s.flt.seq + n) % 2 ^ 32 })
  { s with flt := { s.flt with pens := s.flt.pens.map (fun p => { p with seq := some (p.seq.getD (s.frec p.sel).seq) }) } }

/-- Journal entry, mirror slot, TROUBLE and fault event of one report (R401). -/
def State.enterDraft (s : State) (d : Draft) : State :=
  let parent := match d.parent with | none => 0xFFFFFFFF | some (n, o) => n.getD (s.frec o).seq
  let (s, e) := s.enter { d.entry with parent := parent } d.ab
  let s := s.queueMirror (selClass d.sel) e
  let s := if d.trouble then s.queueTrouble e.kind e.inst e else s
  if d.event then s.event (.fault (selClass d.sel)) 0x5920 0 e.inst e.epoch ((jbytes e).drop 8) else s

/-- The end of a tick enters its reports in the journal (R398, R401). -/
def State.enterDrafts (s : State) : State :=
  match s.flt.drafts with
  | [] => s
  | ds =>
    let s := s.enterTail.numberDrafts
    { s with flt := { s.flt with drafts := [] } }.each ds State.enterDraft

/-- One report reaches the collector (R397, R401): the record is updated, shadowing and FIRST are decided and the
reactions are taken on the same tick; the journal entry and the fault event follow at its end (assumption log 22).
`stamp` is the report's stamp, `frac` its fraction, `data` the DATA field, `inj` an injected report and
`noReact` NOREACT of FLT_INJECT (R421). -/
def State.report (s : State) (kind i stamp : Nat) (frac : Option Nat := none) (data : Nat := 0)
    (inj : Bool := false) (noReact : Bool := false) : State :=
  match sourceRow kind with
  | none => s
  | some row =>
    let sel := selector kind i
    let x := s.frec sel
    if row.n ≤ i then s
    -- R397: a report of a level source only on a change of LIVE; one report per selector and tick
    else if row.level && x.live then s
    else if x.count ≠ 0 && x.lastEpoch == stamp then (if row.level then s.setRec sel { x with live := true } else s)
    else
      let pen := s.shadowing kind i stamp
      let conseq := pen.isSome
      let first := !conseq && s.isFirst sel stamp
      let wasHealthy := s.health
      let react := s.reg P.fltReact kind
      let defer := s.defers row.cls
      let setCause := !conseq && !noReact
      let x1 := { x with
        cause := x.cause || setCause, live := row.level, first := x.first || first,
        conseq := x.conseq || conseq, inj := inj, lastConseq := conseq,
        firstEpoch := if !conseq && !x.cause then stamp else x.firstEpoch, lastEpoch := stamp,
        count := satInc top16 x.count, tick := some s.epoch, setAt := if setCause then some s.epoch else x.setAt,
        awaiting := if setCause && defer then some stamp else x.awaiting }
      let s := s.setRec sel x1
      let s := if inj then s else s.bump P.fltLife kind top32
      let s := if conseq then s.bump P.fltConseqCnt 0 top32 else s
      let dropHealth := setCause && wasHealthy && !s.health
      let taken := if setCause then
          -- a chip reset supersedes a block reset (R403)
          (if defer then (react &&& 0x07) + 0x100 else react &&& (if bit react 4 then 0xD7 else 0xDF)) + dropHealth.toNat * 32
        else 0
      let s := s.draft
        { sel := sel, ab := (row.cls == .a || row.cls == .b) && !conseq, parent := pen.map (fun p => (p.seq, p.sel)),
          trouble := !(conseq || row.cls == .d), event := setCause && bit react 0,
          entry := { epoch := stamp, frac := frac, type := if conseq then .consequent else .report, cls := row.cls.code,
                     first := first, inj := inj, kind := kind, inst := i, path := sourcePath kind i,
                     cell := sourceCell kind i, react := taken, count := x1.count, data := data } }
      if !setCause then s
      else
        -- R403: without effect while no user task runs
        let task := s.taskRuns
        let s := { s with flt := { s.flt with satInt := s.flt.satInt || (task && bit react 1), satNmi := s.flt.satNmi || (task && bit react 2) } }
        let s := s.hardwarePen kind i stamp
        if defer then s else s.takeDeferred kind i react

/-- The detector output of a `level` source goes inactive (R397). -/
def State.unlive (s : State) (kind i : Nat) : State :=
  let x := s.frec (selector kind i)
  if x.live then s.setRec (selector kind i) { x with live := false } else s

/-- A `level` source follows its detector (R397). -/
def State.follow (s : State) (kind i stamp : Nat) (on : Bool) : State :=
  if on then s.report kind i stamp else s.unlive kind i

/-- LIVE of a source's record. -/
def State.isLive (s : State) (kind i : Nat) : Bool := (s.frec (selector kind i)).live
/-- CAUSE of a source's record. -/
def State.hasCause (s : State) (kind i : Nat) : Bool := (s.frec (selector kind i)).cause

/-- The first uncleared fault with a `soft_off` or `asc` action on drive d: its SOURCE_PATH (R258, R285). -/
def State.actionPath (s : State) (d : Nat) : Nat :=
  match s.flt.recs.find? (fun (_, x) => x.cause && (x.act == 1 || x.act == 2) && bit x.drives d) with
  | some (k, _) => sourcePath (k / 256) (k % 256)
  | none => 0

/-- An uncleared class A, B or C fault has a drive reaction on d (R252). -/
def State.hasReaction (s : State) (d : Nat) : Bool :=
  s.flt.recs.any (fun (k, x) => x.cause && x.act != 0 && bit x.drives d && selClass k != .d)

end Sys2Proof.Machine
end

