-- ==== Sys2Proof/Machine/Skip.lean ====
section
/-! DEFINITION. Skips of eclipse windows (R242, R245). -/

namespace Sys2Proof.Machine

/-- Phase of crossing k: 1 U, 2 V, 3 W (R239). -/
def eclPhase (k : Nat) : Nat :=
  match k with
  | 0 => 1 | 1 => 3 | 2 => 2 | 3 => 1 | 4 => 3 | _ => 2

/-- POS.ECL_LAST with a new REASON and PHASE (R260). -/
def State.setEclLast (s : State) (d reason k : Nat) : State :=
  s.setReg P.posEclLast d (reason + eclPhase k * 8 + bits (s.reg P.posEclLast d) 16 16 * 65536)

/-- A decided window counts a skip (R242, R245). -/
def State.eclSkip (s : State) (d reason k : Nat) : State :=
  let s := (s.bump P.posEclSkipCnt d top32).bump P.posEclRun d top8
  let s := s.setEclLast d reason k
  let s := s.modDrv d (fun x => { x with ecl := { x.ecl with okRun := 0 } })
  if s.reg P.posEclSkipMax d ≤ s.reg P.posEclRun d then (s.setReg P.posEclRun d 0).report K.eclSkip d s.epoch else s

/-- A generator of bridge b is forced: an eclipse window in progress there counts a skip `forced`, and its
observations from this tick on are discarded (R242). -/
def State.eclForced (s : State) (b : Nat) : State :=
  match s.ownerOf b with
  | none => s
  | some d =>
    if s.lowBridge d ≠ b then s
    else match (s.drv d).ecl.win with
      | some w =>
        if w.loaded = 0 ∨ w.dead ∨ w.found then s
        else (s.modDrv d (fun x => { x with ecl := { x.ecl with win := some { w with dead := true } } })).eclSkip d 4 w.k
      | none => s

end Sys2Proof.Machine
end

