-- ==== Sys2Proof/Machine/Windows.lean ====
section
/-! DEFINITION. The window picker (R205 to R215, R223), the offsets (R182) and the plausibility check
(R195), with the reconstruction of the phase currents. -/

namespace Sys2Proof.Machine

/-- Averaging span of ADC.FC_FILT[k] (R188). -/
def State.fcSpan (s : State) (k : Nat) : Nat := 2 ^ s.reg P.adcFcFilt k

/-- One update of an offset estimate in sQ18.4: a sixteenth of the way to the mean (R182). -/
def offsetStep (ofs : Nat) (sum : Int) (n : Nat) : Nat :=
  ofSigned 32 (roundDiv (15 * toSigned 32 ofs * n + 16 * sum) (16 * n))

/-- Gain of ADC.GAIN[b] (R181): 4, 8, 16, 32 or 64. -/
def State.adcGain (s : State) (b : Nat) : Nat := 4 * 2 ^ s.reg P.adcGain b

/-- I_w of R207 from the sum of `n` sample codes and an offset estimate. -/
def State.windowCurrent (s : State) (b : Nat) (sum : Int) (n ofs : Nat) : F32 :=
  F32.ofFrac ((16 * sum - n * toSigned 32 ofs) * 3 * 10000000) (16 * n * 16384 * s.adcGain b * s.reg P.shuntRShunt b)

/-- Samples inside a window, oldest first, without the first `skip` and without invalid ones: F − 1 of R206 for a
window, none for an offset estimate (R182). -/
def counted (l : List (Nat × Int × Bool)) (openAt closeAt skip : Nat) : List Int :=
  ((((l.reverse.filter (fun (t, _, _) => decide (openAt ≤ t * 32) && decide (t * 32 ≤ closeAt))).drop skip).filter
    (fun (_, _, v) => v)).map (fun (_, c, _) => c))

/-- Sum of a list of codes. -/
def sumInt (l : List Int) : Int := l.foldl (· + ·) 0

/-- Gates of bridge b: vector code, floating phases, and the state of R190. -/
def State.gateState (s : State) (b : Nat) : Nat × Nat × Nat :=
  let ph (i : Nat) : Gen := s.gen (3 * b + i)
  let w (i : Nat) : Nat := 2 ^ (2 - i)
  let m (i : Nat) : Nat := 2 ^ i
  let on (x : Gen) : Bool := x.gh || x.gl
  let dead (x : Gen) : Bool := !on x && (x.pendH || x.pendL)
  let vec := [0, 1, 2].foldl (fun a i => if (ph i).gh then a + w i else a) 0
  let floating := [0, 1, 2].foldl (fun a i => if on (ph i) || dead (ph i) then a else a + m i) 0
  let anyH := [0, 1, 2].any (fun i => (ph i).gh)
  let anyL := [0, 1, 2].any (fun i => (ph i).gl)
  (vec, floating, if [0, 1, 2].any (fun i => dead (ph i)) then 0 else if anyH && anyL then 1 else 2)

/-- ADC.OFS_A and ADC.OFS_B of bridge b on a tick of the present state (R207). -/
def State.ofsOn (s : State) (b t : Nat) : Nat × Nat :=
  (((s.picker b).ofs.filter (fun x => decide (t < x.1))).getLast?.map (fun x => x.2)).getD
    (s.reg P.adcOfsA b, s.reg P.adcOfsB b)

/-- The offset estimates of bridge b are about to change on this tick (R207). -/
def State.noteOfs (s : State) (b : Nat) : State :=
  let p := s.picker b
  s.setPicker b { p with ofs := (s.epoch, s.reg P.adcOfsA b, s.reg P.adcOfsB b) :: p.ofs }

/-- ECL, SHIFT and SECOND of the interval in force on bridge b of drive d (R223). -/
def State.intervalFlags (s : State) (d b : Nat) : Bool × Bool × Bool :=
  let x := s.drv d
  (x.foc.eclInt && s.lowBridge d == b, bit x.foc.shInt b, decide (x.car.half ≤ x.car.cnt) && x.car.spp == 2)

/-- The window of the present state, which closes at `closeAt` (R206, R223). One that closed before the last boundary
belongs to the interval which that boundary ended, and comes too late for it (R26). -/
def State.windowAt (s : State) (d b closeAt : Nat) : Window :=
  let p := s.picker b
  let pri := counted p.samples p.openAt closeAt (s.fcSpan (2 * b) - 1)
  let chk := counted p.csamples p.openAt closeAt (s.fcSpan (2 * b + 1) - 1)
  let past := decide (closeAt < (s.drv d).foc.boundary * 32)
  let (ecl, shift, second) := if past then p.was else s.intervalFlags d b
  let (a, b') := s.ofsOn b (closeAt / 32)
  { close := closeAt, vec := p.vec, floating := p.floating, sum := sumInt pri, n := pri.length, csum := sumInt chk,
    cn := chk.length, ofsA := a, ofsB := b', ecl := ecl, shift := shift, second := second, tooLate := past }

/-- The state that ends closes its window, unless a debug halt has closed it (R206, R209), or OFS_A takes the samples
of a zero-vector state (R182). -/
def State.pickerClose (s : State) (b closeAt : Nat) : State :=
  let p := s.picker b
  match s.ownerOf b with
  | none => s
  | some d =>
    if p.st = 1 then
      (if p.shut then s else s.setPicker b { p with closed := p.closed ++ [s.windowAt d b closeAt] })
    else if p.st = 2 then
      let pri := counted p.samples p.openAt closeAt 0
      if pri.length < 2 then s
      else s.setReg P.adcOfsA b (offsetStep (s.reg P.adcOfsA b) (sumInt pri) pri.length)
    else s

/-- A gate command of bridge b has changed at `nowF` fractions (R205, R206). Changes at one stamp end one state; a
zero-vector state goes on through a change that leaves it one (R190, assumption log 49). -/
def State.pickerEdge (s : State) (b nowF : Nat) : State :=
  let p := s.picker b
  let (vec, floating, st) := s.gateState b
  let same := p.began == nowF
  if !same && p.st == 2 && st == 2 then s.setPicker b { p with vec := vec, floating := floating, edgeAt := nowF }
  else
    let (guard, settle) := match s.ownerOf b with
      | some d => (s.reg P.shuntTGuard d * 32, s.reg P.shuntTSettle d * 32)
      | none => (0, 0)
    let s := if same then s else s.pickerClose b (nowF - guard)
    s.setPicker b { s.picker b with st := st, vec := vec, floating := floating, openAt := nowF + settle, began := nowF,
                                    edgeAt := nowF, shut := false, ofs := [], samples := [], csamples := [] }

/-- A debug halt closes the window that is open on bridge b (R209). -/
def State.pickerHalt (s : State) (b nowF : Nat) : State :=
  if (s.picker b).st = 1 then
    let s := s.pickerClose b nowF
    s.setPicker b { s.picker b with shut := true }
  else s

/-- Phase that an active vector names, and its sign (R208). -/
def vecPhase (vec : Nat) : Option (Nat × Bool) :=
  match vec with
  | 4 => some (0, true) | 3 => some (0, false) | 2 => some (1, true) | 5 => some (1, false)
  | 1 => some (2, true) | 6 => some (2, false) | _ => none

/-- Phase that the gates of a window name; with a floating phase, the conducting phase on the side of
the shunt's current: the one high side, or the one low side (R208, R212). -/
def windowPhase (w : Window) : Option (Nat × Bool) :=
  if w.floating = 0 then vecPhase w.vec
  else (List.range 3).findSome? (fun i =>
    if bit w.floating i then none else if bit w.vec (2 - i) then some (i, true) else none)

/-- A window with two or more counted samples is measured (R206). -/
def Window.measured (w : Window) : Bool := decide (2 ≤ w.n)

/-- FLAGS of a window, and its BRIDGE byte on bridge b (R223). -/
def Window.flags (w : Window) : Nat :=
  w.measured.toNat + w.ecl.toNat * 2 + w.shift.toNat * 4 + w.plaus.toNat * 8 + w.second.toNat * 16
def Window.bridgeByte (w : Window) (b : Nat) : Nat :=
  b + (if bit w.floating 0 then 1 else if bit w.floating 1 then 2 else if bit w.floating 2 then 3 else 0) * 4

/-- The 16-byte window record (R223). -/
def State.windowRecord (s : State) (b : Nat) (w : Window) : List Byte :=
  leBytes 8 (w.close / 32)
    ++ leBytes 4 (if w.measured then (s.windowCurrent b w.sum w.n w.ofsA).toNat else 0)
    ++ leBytes 1 w.vec ++ leBytes 1 (Nat.min w.n 255) ++ leBytes 1 w.flags ++ leBytes 1 (w.bridgeByte b)

/-- Bytes of a record in the capture region; 16 KiB in all (R316, R318). -/
def captureBytes (c : Capture) : Nat := (c.fifo.map List.length).foldl (· + ·) 0

/-- A capture record is recorded, or dropped and counted where the region is full (R318, R319). -/
def State.captureRecord (s : State) (d : Nat) (bs : List Byte) (stamp : Nat) : State :=
  match (s.drv d).foc.cap with
  | none => s
  | some c =>
    let full := decide (16384 < captureBytes c + bs.length)
    let c1 := { c with seq := (c.seq + 1) % 2 ^ 16, done := if full then c.done else c.done + 1, dropped := if full then c.dropped + 1 else c.dropped,
                       first := if c.done = 0 then stamp else c.first, last := stamp, skip := false,
                       fifo := if full then c.fifo else c.fifo ++ [bs] }
    let c1 := if c1.count ≤ c1.done then { c1 with active := false, ended := some s.epoch } else c1
    let s := if full then s.bump P.engCapDrop d top32 else s
    s.modDrv d (fun x => { x with foc := { x.foc with cap := some c1 } })

/-- A delivered window of a captured set is recorded (R317). -/
def State.captureWindow (s : State) (b : Nat) (w : Window) : State :=
  match s.ownerOf b with
  | none => s
  | some d =>
    match (s.drv d).foc.cap with
    | some c =>
      if c.active && c.kind == 1 && (s.bridges d)[c.set]? == some b then
        s.captureRecord d (s.windowRecord b w) (w.close / 32)
      else s
    | none => s

/-- The plausibility comparison of a window as it is delivered (R195). -/
def State.plausCheck (s : State) (b : Nat) (w : Window) : State × Window :=
  if w.n < 2 ∨ w.cn < 2 then (s, w)
  else
    -- |(P − OFS_A) − (C − OFS_B)| > THR, exactly: means times 16·n·cn
    let dd := ((16 * w.sum - w.n * toSigned 32 w.ofsA) * w.cn - (16 * w.csum - w.cn * toSigned 32 w.ofsB) * w.n).natAbs
    let fails := decide (s.reg P.adcPlausThr b * 16 * w.n * w.cn < dd)
    let p := s.picker b
    let run := if fails then p.plausRun + 1 else 0
    let w := { w with plaus := fails }
    if fails ∧ s.reg P.adcPlausN b ≤ run then
      ((((s.setPicker b { p with plausRun := 0 }).bump P.adcPlausCnt b top32).report K.adcPlaus b s.epoch), w)
    else (s.setPicker b { p with plausRun := run }, w)

/-- The oldest closed window of bridge b is delivered when 200 ns have passed since it closed (R26). -/
def State.deliverOne (s : State) (b : Nat) : State :=
  let p := s.picker b
  match p.closed with
  | [] => s
  | w :: rest =>
    if s.epoch * 32 < w.close + 40 * 32 then s
    else
      let s := s.setPicker b { p with closed := rest }
      let (s, w) := s.plausCheck b w
      let s := s.captureWindow b w
      let p := s.picker b
      if w.tooLate then s else s.setPicker b { p with delivered := p.delivered ++ [w] }

/-- WINDOW_DELIVERED (R26, R195, R223). -/
def execWindowDelivered (b : Fin 4) (s : State) : Out := fin (if s.awake then s.deliverOne b.val else s)

/-- Every window whose delivery is due is delivered. -/
def State.deliverDue (s : State) (b : Nat) : Nat → State
  | 0 => s
  | n + 1 => State.deliverDue (s.deliverOne b) b n

/-! Reconstruction (R210 to R213). -/

/-- The measured windows that name phase i. -/
def namedBy (i : Nat) (ws : List Window) : List Window :=
  ws.filter (fun w => w.measured && (match windowPhase w with | some (j, _) => j == i | none => false))

/-- The combined value of one phase: weighted mean of its measured windows, their counted samples, and
the close of the last of them (R210). -/
def State.combine (s : State) (b i : Nat) (ws : List Window) : Option (F32 × Nat × Nat) :=
  let l := namedBy i ws
  let n := l.foldl (fun a w => a + w.n) 0
  if n = 0 then none
  else
    let total := l.foldl (fun a w =>
      let v := s.windowCurrent b w.sum w.n w.ofsA
      let v := match windowPhase w with | some (_, false) => F32.neg v | _ => v
      F32.add a (F32.mul (F32.ofNat w.n) v)) 0#32
    some (F32.div total (F32.ofNat n), n, (l.map (·.close)).foldl Nat.max 0)

/-- Phase currents from two or three combined phases: the phase left out, or the one with the fewest
counted samples, is minus the sum of the others (R212). -/
def completeThird (u v w : Option (F32 × Nat × Nat)) : F32 × F32 × F32 :=
  let m (a b : F32) : F32 := F32.neg (F32.add a b)
  match u, v, w with
  | some (a, _, _), some (b, _, _), none => (a, b, m a b)
  | some (a, _, _), none, some (c, _, _) => (a, m a c, c)
  | none, some (b, _, _), some (c, _, _) => (m b c, b, c)
  | some (a, na, ta), some (b, nb, tb), some (c, nc, tc) =>
    -- the fewest samples; among equals the one whose last window closed earliest
    let less (n1 t1 n2 t2 : Nat) : Bool := n1 < n2 || (n1 == n2 && t1 < t2)
    if less na ta nb tb && less na ta nc tc then (m b c, b, c)
    else if less nb tb nc tc then (a, m a c, c)
    else (a, b, m a b)
  | _, _, _ => (0#32, 0#32, 0#32)

/-- Status codes of SHUNT.STAT (R225). -/
abbrev Stat.measured : Nat := 0
abbrev Stat.carried : Nat := 1
abbrev Stat.predicted : Nat := 2
abbrev Stat.eclipse : Nat := 3
abbrev Stat.none : Nat := 4

/-- Status of bridge b at a sample boundary, and its currents where measured or eclipse (R211, R212). -/
def State.reconstruct (s : State) (b : Nat) (eclPhase : Option Nat) (compensating : Bool) : Nat × F32 × F32 × F32 :=
  let p := s.picker b
  let u := s.combine b 0 p.delivered
  let v := s.combine b 1 p.delivered
  let w := s.combine b 2 p.delivered
  let named := [u, v, w].countP Option.isSome
  let z := 0#32
  if !p.driven then (Stat.none, z, z, z)
  else
    let ecl : Option (F32 × F32 × F32) :=
      match eclPhase with
      | some 0 => (match v, w with
          | some (a, _, _), none => some (z, a, F32.neg a) | none, some (a, _, _) => some (z, F32.neg a, a)
          | some (a, _, _), some _ => some (z, a, F32.neg a) | none, none => none)
      | some 1 => (match u, w with
          | some (a, _, _), _ => some (a, z, F32.neg a) | none, some (a, _, _) => some (F32.neg a, z, a) | none, none => none)
      | some _ => (match u, v with
          | some (a, _, _), _ => some (a, F32.neg a, z) | none, some (a, _, _) => some (F32.neg a, a, z) | none, none => none)
      | none => none
    match ecl with
    | some (a, b', c) => (Stat.eclipse, a, b', c)
    | none =>
      if 2 ≤ named then let (a, b', c) := completeThird u v w; (Stat.measured, a, b', c)
      else if compensating then (Stat.carried, z, z, z) else (Stat.predicted, z, z, z)

/-- Missing-window accounting of a sample, once the status of every bridge is known (R214). -/
def State.countMiss (s : State) (d : Nat) (l : List SetIn) : State :=
  let s := s.each (l.filter (fun x => decide (x.key < 16) && x.status == Stat.predicted)) (fun s x => s.bump P.shuntMissCnt x.bridge top32)
  if l.any (fun x => x.status == Stat.predicted) then
    let n := satInc top8 (s.reg P.shuntMissRun d)
    if s.reg P.shuntMissMax d ≤ n then (s.setReg P.shuntMissRun d 0).report K.shuntMiss d s.epoch
    else s.setReg P.shuntMissRun d n
  else if l.any (fun x => x.status == Stat.carried) then s.bump P.shuntCarryCnt d top32
  else s.setReg P.shuntMissRun d 0

end Sys2Proof.Machine
end

