-- ==== Sys2Proof/Machine/Pwm.lean ====
section
/-! DEFINITION. The PWM generators: compares, dead time, overrides, forced levels, interlock, update
groups, sync chain, trips and debug halt (R135 to R177). -/

namespace Sys2Proof.Machine

/-- The update group that a reload tick keeps (R147). -/
def Carrier.keptOn (c : Carrier) (now : Nat) : Option Kept := c.kept.filter (fun k => k.tick == now)

/-- The present tick is a reload point of the drive that has not been taken (R22). -/
def State.atReloadPoint (s : State) (d : Nat) : Bool :=
  let c := (s.drv d).car
  s.pwr.mode == .full && s.pwm.halted.isNone && c.run && c.lastReload != some s.epoch
    && (c.cnt == 0 || (c.spp == 2 && c.cnt == c.half))

/-! Requests and commands. -/

/-- The "never" code, and every compare at or beyond the end of the period (R138). -/
def isNever (per c : Nat) : Bool := decide (per ≤ c / 32)

/-- The high-side request at position `t` (in fractions) of a period of `per` ticks (R139). -/
def requestAt (per a b t : Nat) : Bool :=
  if isNever per a then false
  else if isNever per b then decide (a ≤ t)
  else if a < b then decide (a ≤ t) && decide (t < b)
  else if b < a then decide (a ≤ t) || decide (t < b)
  else false

/-- The interlock group of a generator, ascending (R151). -/
def State.ilGroup (s : State) (g : Nat) : List Nat := setBits 12 (s.reg P.pwmIlMap g)
/-- The lowest-numbered member, whose compares, override and dead times the group follows (R151). -/
def State.ilLead (s : State) (g : Nat) : Nat := (s.ilGroup g).headD g

/-- Level to which latches force a generator, 0 none, 1 `off`, 2 `asc`, with the governing source (R165), or the
level held until the next reload (R168). -/
def State.latchLevel (s : State) (g : Nat) : Nat × Nat :=
  let x := s.gen g
  if bit x.fOff 10 then (1, 10)
  else if bit x.fOff 8 then (1, 8)
  else if bit x.fOff 9 then (1, 9)
  else if bit x.fOff 11 then (1, 11)
  else match setBits 14 x.fAsc with
    | src :: _ => (2, src)
    | [] => match setBits 14 x.fOff with
      | src :: _ => (1, src)
      | [] => (x.hold % 4, x.hold / 4)

/-- The generator holds all-off whatever is latched: no drive owns its bridge (R21), or the device is not in
FULL (R46, R135), but for a drive in `mw_hold` (R64). -/
def State.genIdle (s : State) (g : Nat) : Bool :=
  match s.ownerOf (g / 3) with
  | none => true
  | some d => s.pwr.mode != .full && !(s.awake && (s.drv d).phase == .mwHold)

/-- Level that a generator is held at, 0 none, 1 `off`, 2 `asc`; a bridge under block reset holds `off` where no
latch forces it (R16). -/
def State.forceLevel (s : State) (g : Nat) : Nat :=
  if s.genIdle g then 1
  else
    let l := (s.latchLevel g).1
    if l = 0 ∧ s.flt.blk.any (fun u => match u with | .bridge b => b.val == g / 3 | _ => false) = true then 1 else l

/-- Commands of GH and GL after override and forced level (R142, R145, R160). -/
def State.genCmd (s : State) (g : Nat) : Bool × Bool :=
  match s.forceLevel g with
  | 1 => (false, false)
  | 2 => (false, true)
  | _ =>
    let l := s.ilLead g
    match s.reg P.pwmOvr l with
    | 0 => ((s.gen l).req, !(s.gen l).req)
    | 2 => (false, true)
    | 3 => (true, false)
    | _ => (false, false)

/-- GH changes at `nowF`: the edge is stamped, and its on-time and command count for R376. -/
def Gen.turnH (x : Gen) (on : Bool) (nowF : Nat) : Gen :=
  if on then { x with gh := true, edgeH := nowF, onH := nowF, pendH := false, accN := x.accN + 1 }
  else { x with gh := false, offH := nowF, edgeH := nowF, accN := x.accN + 1, accH := x.accH + (nowF - Nat.max x.edgeH x.accAt) }

/-- GL changes at `nowF`. -/
def Gen.turnL (x : Gen) (on : Bool) (nowF : Nat) : Gen :=
  if on then { x with gl := true, edgeL := nowF, onL := nowF, pendL := false }
  else { x with gl := false, offL := nowF, edgeL := nowF, accL := x.accL + (nowF - Nat.max x.edgeL x.accAt) }

/-- The gates of one generator follow its commands at `nowF`: turn-offs at once, turn-ons after the
dead time of the gate that turns on; an abandoned turn-on counts in PWM.SHORT_CNT where a request edge
ends it (R142, R143, R164). -/
def State.driveGates (s : State) (g nowF : Nat) (countShort : Bool) : State :=
  let x := s.gen g
  if x.frozen then s
  else
    let (ch, cl) := s.genCmd g
    let l := s.ilLead g
    let lost := (x.pendH && !ch) || (x.pendL && !cl)
    let s := if lost && countShort then s.bump P.pwmShortCnt g top32 else s
    let x1 := if x.gh && !ch then x.turnH false nowF else x
    let x2 := if x1.gl && !cl then x1.turnL false nowF else x1
    let x3 :=
      if ch && !x2.gh then
        (if x2.offL + s.reg P.pwmDtRise l ≤ nowF then x2.turnH true nowF
         else { x2 with pendH := true })
      else { x2 with pendH := false }
    let x4 :=
      if cl && !x3.gl then
        (if x3.offH + s.reg P.pwmDtFall l ≤ nowF then x3.turnL true nowF
         else { x3 with pendL := true })
      else { x3 with pendL := false }
    s.setGen g x4

/-- The generator interlock of a group: a high side with a low side of the group turns every gate of it
off, and XCMD is raised for each member as the conflict begins (R150, R151). -/
def State.interlock (s : State) (grp : List Nat) (nowF : Nat) : State :=
  let clash := grp.any (fun g => (s.gen g).gh) && grp.any (fun g => (s.gen g).gl)
  if clash then
    s.each grp (fun s g =>
      let x := s.gen g
      let y := if x.gh then x.turnH false nowF else x
      let y := if y.gl then y.turnL false nowF else y
      let s := s.setGen g { y with pendH := false, pendL := false, conflict := true }
      if x.conflict then s else (s.report K.xcmd g (nowF / 32) (some (nowF % 32))).eclForced (g / 3))
  else s.each grp (fun s g => s.modGen g (fun x => { x with conflict := false }))

/-- Some generator of the bridge is neither floated, overridden nor forced (R211). -/
def State.drivenNow (s : State) (b : Nat) : Bool :=
  (gensOfBridge b).any (fun g => s.forceLevel g == 0 && s.reg P.pwmOvr (s.ilLead g) == 0)

/-- The gates of the generators' interlock groups follow their commands (R140, R151); an abandoned turn-on counts for
the generators of `short` (R143). -/
def State.moveGates (s : State) (gs : List Nat) (nowF : Nat) (short : List Nat) : State :=
  s.each gs (fun s g =>
    let grp := s.ilGroup g
    (s.each grp (fun s g => s.driveGates g nowF (short.contains g))).interlock grp nowF)

/-- The gates of a generator have changed since they stood as `before` gives. -/
def State.gateMoved (s : State) (before : Smap Gen) (g : Nat) : Bool :=
  let x := Smap.get (fun _ => {}) before g
  let y := s.gen g
  x.gh != y.gh || x.gl != y.gl || x.pendH != y.pendH || x.pendL != y.pendL

/-- The window pickers see what has changed since the gates stood as `before` gives (R205, R211). -/
def State.seeEdges (s : State) (before : Smap Gen) (nowF : Nat) : State :=
  s.each (List.range 4) (fun s b =>
    let s := s.setPicker b { s.picker b with driven := (s.picker b).driven || s.drivenNow b }
    if (gensOfBridge b).any (fun g => s.gateMoved before g) then s.pickerEdge b nowF else s)

/-- The bootstrap that holds GH off is still below its falling threshold: it charges only through its low side, which
has not been on since (R328, R329, R333). -/
def State.bstStillLow (s : State) (g : Nat) : Bool :=
  match (s.chan g).bst with
  | some t => !(s.gen g).gl && decide ((s.gen g).edgeL ≤ t)
  | none => false

/-- A turn-on command of a GH that is held off under R333: the hold ends where it finds the bootstrap above its rising
threshold, which a free value tells once the low side has been on. -/
def State.bstTurnOn (s : State) (g : Nat) : State :=
  if (s.chan g).bst.isNone || s.bstStillLow g then s
  else
    let (f, s) := s.takeFree
    if bit f.toNat 0 then (s.setChan g { s.chan g with bst := none }).unlive K.bstUv g else s

/-- The turn-ons of GH since the gates stood as `before` gives reach the holds of the driver dies. -/
def State.bstTurnOns (s : State) (before : Smap Gen) : State :=
  s.each (List.range 12) (fun s g =>
    if (s.gen g).gh && !(Smap.get (fun _ => ({} : Gen)) before g).gh then s.bstTurnOn g else s)

/-- The gates of a list of generators follow their commands; the driver dies and the window pickers see every change
(R140, R205, R333). -/
def State.applyGens (s : State) (gs : List Nat) (nowF : Nat) (short : List Nat) : State :=
  ((s.moveGates gs nowF short).bstTurnOns s.pwm.gens).seeEdges s.pwm.gens nowF

/-- Position of a drive's counter in fractions, with a fraction of the present tick. -/
def State.posF (s : State) (d frac : Nat) : Nat := (s.drv d).car.cnt * 32 + frac

/-- The epoch in fractions. -/
def State.nowF (s : State) : Nat := s.epoch * 32

/-- The request of a generator for the set in force at the start of a tick (R140). -/
def State.setReq (s : State) (d g : Nat) : State :=
  s.modGen g (fun x => { x with req := requestAt (s.drv d).car.per (s.reg P.pwmCmpa g) (s.reg P.pwmCmpb g) (s.posF d 0) })

/-- COMPARE_EDGE (R140): the count has reached CMPA or CMPB of the set in force, at this fraction. -/
def execCompareEdge (g : Fin 12) (frac : Fin 32) (s : State) : Out :=
  fin (
    match s.ownerOf (g.val / 3) with
    | none => s
    | some d =>
      let c := (s.drv d).car
      let t := s.posF d frac.val
      let a := s.reg P.pwmCmpa g.val
      let b := s.reg P.pwmCmpb g.val
      if s.pwr.mode = .full ∧ s.pwm.halted = none ∧ c.run = true ∧ (t = a ∨ t = b) ∧ a / 32 < c.per ∧ a ≠ 0x1FFFFF then
        let x := s.gen g.val
        let r := requestAt c.per a b t
        if x.req = r then s
        else ((s.setGen g.val { x with req := r }).applyGens [g.val] (s.nowF + frac.val) (s.ilGroup g.val))
      else s)

/-- DEAD_TIME_END (R142): a pending turn-on whose dead time has run takes place. -/
def execDeadTimeEnd (g : Fin 12) (s : State) : Out :=
  fin (
    let x := s.gen g.val
    let l := s.ilLead g.val
    let dueH := x.offL + s.reg P.pwmDtRise l
    let dueL := x.offH + s.reg P.pwmDtFall l
    if s.pwm.halted.isSome && x.frozen then s
    else if x.pendH && decide (dueH ≤ s.nowF + 31) then s.applyGens [g.val] (Nat.max dueH s.nowF) []
    else if x.pendL && decide (dueL ≤ s.nowF + 31) then s.applyGens [g.val] (Nat.max dueL s.nowF) []
    else s)

/-! Forcing (R160 to R168). -/

/-- A source forces generators: its latch bit is set in each with the level (1 `off`, 2 `asc`), pending
turn-ons are abandoned without a count, and the gates follow (R163, R164). -/
def State.force (s : State) (src level nowF : Nat) (gs : List Nat) : State :=
  let before := s.pwm.gens
  let s := s.each gs (fun s g => s.modGen g (fun x =>
    if level = 2 then { x with fAsc := x.fAsc ||| 2 ^ src } else { x with fOff := x.fOff ||| 2 ^ src }))
  let s := s.each gs (fun s g => s.modGen g (fun x => { x with frozen := false, pendH := false, pendL := false }))
  ((s.moveGates gs nowF []).seeEdges before nowF).each (gs.map (· / 3)).eraseDups (fun s b => s.eclForced b)

/-- A source's latch is cleared for generators: where it was the last one, the level is held until the
drive's next reload point (R168); where others are left, they govern at once (R165). -/
def State.unforce (s : State) (src : Nat) (gs : List Nat) : State :=
  (s.each gs (fun s g =>
    let (lvl, by_) := s.latchLevel g
    let x := s.gen g
    let off := putBit x.fOff src false
    let asc := putBit x.fAsc src false
    if bit x.fOff src || bit x.fAsc src then
      s.setGen g { x with fOff := off, fAsc := asc, hold := if off = 0 ∧ asc = 0 then lvl + 4 * by_ else x.hold }
    else s)).applyGens gs s.nowF []

/-- A latch of this source is set on some generator. -/
def State.forcedBy (s : State) (src : Nat) (gs : List Nat) : Bool :=
  gs.any (fun g => bit (s.gen g).fOff src || bit (s.gen g).fAsc src)

/-- A trip latch (source 0 to 13) forces one of the drive's generators (R252). -/
def State.anyForced (s : State) (d : Nat) : Bool :=
  (s.gensOf d).any (fun g => (s.gen g).fOff != 0 || (s.gen g).fAsc != 0)

/-- SAFE of PWM.TRIP_CFG resolved for the drive of a generator (R161): 1 `off`, 2 `asc`. -/
def State.safeLevel (s : State) (safe g : Nat) : Nat :=
  if safe = 1 then 2
  else if safe = 2 then
    (match s.ownerOf (g / 3) with | some d => if (s.drv d).asc then 2 else 1 | none => 1)
  else 1

/-- First tick at which a raw edge is sampled (R162). -/
def TripSt.firstSample (x : TripSt) : Nat := if x.frac = 0 then x.raw else x.raw + 1

/-- TRIPt is sampled (R162). -/
def State.tripSample (s : State) (t : Nat) (active : Bool) : State :=
  if s.tripLevel t == active then s
  else
    let s := s.setBit P.pwmTripStat 0 (8 + t) active
    if active then s else (s.setTrip t { s.trip t with fired := false }).unlive K.trip t

/-- The trip inputs are sampled at the start of a tick, after POL (R162). -/
def State.sampleTrips (s : State) : State :=
  s.each (List.range 8) (fun s t => s.tripSample t ((s.trip t).pin != bit (s.reg P.pwmTripCfg t) 1))

/-- TRIP_RAW_EDGE (R38, R162): the pin changes. An active edge after an inactive sample begins a run of active samples
and is stamped with epoch and fraction; an edge at the start of a tick is in that tick's sample. -/
def execTripRawEdge (t : Fin 8) (level : Bool) (frac : Fin 32) (s : State) : Out :=
  fin (
    let x := { s.trip t.val with pin := level }
    if !s.awake then s.setTrip t.val x
    else
      let active := level != bit (s.reg P.pwmTripCfg t.val) 1
      let begins := active && !s.tripLevel t.val
      let s := s.setTrip t.val (if begins then { x with raw := s.epoch, frac := frac.val, fired := false } else x)
      if frac.val = 0 then s.tripSample t.val active else s)

/-- The trip input has EN = 1 from this tick: an active input counts as having its raw edge now (R162). -/
def State.tripEnabled (s : State) (t : Nat) : State :=
  if s.tripLevel t then s.setTrip t { s.trip t with raw := s.epoch, frac := 0, fired := false } else s

/-- A trip source sets its latch, which forces the generators of PWM.TRIP_MAP to the levels that PWM.TRIP_CFG resolves
to on this tick (R161, R163); a latch that is set keeps its generators and their levels. -/
def State.tripLatch (s : State) (t : Nat) : State :=
  if bit (s.reg P.pwmTripStat 0) t then s
  else
    let gs := setBits 12 (s.reg P.pwmTripMap t)
    let lv (g : Nat) : Nat := s.safeLevel (bits (s.reg P.pwmTripCfg t) 2 2) g
    let off := gs.filter (fun g => lv g == 1)
    let asc := gs.filter (fun g => lv g == 2)
    ((s.setBit P.pwmTripStat 0 t true).force t 1 s.nowF off).force t 2 s.nowF asc

/-- TRIP_FILTERED_EDGE (R162, R163): the input has been active on FILT + 1 samples. -/
def execTripFilteredEdge (t : Fin 8) (s : State) : Out :=
  fin (
    let cfg := s.reg P.pwmTripCfg t.val
    let x := s.trip t.val
    let edge := x.firstSample + bits cfg 8 8
    if s.awake && bit cfg 0 && s.tripLevel t.val && !x.fired && decide (edge ≤ s.epoch) then
      ((s.setTrip t.val { x with fired := true }).tripLatch t.val).report K.trip t.val edge none
        ((edge - x.raw) % 2 ^ 16 + x.frac * 2 ^ 16)
    else s)

/-- TRIP_CLEAR (R167). -/
def bodyTripClear (s : State) (c : Cmd) (pl : List Byte) : State × Reply :=
  if 7 < c.inst then (s, .refuse St.badInst)
  else if pl.length ≠ 0 then (s, .refuse St.length)
  else if s.tripLevel c.inst then (s.bump P.pwmClearRefused c.inst top16, .refuse St.causeActive)
  else if bit (s.reg P.pwmTripStat 0) c.inst then
    ((s.setBit P.pwmTripStat 0 c.inst false).unforce c.inst (List.range 12), .ok [])
  else (s, .ok [])

def execTripClear (h : Hdr) (pl : List Byte) (s : State) : Out := runCommand h 0x1001 pl s bodyTripClear

/-! Update groups (R146 to R149). -/

/-- The shadow sets of a drive's generators, as `Kept` lists them. -/
def State.shadowSets (s : State) (d : Nat) : List (Nat × Nat × Nat × Nat) :=
  (s.gensOf d).map (fun g => (g, (s.gen g).shA, (s.gen g).shB, (s.gen g).shOvr))

/-- What is written on a reload tick belongs to the following reload point: the group as it stands is kept for the
present one (R147). -/
def State.keepGroup (s : State) (d : Nat) : State :=
  let c := (s.drv d).car
  if s.atReloadPoint d && (c.keptOn s.epoch).isNone then
    s.modDrv d (fun x => { x with car := { x.car with commit := false, kept := some ⟨s.epoch, c.commit, s.shadowSets d⟩ } })
  else s

/-- A shadow write: with the flag set it clears the flag and counts (R147). -/
def State.shadowWrite (s : State) (d : Nat) (f : State → State) : State :=
  let s := s.keepGroup d
  let s := if (s.drv d).car.commit then
      (s.bump P.pwmUpdBroken d top32).modDrv d (fun x => { x with car := { x.car with commit := false } })
    else s
  f s

/-- The commit flag of a drive's update group is set (R147). -/
def State.setCommit (s : State) (d : Nat) : State :=
  (s.keepGroup d).modDrv d (fun x => { x with car := { x.car with commit := true } })

/-- UPD_COMMIT (R149): in test mode a write of 1 sets the commit flag. -/
def execUpdCommit (d : Fin 4) (s : State) : Out :=
  fin (if s.serving && s.reg P.pwmTestEn d.val == 1 then s.setCommit d.val else s)

/-- Step 1 of R23: the committed set loads into every generator of the drive, or the set in force
repeats (R146). `loaded` says which. -/
def State.loadSet (s : State) (d : Nat) : State × Bool :=
  let c := (s.drv d).car
  let kept := c.keptOn s.epoch
  let s := s.modDrv d (fun x => { x with car := { x.car with kept := none, floatNext := false, commit := if kept.isSome then c.commit else false } })
  if c.floatNext then (s.each (s.gensOf d) (fun s g => s.setReg P.pwmOvr g 1), true)
  else if (kept.map (·.commit)).getD c.commit then
    (s.each ((kept.map (·.sets)).getD (s.shadowSets d)) (fun s x =>
      ((s.setReg P.pwmCmpa x.1 x.2.1).setReg P.pwmCmpb x.1 x.2.2.1).setReg P.pwmOvr x.1 x.2.2.2), true)
  else (s.bump P.pwmRepeatCnt d top32, false)

/-- Generators of a drive whose gates follow the request: neither overridden nor held at a level. -/
def State.requested (s : State) (d : Nat) : List Nat :=
  (s.gensOf d).filter (fun g => s.forceLevel g == 0 && s.reg P.pwmOvr (s.ilLead g) == 0)

/-- After the load the requests follow the set in force on the reload tick, held levels end, and the
gates follow (R140, R168). A request pulse or gap that ends here before its dead time counts where the generator of
`was` followed its request before the load, and does after it (R143). -/
def State.reloadGates (s : State) (d : Nat) (was : List Nat) : State :=
  let gs := s.gensOf d
  let taps := s.reg P.timeDlTaps 0
  let s := s.each gs (fun s g => (s.modGen g (fun x => { x with hold := 0, taps := some taps })).setReq d g)
  let s := s.applyGens gs s.nowF ((s.requested d).filter was.contains)
  s.each (s.bridges d) (fun s b => s.setPicker b { s.picker b with driven := s.drivenNow b })

/-! Counters (R135 to R137, R153, R155). -/

/-- The counter of a drive started at 0, `back` ticks ago (R136, R156). -/
def State.startCounter (s : State) (d back : Nat) : State :=
  let per := s.reg P.pwmPeriod d
  s.modDrv d (fun x => { x with car := { x.car with
    run := true, cnt := back % per, len := per, per := per, prev := per, half := per / 2, spp := s.reg P.engSpp d, corr := 0, waitPulse := false } })

/-- One tick of a drive's counter: at the end of the period it returns to 0 and the next period takes
PERIOD, SPP and the correction c (R135, R136, R155). -/
def State.tickCounter (s : State) (d : Nat) : State :=
  let c := (s.drv d).car
  if !c.run then s
  else if c.cnt + 1 < c.len then s.modDrv d (fun x => { x with car := { x.car with cnt := c.cnt + 1 } })
  else
    let per := s.reg P.pwmPeriod d
    s.modDrv d (fun x => { x with car := { x.car with
      cnt := 0, per := per, half := per / 2, len := ((per : Int) + c.corr).toNat, prev := c.len, corr := 0, spp := s.reg P.engSpp d } })

/-- A drive takes a configuration that gives it a role other than `off`: its counter starts, or waits for P_b
(R136). -/
def State.roleTaken (s : State) (d : Nat) : State :=
  if s.role d != 0 && s.pwr.mode == .full then
    (if s.reg P.pwmSyncMode d == 1 then
      s.modDrv d (fun x => { x with car := { x.car with run := false, waitPulse := true, pulse := s.epoch } })
     else s.startCounter d 0)
  else s.modDrv d (fun x => { x with car := { x.car with run := false, waitPulse := false } })

/-- Pulse P_b falls on a tick: it joins those that are on their way (R153). -/
def State.addPulse (s : State) (b at_ : Nat) : State :=
  { s with pwm := { s.pwm with pulses := Smap.set (fun _ => []) s.pwm.pulses b (Smap.get (fun _ => []) s.pwm.pulses b ++ [at_]) } }

/-- The chain reference falls: P_0 follows SYNC_DLY[0] ticks later (R153). -/
def State.chainRef (s : State) (at_ : Nat) : State := s.addPulse 0 (at_ + s.reg P.pwmSyncDly 0)

/-- SYNC_CHAIN_WRAP (R153): the chain counter wraps in `self`. -/
def execSyncChainWrap (s : State) : Out :=
  fin (if s.pwr.mode == .full && s.pwm.halted.isNone && s.reg P.pwmSyncSrc 0 == 0 && s.pwm.chain == 0 then s.chainRef s.epoch else s)

/-- The edge of SYNC_IN is filtered on this tick: in the manner of the trip filter, FILT ticks after the first sample
that sees it (R158, R162). -/
def State.syncFiltered (s : State) (rawAgo frac : Nat) : Bool :=
  rawAgo == bits (s.reg P.pwmSyncInCfg 0) 2 4 + (if frac = 0 then 0 else 1)

/-- SYNC_IN_EDGE (R158): an edge of SYNC_IN that began `rawAgo` ticks and a fraction ago has passed the filter. The
raw edge of the active one is stamped, and the reference is that stamp minus SYNC_IN_COMP, rounded to the nearest
tick. -/
def execSyncInEdge (rawAgo : Half) (frac : Fin 32) (s : State) (rising : Bool := true) : Out :=
  fin (
    let raw := (s.epoch - rawAgo.toNat) * 32 + frac.val
    if !s.awake || rising == bit (s.reg P.pwmSyncInCfg 0) 1 || !s.syncFiltered rawAgo.toNat frac.val then s
    else
      let s := { s with pwm := { s.pwm with syncIn := raw } }
      if s.pwr.mode == .full && s.pwm.halted.isNone && s.reg P.pwmSyncSrc 0 == 1 && bit (s.reg P.pwmSyncInCfg 0) 0 then
        s.chainRef ((raw + 16) / 32 - s.reg P.pwmSyncInComp 0)
      else s)

/-- The phase error of a lock drive at a pulse (R155). -/
def phaseError (v per : Nat) : Int := if v ≤ per / 2 then (v : Int) else (v : Int) - per

/-- The counter's value `back` ticks ago. -/
def Carrier.before (c : Carrier) (back : Nat) : Nat := if back ≤ c.cnt then c.cnt - back else c.prev + c.cnt - back

/-- The pulse of `back` ticks ago reaches one lock drive whose lowest bridge is b (R155 to R157); in a debug halt its
counter stands (R171). -/
def State.pulseDrive (s : State) (b d back : Nat) : State :=
  let x := s.drv d
  let s := (s.unlive K.syncLoss b).modDrv d (fun x => { x with car := { x.car with pulse := s.epoch - back, lost := false } })
  if s.pwm.halted.isSome then s
  else if x.phase = .stopped ∨ x.car.waitPulse then s.startCounter d back
  else
    let e := phaseError (x.car.before back) x.car.per
    let step : Int := s.reg P.pwmSyncStep 0
    let s := s.modDrv d (fun x => { x with car := { x.car with corr := clampInt (-step) step e } })
    if (s.reg P.pwmSyncWin 0 : Int) < e.natAbs then (s.bump P.pwmSyncPhaseCnt d top32).report K.syncPhase b s.epoch else s

/-- SYNC_PULSE (R153, R155, R156, R159): pulse P_b falls. -/
def execSyncPulse (b : Fin 4) (s : State) : Out :=
  fin (
    match Smap.get (fun _ => []) s.pwm.pulses b.val with
    | [] => s
    | t :: rest =>
      if s.epoch < t ∨ s.pwr.mode ≠ .full then s
      else
        let out := bit (s.reg P.pwmSyncOutCfg 0) 0 && bits (s.reg P.pwmSyncOutCfg 0) 1 2 == b.val
        let s := { s with pwm := { s.pwm with pulses := Smap.set (fun _ => []) s.pwm.pulses b.val rest,
                                              syncOut := if out then some s.epoch else s.pwm.syncOut } }
        let s := if b.val < 3 then s.addPulse (b.val + 1) (t + s.reg P.pwmSyncDly (b.val + 1)) else s
        s.each (List.range 4) (fun s d =>
          if s.computes d && s.lowBridge d == b.val && s.reg P.pwmSyncMode d == 1 then s.pulseDrive b.val d (s.epoch - t) else s))

/-- SYNC_LOSS_TIMEOUT (R157): no pulse for two SYNC_PERIODs. -/
def execSyncLossTimeout (d : Fin 4) (s : State) : Out :=
  fin (
    let c := (s.drv d.val).car
    if s.pwr.mode == .full && s.computes d.val && s.reg P.pwmSyncMode d.val == 1 && !c.lost
        && expired c.pulse (2 * s.reg P.pwmSyncPeriod 0) s.epoch then
      let s := s.modDrv d.val (fun x => { x with car := { x.car with lost := true, corr := 0 } })
      (s.bump P.pwmSyncLossCnt d.val top32).report K.syncLoss (s.lowBridge d.val) s.epoch
    else s)

/-- SYNC_OUT: a pulse of 20 ticks, with POL (R159). -/
def State.syncOutPin (s : State) : Bool :=
  let active := bit (s.reg P.pwmSyncOutCfg 0) 0 && (match s.pwm.syncOut with | some t => decide (s.epoch < t + 20) | none => false)
  active != bit (s.reg P.pwmSyncOutCfg 0) 3

/-! Debug halt (R171 to R175). -/

/-- The device halts at the end of this tick: guarded generators go to their level, the others stand still, and open
windows close (R171, R172, R209). -/
def State.haltDevice (s : State) : State :=
  let set := s.reg P.pwmGuardSet 0
  let guarded := setBits 12 set
  let others := (List.range 12).filter (fun g => !guarded.contains g)
  let s := s.each (List.range 4) (fun s b => s.pickerHalt b (s.nowF + 32))
  let s := { s with pwm := { s.pwm with halted := some s.epoch, haltReq := false, guardChop := bits set 12 2 } }
  let s := s.setReg P.pwmHaltStat 0 1
  let s := s.each others (fun s g => s.modGen g (fun x => { x with frozen := true }))
  let s := s.each (List.range 4) (fun s b => s.eclForced b)
  s.force 13 (if s.reg P.pwmGuardSafe 0 = 1 then 2 else 1) (s.nowF + 32) guarded

/-- DEBUG_HALT (R171, R481): the halt takes effect at the end of this tick. A halt of the satellite core alone halts no
generator. -/
def execDebugHalt (scope : HaltScope) (s : State) : Out :=
  fin (
    match scope with
    | .satellite => if s.awake && bits (s.reg P.secStat 0) 4 2 != 0 then { s with pwm := { s.pwm with satHalt := true } } else s
    | .full =>
      if !s.awake || s.pwm.halted.isSome || bits (s.reg P.secStat 0) 4 2 != 2 then s
      else { s with pwm := { s.pwm with haltReq := true } })

/-- The device resumes after a halt that began on tick t0 (R174). -/
def State.resumeDevice (s : State) (t0 : Nat) : State :=
  let stood := (s.epoch - t0) * 32
  let s := s.each (List.range 12) (fun s g => s.modGen g (fun x =>
    if x.frozen then { x with frozen := false, offH := x.offH + stood, offL := x.offL + stood } else x))
  let s := s.unforce 13 (setBits 12 (s.reg P.pwmGuardSet 0))
  let s := { s with pwm := { s.pwm with halted := none, satHalt := false, guardChop := 0 } }
  let s := s.setReg P.pwmHaltStat 0 0
  let s := s.each [0, 1] (fun s c => s.setChop c { s.chop c with check := (s.chop c).check.map (· + (s.epoch - t0)) })
  s.event .other 0x5001 0 0 s.epoch (leBytes 8 t0 ++ leBytes 8 s.epoch)

/-- DEBUG_RESUME (R174): counters go on, the remainders of the dead times run, the guard source ends and
DBG_RESUMED is written. -/
def execDebugResume (s : State) : Out :=
  fin (
    match s.pwm.halted with
    | none => { s with pwm := { s.pwm with satHalt := false, haltReq := false } }
    | some t0 => s.resumeDevice t0)

/-- PWM.FORCE_STAT[g] (R177). -/
def State.forceStat (s : State) (g : Nat) : Nat :=
  let (lvl, src) := s.latchLevel g
  lvl + src * 4 + (s.gen g).frozen.toNat * 64 + (bit (s.reg P.pwmGuardSet 0) g && s.pwm.halted.isSome).toNat * 128

/-- PWM.UPD_STAT[d] (R177). -/
def State.updStat (s : State) (d : Nat) : Nat :=
  let c := (s.drv d).car
  c.commit.toNat + (s.reg P.pwmTestEn d) * 2 + c.run.toNat * 4

end Sys2Proof.Machine
end

