-- ==== Sys2Proof/Machine/Bus.lean ====
section
/-! DEFINITION. The bus block: measured voltage, thresholds, regenerative allowance, loss braking, brake
choppers and the OV4 active short (R358 to R369). -/

namespace Sys2Proof.Machine

/-- A code of R180 lies at or above a threshold in 0.1 V. -/
def codeAbove (code thr : Nat) : Bool := decide (thr * 16384 ≤ code * 3000)
/-- Voltage of a code of R180. -/
def codeVolts (code : Nat) : F32 := F32.ofFrac (code * 300 : Nat) 16384
/-- A threshold in 0.1 V, in V. -/
def tenths (n : Nat) : F32 := F32.ofFrac n 10

/-- I_therm[d] of R385: FOC.I_MAX until the first round end, then the value of the last one; for a `home`
drive bounded by the members' factors as well. -/
def State.iTherm (s : State) (d : Nat) : F32 :=
  let local_ := if s.therm.fb.isEmpty then s.f P.focIMax d else s.f P.thermITherm d
  match Smap.get (fun _ => none) s.therm.member d with
    | some m => if s.role d = 2 then F32.min local_ (F32.mul (s.f P.focIMax d) m) else local_
    | none => local_

def State.chopEn (s : State) (c : Nat) : Bool := bit (s.reg P.busChopCfg c) 0
def State.chopGroup (s : State) (c : Nat) : Nat := bits (s.reg P.busChopCfg c) 1 2
/-- A CHOP_FAIL record of chopper c is uncleared (R366). -/
def State.chopFail (s : State) (c : Nat) : Bool := s.hasCause K.chopFail c || s.hasCause K.chopFail (c + 2)
/-- BK of the chopper is commanded on. -/
def State.bkOn (s : State) (c : Nat) : Bool := s.awake && (s.chop c).on && !bit s.pwm.guardChop c && (s.die c).up
/-- The chopper's desaturation comparator is active: while its two-step turn-off runs (R365). -/
def State.chopDesat (s : State) (c : Nat) : Bool :=
  match (s.chop c).desat with
  | some t => decide (s.epoch < t + 40 + 20 * bits (s.reg P.gateSoftCfg (2 * c)) 4 5)
  | none => false

/-- V_top of R361 in 0.1 V. -/
def State.vTop (s : State) (n : Nat) : Nat :=
  let low := [0, 1].any (fun c => s.chopGroup c == n && (s.chopFail c || (s.chopEn c && !(s.die c).up)))
  if low then s.reg P.busOv2 n else s.reg P.busOv3 n

/-- The REPORTs that the members of a home drive last sent, as payloads (R459, R460). -/
def State.memberReports (s : State) (d : Nat) : List (List Byte) :=
  if s.role d ≠ 2 then []
  else s.link.reports.filterMap (fun (k, x) => if k % 4 = d then x.map (·.2) else none)

/-- V_top of a drive of group n, to which a reported CHOP_FAIL counts as one of the group (R361, R460). -/
def State.vTopOf (s : State) (n d : Nat) : Nat :=
  if (s.memberReports d).any (fun pl => bit (fieldAt pl 5 1) 3) then s.reg P.busOv2 n else s.vTop n

/-- P_bus and I_LB of every drive of group n (R361, R362); for a home drive with what its members report (R460). -/
def State.regen (s : State) (n : Nat) : State :=
  match (s.grp n).hi with
  | none => s
  | some hi =>
    s.each (s.groupDrives n) (fun s d =>
      let reps := s.memberReports d
      let v := reps.foldl (fun a pl => F32.max a (BitVec.ofNat 32 (fieldAt pl 8 4))) (codeVolts hi)
      let top := tenths (s.vTopOf n d)
      let k := if (s.grp n).ov4Latch || reps.any (fun pl => bit (fieldAt pl 5 1) 2) then 0#32
        else F32.clamp (F32.div (F32.sub top v) (F32.sub top (tenths (s.reg P.busOv1 n)))) 0#32 F32.one
      let perm := F32.min (s.f P.gateAscIMax d) (s.iTherm d)
      let lb := F32.clamp (F32.mul (s.f P.busLbK d) (F32.sub v top)) 0#32 perm
      (s.setF P.busPBus d (F32.mul k (s.f P.focPGenMax d))).setF P.busILb d lb)

/-- A digital overvoltage level (R360). -/
def levelOv (on : Bool) (hi thr hyst : Nat) : Bool :=
  if on then !decide (hi * 3000 ≤ (thr - hyst) * 16384) else codeAbove hi thr

/-- The chopper follows one evaluation of its group (R364, R365). `code` is the sample, valid or over
range. -/
def State.evalChop (s : State) (n c hi : Nat) (code : Option Nat) : State :=
  let x := s.chop c
  -- a debug halt freezes a chopper outside the guarded set (R171)
  if s.pwm.halted.isSome && !bit s.pwm.guardChop c then s
  else if !(s.chopEn c && s.chopGroup c == n && (s.die c).up && !bit s.pwm.guardChop c && !s.chopFail c) then
    s.setChop c { x with on := false, check := none }
  else if !x.on then
    (if codeAbove hi (s.reg P.busOv2 n) then
      (s.bump P.busChopOnCnt c top32).setChop c { x with on := true, onAt := s.epoch, check := some s.epoch, peak := code.getD 0 }
     else s)
  else if hi * 3000 ≤ (s.reg P.busOv2 n - s.reg P.busHyst n) * 16384 then s.setChop c { x with on := false, check := none }
  else match x.check, code with
    | some t, some v =>
      let peak := Nat.max x.peak v
      let pass := decide (v * 3000 + s.reg P.busChopDv c * 16384 ≤ peak * 3000) && decide (s.epoch ≤ t + usTicks (s.reg P.busChopCheck c))
      s.setChop c { x with peak := peak, check := if pass then none else some t }
    | _, _ => s

/-- The two undervoltage levels of group n at V_lo (R360). -/
def State.evalUv (s : State) (n lo : Nat) : State :=
  let g := s.grp n
  let below (thr : Nat) (at_ : Option Nat) : Option Nat :=
    if codeAbove lo thr then none else some (at_.getD s.epoch)
  let end1 := g.uv1 && codeAbove lo (s.reg P.busUv1 n + s.reg P.busHyst n)
  let end2 := g.uv2 && codeAbove lo (s.reg P.busUv2 n + s.reg P.busHyst n)
  let s := s.setGrp n { g with uv1At := below (s.reg P.busUv1 n) g.uv1At, uv2At := below (s.reg P.busUv2 n) g.uv2At,
                               uv1 := g.uv1 && !end1, uv2 := g.uv2 && !end2 }
  let s := if end1 then s.unlive K.busUv1 n else s
  if end2 then s.unlive K.busUv2 n else s

/-- A drive that cannot take P_bus or I_LB: current control at the host, or a run of START (R363). -/
def State.cannotRegen (s : State) (d : Nat) : Bool :=
  let p := (s.drv d).phase
  s.computes d && p != .stopped && (s.hostMode P.focCurMode d || p == .align || p == .openLoop)

/-- One evaluation of group n (R359 to R366). -/
def State.evalGroup (s : State) (n : Nat) (code : Option Nat) : State :=
  let vs := ((List.range 4).filter (fun b => s.reg P.busGroup b == n)).filterMap (fun b => Smap.get (fun _ => none) s.bus.vbus b)
  match vs with
  | [] => s
  | v0 :: rest =>
    let hi := rest.foldl Nat.max v0
    let lo := rest.foldl Nat.min v0
    let s := (s.setF P.busVHi n (codeVolts hi)).setF P.busVLo n (codeVolts lo)
    let h := s.reg P.busHyst n
    let g := s.grp n
    let ov3 := levelOv g.ov3 hi (s.reg P.busOv3 n) h
    let s := s.setGrp n { g with hi := some hi, lo := some lo, ov1 := levelOv g.ov1 hi (s.reg P.busOv1 n) h,
                                 ov2 := levelOv g.ov2 hi (s.reg P.busOv2 n) h, ov3 := ov3 }
    let s := s.evalUv n lo
    let s := s.follow K.busOv3 n s.epoch ov3
    let s := s.each [0, 1] (fun s c => if s.chopGroup c = n then s.evalChop n c hi code else s)
    let s := s.regen n
    s.each ((s.groupDrives n).filter s.cannotRegen) (fun s d =>
      if codeAbove hi (s.vTopOf n d) then s.registerAction 2 d 0 else s)

/-- A VBUS sample of bridge b with INV = 0 reaches the bus block; one with ORNG = 1 counts as lying above
every threshold (R184, R359). -/
def State.busSample (s : State) (b code : Nat) (orng : Bool) : State :=
  let v := if orng then 0x3FFF else code
  ({ s with bus := { s.bus with vbus := Smap.set (fun _ => none) s.bus.vbus b (some v) } }).evalGroup
    (s.reg P.busGroup b) (if orng then none else some code)

/-- UV_FILT_EXPIRY (R360, R369). -/
def execUvFiltExpiry (n : Fin 4) (uv2 : Bool) (s : State) : Out :=
  fin (
    let g := s.grp n.val
    let due (at_ : Option Nat) : Bool := match at_ with
      | some t => expired t (usTicks (s.reg P.busUvFilt n.val)) s.epoch | none => false
    if !s.awake then s
    else if uv2 then
      (if !g.uv2 && due g.uv2At then (s.setGrp n.val { g with uv2 := true }).report K.busUv2 n.val s.epoch else s)
    else
      (if !g.uv1 && due g.uv1At then (s.setGrp n.val { g with uv1 := true }).report K.busUv1 n.val s.epoch else s))

/-- The test of this comparator of a die (0 CD, 1 DA, 2 DB) is due at `now` (R350). -/
def SelfTest.underWay (t : SelfTest) (die code now : Nat) : Bool :=
  t.dies.contains die && (Smap.get (fun _ => none) t.aborted die).isNone
    && decide (t.start + 2000 * code ≤ now) && decide (now < t.start + 2000 * (code + 1))

/-- The latest valid VBUS sample of bridge b lies below OV2 of its group (R350). -/
def State.ov4Testable (s : State) (b : Nat) : Bool :=
  match (s.checker b).vbus with
  | some v => !codeAbove v (s.reg P.busOv2 (s.reg P.busGroup b))
  | none => false

/-- The comparator with this code of a die is under test now, so its output does not reach its protection path; an OV4
test that does not run leaves its comparator in service (R350). -/
def State.underTest (s : State) (die code : Nat) : Bool :=
  s.gate.tests.any (fun t => t.underWay die code s.epoch
    && !(die == 0 && decide (4 ≤ code) && (t.noOv4.contains (code - 4) || !s.ov4Testable (code - 4))))

/-- OV4_EDGE (R367): the filtered comparator edge latches the active short on the group's drives; a listen
ends in `brake` (R254, R257). -/
def execOv4Edge (b : Fin 4) (s : State) : Out :=
  fin (
    if !s.awake || s.underTest 0 (4 + b.val) then s
    else
      let n := s.reg P.busGroup b.val
      let ds := s.groupDrives n
      let s := { s with bus := { s.bus with ov4 := putBit s.bus.ov4 b.val true } }
      let s := s.setGrp n { s.grp n with ov4Latch := true }
      let s := s.force 12 2 s.nowF (ds.map s.gensOf).flatten
      let s := s.bump P.busOv4Cnt n top32
      let s := s.each ds (fun s d => if (s.drv d).phase = .listen then
          (s.setPhase d .brake).modDrv d (fun x => { x with start := { x.start with braked := true } }) else s)
      (s.report K.busOv4 b.val s.epoch).regen n)

/-- Every OV4 comparator of group n is inactive. -/
def State.ov4Quiet (s : State) (n : Nat) : Bool :=
  (List.range 4).all (fun b => s.reg P.busGroup b != n || !bit s.bus.ov4 b)

/-- OV4_COMPARATOR_INACTIVE (R368). -/
def execOv4ComparatorInactive (b : Fin 4) (s : State) : Out :=
  fin (
    if !bit s.bus.ov4 b.val then s
    else
      let n := s.reg P.busGroup b.val
      let s := { s with bus := { s.bus with ov4 := putBit s.bus.ov4 b.val false } }
      let s := s.unlive K.busOv4 b.val
      if s.ov4Quiet n then s.setGrp n { s.grp n with ov4Clear := s.epoch } else s)

/-- OV4_RELEASE (R368). -/
def execOv4Release (n : Fin 4) (s : State) : Out :=
  fin (
    let g := s.grp n.val
    if g.ov4Latch && s.ov4Quiet n.val && expired g.ov4Clear (usTicks (s.reg P.busOv4Hold n.val)) s.epoch then
      ((s.setGrp n.val { g with ov4Latch := false }).unforce 12 ((s.groupDrives n.val).map s.gensOf).flatten).regen n.val
    else s)

/-- CHOP_CHECK_EXPIRY (R365, R366). -/
def execChopCheckExpiry (c : Fin 2) (s : State) : Out :=
  fin (
    let x := s.chop c.val
    match x.check with
    | none => s
    | some t =>
      if s.pwm.halted.isNone && expired t (usTicks (s.reg P.busChopCheck c.val)) s.epoch then
        ((s.setChop c.val { x with on := false, check := none }).report K.chopFail c.val s.epoch).regen (s.chopGroup c.val)
      else s)

/-- A commit that disables a chopper turns it off, and its check ends with no result (R365). -/
def State.chopCfgWrite (s : State) (c v : Nat) : State :=
  let s := s.setReg P.busChopCfg c v
  if s.chopEn c then s else s.setChop c { s.chop c with on := false, check := none }

/-- The desaturation comparator of a chopper is enabled: BK is on, and its blanking has run (R365). -/
def State.chopDesatEnabled (s : State) (c : Nat) : Bool :=
  s.bkOn c && decide ((s.chop c).onAt + 20 * (bits (s.reg P.busChopCfg c) 9 5 + 1) ≤ s.epoch)

/-- CHOP_DESAT (R365): BK goes off in two steps and CHOP_FAIL is raised with the comparator's path. -/
def execChopDesat (c : Fin 2) (s : State) : Out :=
  fin (
    if s.awake && s.chopDesatEnabled c.val && !s.underTest (c.val + 1) 25 then
      ((s.setChop c.val { s.chop c.val with on := false, check := none, desat := some s.epoch }).report
        K.chopFail (c.val + 2) s.epoch).regen (s.chopGroup c.val)
    else s)

/-- BUS.STAT[n] (R372). -/
def State.busStat (s : State) (n : Nat) : Nat :=
  let g := s.grp n
  let fail := [0, 1].any (fun c => s.chopGroup c == n && s.chopFail c)
  g.ov1.toNat + g.ov2.toNat * 2 + g.ov3.toNat * 4 + (!s.ov4Quiet n).toNat * 8 + g.ov4Latch.toNat * 16
    + g.uv1.toNat * 32 + g.uv2.toNat * 64 + fail.toNat * 128

/-- BUS.CHOP_STAT[c] (R372). -/
def State.chopStat (s : State) (c : Nat) : Nat :=
  (s.bkOn c).toNat + (s.chop c).check.isSome.toNat * 2 + (s.chopFail c).toNat * 4 + (s.chopDesat c).toNat * 8

end Sys2Proof.Machine
end

