-- ==== Sys2Proof/Machine/Gate.lean ====
section
/-! DEFINITION. Driver dies: undervoltage lockout, bootstraps, die interlock, desaturation, hardware
overcurrent, two-step turn-off, safe torque off and the comparator self-test (R322 to R355). -/

namespace Sys2Proof.Machine

/-- Driver die of a generator and of a bridge: 0 DA, 1 DB. -/
def dieOfBridge (b : Nat) : Nat := b / 2

/-- A VDRV UVLO holds the outputs of driver die j (R332). -/
def State.uvlo (s : State) (j : Nat) : Bool := !(s.die j).up
/-- A VDRV UVLO is active on a rail (R49, R252). -/
def State.anyUvlo (s : State) : Bool := s.uvlo 0 || s.uvlo 1

/-- GH is held off under R333. -/
def State.bstHold (s : State) (g : Nat) : Bool := (s.chan g).bst.isSome

/-- The outputs GH and GL at the pins: the commands after the holds of the driver die (R332 to R334, R345). -/
def State.gatePins (s : State) (g : Nat) : Bool × Bool :=
  let j := g / 6
  if s.uvlo j || (s.die j).latch || (s.chan g).xcmd then (false, false)
  else ((s.gen g).gh && !s.bstHold g, (s.gen g).gl)

/-! Undervoltage. -/

/-- VDRV_UV_FALL (R332). -/
def execVdrvUvFall (j : Fin 2) (s : State) : Out :=
  fin (
    let x := s.die j.val
    if !x.up || s.underTest (j.val + 1) 24 then s
    else
      let s := s.setDie j.val { x with up := false }
      let s := s.setChop j.val { s.chop j.val with on := false, check := none }
      let s := s.bump P.gateVdrvUvCnt (j.val + 1) top32
      (s.report K.vdrvUv j.val s.epoch).regen (s.chopGroup j.val))

/-- VDRV_UV_RISE (R332): the hold ends. -/
def execVdrvUvRise (j : Fin 2) (s : State) : Out :=
  fin (
    let x := s.die j.val
    if !s.awake || x.up then s
    else ((s.setDie j.val { x with up := true, everUp := true }).unlive K.vdrvUv j.val).regen (s.chopGroup j.val))

/-- BST_UV of generator g: its high side is held off, counted and reported; the record is live while the hold lasts
(R333). -/
def State.bstLow (s : State) (g : Nat) : State :=
  let s := s.setChan g { s.chan g with bst := some (Nat.max s.nowF (s.gen g).edgeH) }
  let s := s.bump P.gateBstUvCnt g top32
  s.report K.bstUv g s.epoch

/-- A short of a stop that holds its high sides gives them up for `low_on` (R284). -/
def State.shortToLow (s : State) (g : Nat) : State :=
  match s.ownerOf (g / 3) with
  | none => s
  | some d =>
    let x := s.drv d
    if x.phase = .stopping && x.stop.ph == StopPh.short && s.fixedOvr d == some 3 then
      let s := s.modDrv d (fun x => { x with stop := { x.stop with forceLow := true } })
      (s.each (s.gensOf d) (fun s g => s.setReg P.pwmOvr g 2)).applyGens (s.gensOf d) s.nowF []
    else s

/-- BST_UV (R333, R284). -/
def execBstUv (g : Fin 12) (s : State) : Out :=
  fin (
    if !(s.awake && (s.gen g.val).gh) || s.underTest (g.val / 6 + 1) (12 + g.val % 6) || s.bstHold g.val then s
    else (s.bstLow g.val).shortToLow g.val)

/-! The die interlock. -/

/-- XCMD_DIE (R334): the channel is held off until the power cycle, and source 11 forces the drive. -/
def execXcmdDie (g : Fin 12) (s : State) : Out :=
  fin (
    if !s.awake || (s.chan g.val).xcmd then s
    else
      let s := s.setChan g.val { s.chan g.val with xcmd := true }
      let gs := match s.ownerOf (g.val / 3) with | some d => s.gensOf d | none => [g.val]
      (s.force 11 1 s.nowF gs).report K.xcmdDie g.val s.epoch)

/-! Desaturation and overcurrent. -/

/-- The latest epoch, no later than now, whose low 16 bits are these (R336). -/
def extendEpoch (now low : Nat) : Nat := now - (now + 65536 - low % 65536) % 65536

/-- Bridges that a detection on bridge b affects: those of its drive, or b alone (R340). -/
def State.affected (s : State) (b : Nat) : List Nat :=
  match s.ownerOf b with | some d => s.bridges d | none => [b]

/-- The two-step turn-off starts on the drive's bridges, unless it is under way (R340 to R342). -/
def State.startSoft (s : State) (b : Nat) : State :=
  s.each (s.affected b) (fun s b' => if (s.softOf b').isSome then s else s.setSoft b' (some s.epoch))

/-- The comparator of one side was enabled at this stamp: the blanking of the gate's last turn-on had run, and its
turn-off command had not arrived (R335). -/
def State.desatEnabled (s : State) (g : Nat) (low : Bool) (stamp : Nat) : Bool :=
  let x := s.gen g
  let (isOn, onAt, edge) := if low then (x.gl, x.onL, x.edgeL) else (x.gh, x.onH, x.edgeH)
  let cfg := s.reg P.gateDesatCfg (g / 3)
  let enabled := onAt + (bits cfg (if low then 15 else 10) 5 + 1) * 640
  decide (enabled ≤ stamp * 32 + 31) && (isOn || (decide (enabled ≤ edge) && decide (stamp * 32 ≤ edge + 31)))

/-- DESAT_DETECT (R336, R337, R340). -/
def execDesatDetect (g : Fin 12) (low : Bool) (latched : Half) (s : State) : Out :=
  fin (
    let stamp := extendEpoch s.epoch latched.toNat
    let b := g.val / 3
    let code := (if low then 6 else 0) + g.val % 6
    if !s.awake || !s.desatEnabled g.val low stamp || s.underTest (g.val / 6 + 1) code then s
    else
      let x := s.chan g.val
      let s := s.setChan g.val (if low then { x with desatLo := true } else { x with desatHi := true })
      let s := s.startSoft b
      let s := s.force 8 1 s.nowF (((s.affected b).map gensOfBridge).flatten)
      let s := s.bump P.gateDesatCnt g.val top32
      s.report K.desat (2 * g.val + low.toNat) stamp)

/-- HOC_EDGE (R338, R340). -/
def execHocEdge (b : Fin 4) (s : State) : Out :=
  fin (
    if !s.awake || s.underTest 0 b.val then s
    else
      let s := { s with gate := { s.gate with hoc := putBit s.gate.hoc b.val true } }
      let s := s.startSoft b.val
      let s := s.force 9 1 s.nowF (((s.affected b.val).map gensOfBridge).flatten)
      let s := s.bump P.gateHocCnt b.val top32
      s.report K.hoc b.val s.epoch)

/-- HOC_RELEASE (R338): the filtered comparator output goes inactive. -/
def execHocRelease (b : Fin 4) (s : State) : Out :=
  fin (({ s with gate := { s.gate with hoc := putBit s.gate.hoc b.val false } }).unlive K.hoc b.val)

/-- Length of step 1 in ticks (R340). -/
def State.softTicks (s : State) (b : Nat) : Nat := 40 + 20 * bits (s.reg P.gateSoftCfg b) 4 5

/-- SOFT_TURNOFF_STEP2 (R340): the gates of the drive's bridges whose TIME has run are fully off, and
their desaturation comparators, disabled with the gates, go inactive. -/
def execSoftTurnoffStep2 (d : Fin 4) (s : State) : Out :=
  fin (
    let bs := (List.range 4).filter (fun b => (s.bridges d.val).contains b || (s.ownerOf b).isNone)
    s.each bs (fun s b =>
      match s.softOf b with
      | some t =>
        if t + s.softTicks b ≤ s.epoch then
          (s.setSoft b none).each (gensOfBridge b) (fun s g =>
            let s := s.setChan g { s.chan g with desatHi := false, desatLo := false }
            (s.unlive K.desat (2 * g)).unlive K.desat (2 * g + 1))
        else s
      | none => s))

/-! Safe torque off. -/

/-- The filtered levels of STOA and STOB differ since when (R347). -/
def DieSt.setDiffer (x : DieSt) (now : Nat) : DieSt :=
  if x.lowA = x.lowB then { x with differ := none } else { x with differ := some (x.differ.getD now) }

/-- An activation of STOA (or STOB) acts on die j: every gate is turned off and latched, counted and reported (R345,
R346). -/
def State.stoTake (s : State) (j : Nat) (stob : Bool) : State :=
  let s := s.setDie j { s.die j with latch := true }
  let s := s.force 10 1 s.nowF ((dieBridges j).map gensOfBridge).flatten
  let s := s.bump P.gateStoCnt (j + 1) top32
  let s := s.report K.stoAct (2 * j + stob.toNat) s.epoch
  if (s.die j).differ.isNone then s.unlive K.stoDisc j else s

/-- STO_ACTIVE (R345, R346). In a reset or a boot every output is off, and the end of the boot takes it. -/
def execStoActive (j : Fin 2) (stob : Bool) (s : State) : Out :=
  fin (
    let x := s.die j.val
    if (if stob then x.lowB else x.lowA) then s
    else
      let x := (if stob then { x with lowB := true } else { x with lowA := true }).setDiffer s.epoch
      if s.awake then (s.setDie j.val x).stoTake j.val stob
      else s.setDie j.val (if s.pwr.mode = .boot then
          (if stob then { x with bootB := true } else { x with bootA := true }) else x))

/-- The end of a boot: an input that is low, or was active in the boot, has activated (R345, R346). -/
def State.stoBoot (s : State) : State :=
  s.each [0, 1] (fun s j =>
    let x := s.die j
    let s := s.setDie j ({ x with bootA := false, bootB := false }.setDiffer s.epoch)
    let s := if x.lowA || x.bootA then s.stoTake j false else s
    let s := if x.lowB || x.bootB then s.stoTake j true else s
    let s := if x.lowA then s else s.unlive K.stoAct (2 * j)
    if x.lowB then s else s.unlive K.stoAct (2 * j + 1))

/-- STOA (or STOB) of die j has gone high again (R345 to R347). -/
def State.stoHigh (s : State) (stob : Bool) (j : Nat) : State :=
  let x := s.die j
  if !(if stob then x.lowB else x.lowA) then s
  else
    let x := (if stob then { x with lowB := false, highB := some s.epoch }
              else { x with lowA := false, highA := some s.epoch }).setDiffer s.epoch
    let s := (s.setDie j x).unlive K.stoAct (2 * j + stob.toNat)
    if x.differ.isNone then s.unlive K.stoDisc j else s

/-- STO_RELEASE (R347, R354): the input is high again on both dies. -/
def execStoRelease (stob : Bool) (s : State) : Out := fin (s.each [0, 1] (fun s j => s.stoHigh stob j))

/-- STO_DISC_TIMEOUT (R347). -/
def execStoDiscTimeout (j : Fin 2) (s : State) : Out :=
  fin (
    match (s.die j.val).differ with
    | some t => if s.awake && expired t (msTicks (s.reg P.gateStoDiscT 0)) s.epoch then s.report K.stoDisc j.val s.epoch else s
    | none => s)

/-- STOA or STOB of die j is low, or was within the last 1.5 µs (R354). -/
def State.stoPresent (s : State) (j : Nat) : Bool :=
  let x := s.die j
  let recent (t : Option Nat) : Bool := match t with | some t => decide (s.epoch ≤ t + 300) | none => false
  x.lowA || x.lowB || recent x.highA || recent x.highB

/-! Self-test (R348 to R353). -/

/-- Comparators of a die (R348), and ST_FAIL instance of a die's comparator (R422). -/
def stCount (die : Nat) : Nat := if die = 0 then 8 else 26
def stInst (die code : Nat) : Nat := if die = 0 then 52 + code else 26 * (die - 1) + code

/-- The die is under a self-test that has neither ended nor been aborted on it. -/
def State.testing (s : State) (die : Nat) : Bool :=
  s.gate.tests.any (fun t => t.dies.contains die && (Smap.get (fun _ => none) t.aborted die).isNone
    && !t.done.any (fun (i, _) => i == die))

/-- While the OV4 test of a bridge is due, a VBUS sample that does not lie below OV2, or none at all, keeps it from
running (R350). -/
def State.watchOv4 (s : State) : State :=
  if s.gate.tests.isEmpty then s
  else
    let mark (t : SelfTest) : SelfTest :=
      { t with noOv4 := t.noOv4 ++ (List.range 4).filter (fun b => t.underWay 0 (4 + b) s.epoch && !s.ov4Testable b && !t.noOv4.contains b) }
    { s with gate := { s.gate with tests := s.gate.tests.map mark } }

/-- A self-test of these dies starts (R350). -/
def State.startTest (s : State) (cmd : Option Cmd) (dies : List Nat) : State :=
  let t : SelfTest := { cmd := cmd, start := s.epoch, dies := dies }
  let s := { s with gate := { s.gate with tests := s.gate.tests ++ [t] } }
  s.each dies (fun s i => s.setReg P.gateStStat i (putBit (putBit (s.reg P.gateStStat i) 0 true) 3 false))

/-- SELFTEST (R349). -/
def bodySelftest (s : State) (c : Cmd) (pl : List Byte) : State × Reply :=
  if 3 < c.inst then (s, .refuse St.badInst)
  else if pl.length ≠ 0 then (s, .refuse St.length)
  else
    let dies := if c.inst = 3 then [0, 1, 2] else [c.inst]
    let uv := dies.any (fun i => i != 0 && s.uvlo (i - 1))
    let moving := dies.any (fun i =>
      if i = 0 then (List.range 4).any (fun d => !s.stopped d)
      else (s.ownersOf (dieBridges (i - 1))).any (fun d => !s.stopped d))
    if !s.awake then (s, .refuse St.badState)
    else if uv then (s, .refuse St.uvlo)
    else if moving then (s, .refuse St.driveRunning)
    else if dies.any s.testing then (s, .refuse St.busy)
    else (s.startTest (some c) dies, .deferred)

def execSelftest (h : Hdr) (pl : List Byte) (s : State) : Out := runCommand h 0x1601 pl s bodySelftest

/-- A DRV_START aborts the tests on the dies of the drive (R352). -/
def State.abortTests (s : State) (d : Nat) : State :=
  let dies := (List.range 3).filter (fun i => i != 0 && (dieBridges (i - 1)).any (s.bridges d).contains)
  let hit := dies.filter s.testing
  let mark (t : SelfTest) : SelfTest :=
    { t with aborted := hit.foldl (fun m i => if t.dies.contains i && (Smap.get (fun _ => none) m i).isNone
        then Smap.set (fun _ => none) m i (some s.epoch) else m) t.aborted }
  let s := { s with gate := { s.gate with tests := s.gate.tests.map mark } }
  s.each hit (fun s i => s.setReg P.gateStStat i (putBit (putBit (s.reg P.gateStStat i) 0 false) 3 true))

/-- Tick at which a die of a test ends. -/
def SelfTest.dieEnd (t : SelfTest) (die : Nat) : Nat :=
  match Smap.get (fun _ => none) t.aborted die with
  | some a => a
  | none => t.start + 2000 * stCount die

/-- Dies of the test that have ended and whose results are not in. -/
def SelfTest.ended (t : SelfTest) (now : Nat) : List Nat :=
  t.dies.filter (fun i => decide (t.dieEnd i ≤ now) && !t.done.any (fun (k, _) => k == i))

/-- Result code of a comparator (R351): `pass` 0, `stuck_off` 1, `stuck_on` 2, `not_run` 3. -/
def SelfTest.result (t : SelfTest) (r : SelftestResult) (die code : Nat) : Nat :=
  let off := if die = 0 then r.offCd.toNat else if die = 1 then r.offDa.toNat else r.offDb.toNat
  let on := if die = 0 then r.onCd.toNat else if die = 1 then r.onDa.toNat else r.onDb.toNat
  let notRun := decide (t.dieEnd die < t.start + 2000 * (code + 1))
    || (die == 0 && decide (4 ≤ code) && t.noOv4.contains (code - 4))
  if notRun then 3 else if bit off code then 1 else if bit on code then 2 else 0

/-- The records of one die in a completion event: CODE, DIE, RESULT, reserved, EPOCH (R353). -/
def SelfTest.records (t : SelfTest) (r : SelftestResult) (die : Nat) : List Byte :=
  ((List.range (stCount die)).map (fun c =>
    leBytes 1 c ++ leBytes 1 die ++ leBytes 1 (t.result r die c) ++ zeros 1
      ++ leBytes 8 (Nat.min (t.dieEnd die) (t.start + 2000 * (c + 1))))).flatten

/-- The results of one die are written and its failures reported, each with the end of its comparator's test
as its stamp (R350, R351, R353). -/
def State.endTestDie (s : State) (t : SelfTest) (r : SelftestResult) (die : Nat) : State :=
  let codes := List.range (stCount die)
  let failed := codes.filter (fun c => t.result r die c == 1 || t.result r die c == 2)
  let all := codes.all (fun c => t.result r die c == 0)
  let aborted := (Smap.get (fun _ => none) t.aborted die).isSome
  let s := s.setReg P.gateStFail die (failed.foldl (fun m c => m + 2 ^ c) 0)
  let s := s.setReg P.gateStEpoch die (t.dieEnd die)
  let s := s.setReg P.gateStStat die (2 + all.toNat * 4 + aborted.toNat * 8)
  let s := s.each (codes.filter (fun c => t.result r die c == 0)) (fun s c =>
    { s with gate := { s.gate with stOk := Smap.set (fun _ => false) s.gate.stOk (stInst die c) true } })
  s.each failed (fun s c =>
    let s := { s with gate := { s.gate with stOk := Smap.set (fun _ => false) s.gate.stOk (stInst die c) false } }
    s.report K.stFail (stInst die c) (Nat.min (t.dieEnd die) (t.start + 2000 * (c + 1))))

/-- The oldest self-test of which a die has ended. -/
def State.endedTest (s : State) : Option SelfTest := s.gate.tests.find? (fun t => !(t.ended s.epoch).isEmpty)

/-- Every die under test has ended. -/
def SelfTest.over (t : SelfTest) : Bool := t.dies.all (fun i => t.done.any (fun (k, _) => k == i))

/-- The completion event of a SELFTEST: the records of its dies in order (R353). -/
def State.completeTest (s : State) (t : SelfTest) : State :=
  match t.cmd with
  | none => s
  | some c =>
    let dies := [0, 1, 2].filterMap (fun i => t.done.find? (fun (k, _) => k == i))
    let count := (dies.map (fun (i, _) => stCount i)).foldl (· + ·) 0
    let fails := (dies.map (fun (i, r) => ((List.range (stCount i)).filter (fun k =>
      t.result r i k == 1 || t.result r i k == 2)).length)).foldl (· + ·) 0
    let status := if t.dies.any (fun i => (Smap.get (fun _ => none) t.aborted i).isSome) then St.badState else St.ok
    s.complete c status 0xFFFF (leBytes 1 count ++ leBytes 1 fails ++ zeros 2 ++ (dies.map (fun (i, r) => t.records r i)).flatten)

/-- The dies of a self-test that have ended get their results; after the last one the SELFTEST command that began it
completes (R353). -/
def State.endTest (s : State) (t : SelfTest) (res : SelftestResult) : State :=
  let ds := t.ended s.epoch
  let t1 := { t with done := t.done ++ ds.map (fun i => (i, res)) }
  let s := { s with gate := { s.gate with
    tests := if t1.over then s.gate.tests.erase t else s.gate.tests.map (fun u => if u == t then t1 else u) } }
  let s := s.each ds (fun s i => s.endTestDie t res i)
  if t1.over then s.completeTest t1 else s

/-- Every comparator of every die has passed since boot (R350). -/
def State.testsPassed (s : State) : Bool := [0, 1, 2].all (fun i => bit (s.reg P.gateStStat i) 2)

/-! Views (R357). -/

/-- GATE.STAT[i] of driver die j. -/
def State.gateStat (s : State) (j : Nat) : Nat :=
  let x := s.die j
  let gs := ((dieBridges j).map gensOfBridge).flatten
  (!x.up).toNat + x.lowA.toNat * 2 + x.lowB.toNat * 4 + x.latch.toNat * 8
    + (gs.any (fun g => (s.chan g).xcmd)).toNat * 16 + ((dieBridges j).any (fun b => (s.softOf b).isSome)).toNat * 32

/-- The bootstrap is known to be above its falling threshold, since GH is on and nothing holds it off, or known to be
below it (R333). -/
def State.bstKnown (s : State) (g : Nat) : Bool := ((s.gen g).gh && !s.bstHold g) || s.bstStillLow g

/-- GATE.CH_STAT[g]; BST_UV[0] only where the level of its comparator is known. -/
def State.chStat (s : State) (g : Nat) : Nat :=
  let x := s.chan g
  let pump := s.pwr.mode == .full && (s.ownerOf (g / 3)).isSome
  (s.bstStillLow g).toNat + (s.bstHold g).toNat * 2 + x.desatHi.toNat * 4 + x.desatLo.toNat * 8 + pump.toNat * 16

/-- GATE.BR_STAT[b]. The soft line of R341 is asserted while source 8 or 9 is latched (DEDUCED: no rule
says when it ends; the latches end by R355). -/
def State.brStat (s : State) (b : Nat) : Nat :=
  let desat := s.forcedBy 8 (gensOfBridge b)
  let hoc := s.forcedBy 9 (gensOfBridge b)
  desat.toNat + hoc.toNat * 2 + (bit s.gate.hoc b).toNat * 4 + (desat || hoc).toNat * 8

end Sys2Proof.Machine
end

