-- ==== Sys2Proof/Machine/Tracker.lean ====
section
/-! DEFINITION. Position inputs, Hall and encoder decoding and the angle tracker (R226 to R237). -/

namespace Sys2Proof.Machine

/-- A duration in fractions, in seconds, with its sign. -/
def secsI (fr : Int) : F32 := F32.ofFrac fr 6400000000
/-- A duration in fractions, in seconds. -/
def secsF (fr : Nat) : F32 := secsI fr

/-- A signed difference of two angles in uQ0.32 of a turn, wrapped to (−½, ½] turn (R234). -/
def angleDiff (a b : Nat) : Int :=
  let e := toSigned 32 ((a + 2 ^ 32 - b % 2 ^ 32) % 2 ^ 32)
  if e = -(2 ^ 31 : Nat) then (2 ^ 31 : Nat) else e

/-- An angle moved by a signed amount. -/
def angleAdd (a : Nat) (e : Int) : Nat := (((a : Int) + e) % (2 ^ 32 : Nat)).toNat

/-- An angle in uQ0.16 of a turn as uQ0.32. -/
def turn16 (a : Nat) : Nat := a * 65536 % 2 ^ 32
/-- `n / m` of a turn in uQ0.32, rounded to the nearest. -/
def turnFrac (n m : Nat) : Nat := (n * 2 ^ 32 * 2 + m) / (2 * m) % 2 ^ 32

/-- The host sets the tracker: source `host`, or POS.ANG_MODE in `host` (R237). -/
def State.hostSteers (s : State) (d : Nat) : Bool := s.reg P.posSrc d == 3 || s.hostMode P.posAngMode d

/-- The drive's position inputs are decoded as Hall inputs (R226, R251). -/
def State.hallDecoded (s : State) (d : Nat) : Bool :=
  s.reg P.posSrc d == 0 || (s.reg P.posSrc d == 2 && s.reg P.posStart d == 1)

/-- Hall events steer the tracker. -/
def State.hallSteers (s : State) (d : Nat) : Bool :=
  s.reg P.posSrc d == 0 || (s.reg P.posSrc d == 2 && s.reg P.posStart d == 1 && (s.drv d).ecl.useHall)

/-- The tracker takes the measured angle of an event stamped `te` (R234). -/
def Tracker.event (t : Tracker) (te θm ka kw : Nat) : Tracker :=
  if t.fresh then { t with theta := θm, tp := te, fresh := false }
  else
    let dt : Int := te - t.tp
    let θhat := angleAdd t.theta (radToTurn (F32.mul t.omega (secsI dt)))
    let e := angleDiff θm θhat
    let θ := angleAdd θhat (roundDiv (e * ka) (2 ^ 15))
    let ω := if dt = 0 then t.omega
      else F32.add t.omega (F32.div (F32.mul (F32.ofFrac kw 16384) (turnToRad e)) (secsI dt))
    { t with theta := θ, omega := ω, tp := te }

/-- An event reaches the tracker of drive d, unless the host steers it (R234, R237). -/
def State.trackEvent (s : State) (d te θm src : Nat) : State :=
  if s.hostSteers d then s
  else s.modDrv d (fun x =>
    { x with trk := { x.trk.event te θm (s.reg P.posTrkKa d) (s.reg P.posTrkKw d) with
                        evTick := s.epoch, zeroed := false, evSrc := src,
                        crossAt := if src = 2 then some s.epoch else x.trk.crossAt } })

/-- The tracker is initialised with an angle and a speed at this tick (R234, R248, R254). -/
def State.initTracker (s : State) (d θ : Nat) (ω : F32) (src : Nat) : State :=
  s.modDrv d (fun x =>
    { x with trk := { x.trk with theta := θ % 2 ^ 32, omega := ω, tp := s.nowF, fresh := true, evTick := s.epoch,
                                 zeroed := false, evSrc := src, encAng := θ % 2 ^ 32, encN := 0 } })

/-! Hall (R230, R231). -/

/-- Index of a valid Hall state in the forward order; none for 000 and 111. -/
def hallIndex (h : Nat) : Option Nat :=
  match h with
  | 1 => some 0 | 3 => some 1 | 2 => some 2 | 6 => some 3 | 4 => some 4 | 5 => some 5 | _ => none

/-- Hall state from the inputs of bridge b: POS(3b+2), POS(3b+1), POS(3b). -/
def State.hallState (s : State) (b : Nat) : Nat :=
  let p (i : Nat) : Nat := (Smap.get (fun _ => false) s.posIn (3 * b + i)).toNat
  p 2 * 4 + p 1 * 2 + p 0

/-- The drive's Hall state is kept from its inputs: where they are decoded, and with source `host` (R237). -/
def State.hallKept (s : State) (d : Nat) : Bool := s.role d != 0 && (s.hallDecoded d || s.reg P.posSrc d == 3)

/-- The drive takes its lowest bridge, its source or its start method: its Hall state is that of the inputs as they
stand (R230). -/
def State.formHall (s : State) (d : Nat) : State :=
  let h := if s.hallKept d then s.hallState (s.lowBridge d) else 0
  s.modDrv d (fun x => { x with hallSave := none, trk := { x.trk with hall := h, hallIdx := hallIndex h, hallTick := s.epoch } })

/-- Angle of the edge between indices i and i + 1, and centre of index i. -/
def hallEdgeAngle (i : Nat) : Nat := turnFrac (2 * i + 1) 12
def hallCentre (i : Nat) : Nat := turnFrac i 6

/-- The tracker takes the centre of the present Hall state plus HALL_OFS; its speed stands (R230). -/
def State.hallCentreInit (s : State) (d : Nat) : State :=
  match (s.drv d).trk.hallIdx with
  | some i => s.modDrv d (fun x => { x with trk := { x.trk with
      theta := (hallCentre i + turn16 (s.reg P.posHallOfs d)) % 2 ^ 32, tp := s.nowF, fresh := true } })
  | none => s

/-- What a Hall state `h` of bridge b does to a drive whose tracker stood at `t`, stamped `te` (R230, R231);
`told`: HALL_SEQ has been raised on this tick. -/
def State.hallMove (s : State) (d b te h : Nat) (t : Tracker) (told : Bool) : State :=
  let s := s.modDrv d (fun x =>
    { x with trk := { x.trk with hall := h, hallTick := s.epoch,
                                 hallIdx := match hallIndex h with | some i => some i | none => x.trk.hallIdx } })
  match hallIndex h with
  | none => s
  | some j =>
    let s := s.unlive K.hallBad b
    match hallIndex t.hall with
    | none => s
    | some i =>
      let edge : Option Nat := if (i + 1) % 6 = j then some i else if (j + 1) % 6 = i then some j else none
      match edge with
      | some e =>
        if s.hallSteers d then s.trackEvent d te ((hallEdgeAngle e + turn16 (s.reg P.posHallOfs d)) % 2 ^ 32) 0 else s
      | none =>
        if told || !s.hallDecoded d then s
        else
          let s := s.modDrv d (fun x => { x with hallSave := some (s.epoch, t, true) })
          (s.bump P.posHallErrCnt b top32).report K.hallSeq b s.epoch

/-- A new Hall state of drive d, stamped `te`: the change is taken from the state before this tick (R229). -/
def State.hallChange (s : State) (d b te : Nat) : State :=
  let x := s.drv d
  let (t, told) := match x.hallSave with
    | some (tick, t, told) => if tick = s.epoch then (t, told) else (x.trk, false)
    | none => (x.trk, false)
  let h := s.hallState b
  if h = x.trk.hall then s
  else
    let s := s.modDrv d (fun x => { x with trk := t, hallSave := some (s.epoch, t, told) })
    if h = t.hall then s else s.hallMove d b te h t told

/-! Encoder (R232, R233). -/

/-- Position of (A, B) in the forward order 00, 10, 11, 01. -/
def encPhase (a b : Bool) : Nat := if a then (if b then 2 else 1) else if b then 3 else 0

/-- Counts of a mechanical turn (R232). -/
def State.encTurn (s : State) (d : Nat) : Nat := 4 * s.reg P.posEncLines d

/-- Electrical angle at the present count: a mechanical turn is a whole number of electrical ones (R232). -/
def State.encAngle (s : State) (d : Nat) : Nat :=
  let t := (s.drv d).trk
  angleAdd t.encAng (roundDiv (t.encN * 2 ^ 32 * s.reg P.posPolePairs d : Nat) (s.encTurn d))

/-- A filtered edge of A (0) or B (1) of drive d (R226, R232). -/
def State.encEdge (s : State) (d b ch te : Nat) (oldA oldB newA newB : Bool) : State :=
  let x := s.drv d
  match x.encSave with
  | some (t0, ch0, cnt0, trk0) =>
    if t0 = s.epoch ∧ ch0 ≠ ch then
      -- both channels changed on this tick: the first count is taken back
      let s := (s.setReg P.posEncCount d cnt0).setDrv d { x with trk := trk0, encSave := none }
      if s.reg P.posSrc d = 1 then (s.bump P.posEncErrCnt b top32).report K.encErr b s.epoch else s
    else step
  | none => step
where
  step : State :=
    let x := s.drv d
    let fwd := (encPhase oldA oldB + 1) % 4 == encPhase newA newB
    let cnt := s.reg P.posEncCount d
    let n := s.encTurn d
    let s := s.modDrv d (fun x => { x with encSave := some (s.epoch, ch, cnt, x.trk),
                                           trk := { x.trk with encN := if fwd then (x.trk.encN + 1) % n else (x.trk.encN + n - 1) % n } })
    let s := s.setReg P.posEncCount d (if fwd then (cnt + 1) % 2 ^ 32 else (cnt + 2 ^ 32 - 1) % 2 ^ 32)
    if x.trk.encTick + 200 ≤ s.epoch then
      (s.trackEvent d te (s.encAngle d) 1).modDrv d (fun x => { x with trk := { x.trk with encTick := s.epoch } })
    else s

/-- The angle is set to ENC_Z_OFS at an index (R233). -/
def State.setIndexAngle (s : State) (d te : Nat) : State :=
  let θ := turn16 (s.reg P.posEncZOfs d)
  s.modDrv d (fun x => { x with trk := { x.trk with
    theta := if s.hostSteers d then x.trk.theta else θ, tp := if s.hostSteers d then x.trk.tp else te, abs := true,
    encAng := θ, encN := 0, evTick := s.epoch } })

/-- A filtered rising edge of Z (R233). -/
def State.encIndex (s : State) (d b te : Nat) : State :=
  let t := (s.drv d).trk
  let cnt := s.reg P.posEncCount d
  let s1 := s.modDrv d (fun x => { x with trk := { x.trk with idxSeen := true, idxCount := cnt } })
  if !t.idxSeen then s1.setIndexAngle d te
  else
    let moved := (toSigned 32 ((cnt + 2 ^ 32 - t.idxCount) % 2 ^ 32)).natAbs
    let want := 4 * s.reg P.posEncLines d
    let err := if want ≤ moved then moved - want else want - moved
    if s.reg P.posEncZTol d < err then (s1.setIndexAngle d te).report K.encIndex b s.epoch else s1

/-! Inputs (R228, R229). -/

/-- Input k of bridge b after filter and inversion. -/
def State.posPin (s : State) (b k : Nat) : Bool := Smap.get (fun _ => false) s.posIn (3 * b + k)

/-- Input k of bridge b has changed to `v`, as t has it (R226, R229): its drive decodes it as its source gives. With
source `host` the Hall state and the count of A and B follow their inputs (R237, assumption log 111). -/
def State.posDecode (s : State) (b k te : Nat) (v : Bool) (a0 b0 : Bool) : State :=
  let enc (s : State) (d : Nat) : State := s.encEdge d b k te a0 b0 (if k = 0 then v else a0) (if k = 1 then v else b0)
  match s.ownerOf b with
  | none => s
  | some d =>
    if s.lowBridge d ≠ b then s
    else if s.reg P.posSrc d = 1 then (if k = 2 then (if v then s.encIndex d b te else s) else enc s d)
    else if s.reg P.posSrc d = 3 then (let s := s.hallChange d b te; if k = 2 then s else enc s d)
    else if s.hallDecoded d then s.hallChange d b te
    else s

/-- A filtered change of input k of bridge b to `v`, stamped `te` in fractions (R229, R237). -/
def State.posChange (s : State) (b k te : Nat) (v : Bool) : State :=
  let a0 := s.posPin b 0
  let b0 := s.posPin b 1
  let s := { s with posIn := Smap.set (fun _ => false) s.posIn (3 * b + k) v }
  let s := if (hallIndex (s.hallState b)).isSome then { s with posSeen := s.posSeen ||| 2 ^ b } else s
  s.posDecode b k te v a0 b0

/-- POS_INPUT_EDGE (R229): the filtered change of a pin, whose raw edge was `rawAgo` fractions before this
tick; a change that the filter cannot have passed has no effect. -/
def execPosInputEdge (p : Fin 12) (level : Bool) (rawAgo : Half) (s : State) : Out :=
  fin (
    let b := p.val / 3
    let k := p.val % 3
    let cfg := s.reg P.posInCfg b
    let filt := bits cfg 0 4
    let v := level != bit cfg (4 + k)
    if !s.awake || v == s.posPin b k || decide (rawAgo.toNat < filt * 32) || decide ((filt + 1) * 32 < rawAgo.toNat)
        || s.flt.blk.contains .pos then s
    else s.posChange b k (s.nowF - rawAgo.toNat) v)

/-- POS.IN_CFG[b] is written: an input whose inversion changes has a filtered change now (R229, assumption log 112). -/
def State.posInCfgWrite (s : State) (b v : Nat) : State :=
  let old := s.reg P.posInCfg b
  (s.setReg P.posInCfg b v).each [0, 1, 2] (fun s k =>
    if bit old (4 + k) = bit v (4 + k) then s else s.posChange b k s.nowF (!s.posPin b k))

/-- POS_ZERO_TMO (R231, R235). -/
def execPosZeroTmo (d : Fin 4) (s : State) : Out :=
  fin (
    let t := (s.drv d.val).trk
    let tmo := msTicks (s.reg P.posZeroTmo d.val)
    if !s.awake || s.role d.val == 0 then s
    else
      let s :=
        if !t.zeroed && !s.hostSteers d.val && expired t.evTick tmo s.epoch then
          let s := s.modDrv d.val (fun x => { x with trk := { x.trk with omega := 0#32, zeroed := true } })
          if s.hallSteers d.val then s.hallCentreInit d.val else s
        else s
      if s.hallDecoded d.val && (hallIndex t.hall).isNone && expired t.hallTick tmo s.epoch then
        s.report K.hallBad (s.lowBridge d.val) s.epoch
      else s)

/-! The tracker at a boundary (R235, R236). -/

/-- ω after R236: with Hall steering and an edge later than 60° at the present speed, 60° over the time
since the last edge, where that is smaller. -/
def State.hallSlow (s : State) (d nowF : Nat) : F32 :=
  let t := (s.drv d).trk
  let edge := if t.fresh then t.evTick * 32 else t.tp
  if !s.hallSteers d || s.hostSteers d || nowF ≤ edge then t.omega
  else
    let w := F32.div F32.piOver3 (secsF (nowF - edge))
    if F32.lt w (F32.abs t.omega) then (if F32.signBit t.omega then F32.neg w else w) else t.omega

/-- θ of the tracker at a time in fractions, with the limit of R236. -/
def State.angleAt (s : State) (d nowF : Nat) (ω : F32) : Nat :=
  let t := (s.drv d).trk
  let adv := if t.tp ≤ nowF then radToTurn (F32.mul ω (secsF (nowF - t.tp)))
    else -(radToTurn (F32.mul ω (secsF (t.tp - nowF))))
  let adv :=
    if s.hallSteers d && !s.hostSteers d then
      (match t.hallIdx with
       | some j =>
         let ofs := turn16 (s.reg P.posHallOfs d)
         let slack : Int := turn16 (s.reg P.posHallSlack d)
         if F32.lt 0#32 ω then min adv (angleDiff ((hallEdgeAngle j + ofs) % 2 ^ 32) t.theta + slack)
         else if F32.lt ω 0#32 then max adv (angleDiff ((hallEdgeAngle (j + 5) + ofs) % 2 ^ 32) t.theta - slack)
         else adv
       | none => adv)
    else adv
  angleAdd t.theta adv

/-- The tracker gives θ(P) and ω at a sample boundary and writes POS.ANGLE and POS.SPEED (R235, R236). -/
def State.trackBoundary (s : State) (d : Nat) : State :=
  let ω := s.hallSlow d s.nowF
  let s := s.modDrv d (fun x => { x with trk := { x.trk with omega := ω } })
  (s.setReg P.posAngle d (s.angleAt d s.nowF ω)).setF P.posSpeed d ω

/-- A used host entry sets θ and ω at its TARGET, this boundary (R237). -/
def State.hostAngle (s : State) (d θ : Nat) (ω : F32) : State :=
  s.modDrv d (fun x => { x with trk := { x.trk with theta := θ % 2 ^ 32, omega := ω, tp := s.nowF, evTick := s.epoch,
                                                    zeroed := false, evSrc := 3 } })

/-! Views (R260). -/

/-- POS.STAT.VALID. -/
def State.posValid (s : State) (d : Nat) : Bool :=
  let t := (s.drv d).trk
  if s.hostSteers d then
    let h := Smap.get (fun _ => ({} : HostFn)) (s.drv d).foc.host 1
    h.started && decide (h.run < s.reg P.hostLateMax 0)
  else match s.reg P.posSrc d with
    | 0 => bit s.posSeen (s.lowBridge d)
    | 1 => t.abs
    | _ => match t.crossAt with | some c => !expired c (msTicks (s.reg P.posZeroTmo d)) s.epoch | none => false

/-- POS.STAT.COAST (R235): the last event is older than 120° at the present speed, or a skip run is open. -/
def State.coast (s : State) (d : Nat) : Bool :=
  let t := (s.drv d).trk
  F32.lt (F32.mul F32.two F32.piOver3) (F32.mul (F32.abs t.omega) (secsF (s.nowF - t.tp))) || s.reg P.posEclRun d != 0

/-- POS.STAT[d]. -/
def State.posStatView (s : State) (d : Nat) : Nat :=
  let x := s.drv d
  (s.posValid d).toNat + x.trk.abs.toNat * 2 + (s.coast d).toNat * 4 + (F32.signBit x.trk.omega).toNat * 8
    + x.phase.code * 16 + (if s.role d = 0 then 0 else s.hallState (s.lowBridge d)) * 256 + x.trk.evSrc * 2048

end Sys2Proof.Machine
end

