-- ==== Sys2Proof/Machine/Eclipse.lean ====
section
/-! DEFINITION. Eclipse windows: observations, crossings and the end of a window (R238 to R246). -/

namespace Sys2Proof.Machine

/-- Axis of the phase of crossing k, in uQ0.32 of a turn (R238, R239). -/
def eclAxis (k : Nat) : Nat := match eclPhase k with | 1 => 0 | 2 => turnFrac 1 3 | _ => turnFrac 2 3

/-- The pairs of consecutive observations with opposite signs, oldest first (R244). -/
def signChanges : List EclObs → List (EclObs × EclObs)
  | a :: b :: r => if a.pos != b.pos then (a, b) :: signChanges (b :: r) else signChanges (b :: r)
  | _ => []

/-- Instant of the crossing between two observations in fractions, or none below ZC_THR (R244). -/
def crossingTime (a b : EclObs) (thr : Nat) : Option Nat :=
  match a.val, b.val with
  | some (n1, q1), some (n2, q2) =>
    -- u1 = n1/q1, u2 = n2/q2; u1 − u2 over the common denominator
    let x := n1 * q2
    let y := n2 * q1
    let diff := x - y
    if diff.natAbs < thr * (q1 * q2) then none
    else some (((a.t : Int) + roundDiv ((b.t - a.t : Nat) * x * (if diff < 0 then -1 else 1)) diff.natAbs).toNat)
  | _, _ => some ((a.t + b.t) / 2)

/-- The window's observations are evaluated; a crossing is given to the tracker (R244, R245). -/
def State.eclEvaluate (s : State) (d : Nat) : State :=
  match (s.drv d).ecl.win with
  | none => s
  | some w =>
    if w.dead || w.found then s
    else match signChanges w.obs.reverse with
      | [(a, b)] =>
        (match crossingTime a b (s.reg P.posZcThr (s.lowBridge d)) with
         | none => s
         | some tc =>
           let θm := eclAxis w.k + (if a.pos then 0 else 2 ^ 31) + turn16 (s.reg P.focBrOfs (s.lowBridge d))
           let t := (s.drv d).trk
           let e : Int := if t.fresh then 0 else
             angleDiff (θm % 2 ^ 32) (angleAdd t.theta (radToTurn (F32.mul t.omega (secsI ((tc : Int) - t.tp)))))
           let s := s.trackEvent d tc (θm % 2 ^ 32) 2
           let s := (s.bump P.posEclCnt d top32).setReg P.posEclRun d 0
           let s := s.setReg P.posEclLast d (eclPhase w.k * 8 + ofSigned 16 (roundDiv e 65536) * 65536)
           s.modDrv d (fun x => { x with ecl := { x.ecl with okRun := x.ecl.okRun + 1, win := some { w with found := true } } }))
      | _ => s

/-- The window's observations are all in: it ends at the next reload point, for which a set without a float is
committed (R245, R246). -/
def State.eclComplete (s : State) (d : Nat) : State :=
  let x := s.drv d
  match x.ecl.win with
  | none => s
  | some w =>
    if x.car.commit && !x.foc.eclNext && decide (w.total ≤ w.loaded) && decide (2 * w.loaded ≤ w.obs.length) then s.eclEvaluate d
    else s

/-- One observation of the window in progress (R243). With a slot the value is the mean of its valid samples
against the virtual neutral `vn`; a value beyond its rail by more than 0.4 V keeps its sign only. Without a
slot the sign is the comparator's, a free value (assumption log 9). -/
def State.eclObserve (s : State) (d t : Nat) (lowZero : Bool) (slot : Option (Int × Nat)) (vn : Nat) : State :=
  match (s.drv d).ecl.win with
  | none => s
  | some w =>
    if w.dead || w.found || w.loaded = 0 then s
    else
      let (s, o) : State × EclObs :=
        match slot with
        | some (sum, n) =>
          let num : Int := sum - (n * vn : Nat)
          let clamped := if lowZero then decide (num * 3000 < -(65536 * n : Int)) else decide ((65536 * n : Int) < num * 3000)
          (s, ⟨t, if clamped then none else some (num, n), decide (0 ≤ num)⟩)
        | none =>
          let (f, s) := s.takeFree
          (s, ⟨t, none, f.toNat.testBit 0⟩)
      let w := { w with obs := o :: w.obs }
      (s.modDrv d (fun x => { x with ecl := { x.ecl with win := some w } })).eclComplete d

/-- The window has ended: evaluated once more, and `empty` where it yields no crossing (R242, R246). -/
def State.eclEnd (s : State) (d : Nat) : State :=
  let s := s.eclEvaluate d
  match (s.drv d).ecl.win with
  | none => s
  | some w =>
    let s := if w.dead || w.found then s else s.eclSkip d 5 w.k
    s.modDrv d (fun x => { x with ecl := { x.ecl with win := none, lastEnd := s.epoch } })

/-- The interval from this reload point has been settled: `loaded` whether a new set loaded, `ecl` whether
the set in force is an eclipse set (R242, R246). -/
def State.eclReload (s : State) (d : Nat) (loaded ecl : Bool) : State :=
  match (s.drv d).ecl.win with
  | none => s
  | some w =>
    if w.loaded = 0 then
      (if w.planned = 0 ∧ s.epoch < w.start then s
       else if ecl then s.modDrv d (fun x => { x with ecl := { x.ecl with win := some { w with loaded := 1 } } })
       else if w.start ≤ s.epoch then
         -- the set of the first interval has not loaded: the window is abandoned
         (s.eclSkip d 3 w.k).modDrv d (fun x => { x with ecl := { x.ecl with win := none } })
       else s)
    else if ecl then s.modDrv d (fun x => { x with ecl := { x.ecl with win := some { w with loaded := w.loaded + 1 } } })
    else if loaded then s.eclEnd d
    else s

end Sys2Proof.Machine
end

