-- ==== Sys2Proof/Machine/Thermal.lean ====
section
/-! DEFINITION. Temperatures: sensors, the loss-driven model, rate of rise, levels, throttling and
shutdown (R373 to R388). -/

namespace Sys2Proof.Machine

/-- exp and ln, whose precision the manual does not give (assumption log 6). -/
def expF (x : F32) : F32 := Config.expFree x
def lnF (x : F32) : F32 := Config.lnFree x

/-- A temperature in °C as sQ9.7, saturating (R7). -/
def toQ7 (x : F32) : Int := clampInt (-32768) 32767 (F32.toFixed x 7)
/-- The 16-bit code of a temperature in 1/128 °C, and back. -/
def q7Code (t : Int) : Nat := ofSigned 16 t
def q7Of (c : Nat) : Int := toSigned 16 c
/-- A temperature in 1/128 °C as float32. -/
def q7F (t : Int) : F32 := F32.ofFrac t 128

/-! The model (R375 to R379). -/

/-- T_NTC of a bridge in °C; 0 before its first valid reading. -/
def State.tNtc (s : State) (b : Nat) : F32 := (Smap.get (fun _ => none) s.therm.ntc b).getD 0#32

/-- Host values replace the junction temperatures of a bridge (R131, R379). -/
def State.hostTemps (s : State) (b : Nat) : Bool := s.hostMode P.thermPsMode b

/-- A host value stands in for the junctions of half-bridge g: one has come since THERM.PS_MODE became `host`. -/
def State.hostJunction (s : State) (g : Nat) : Bool := Smap.get (fun _ => false) s.therm.hostIn g

/-- The six junctions of bridge b as in THERM.TJ, in 1/128 °C, each with its sensor number of R380. -/
def State.junctions (s : State) (b : Nat) : List (Int × Nat) :=
  ((gensOfBridge b).map (fun g =>
    let v := s.reg P.thermTj g
    [(q7Of (bits v 0 16), 12 + 2 * g), (q7Of (bits v 16 16), 13 + 2 * g)])).flatten

/-- The hottest junction of bridge b (R378). -/
def State.hottest (s : State) (b : Nat) : Int × Nat :=
  match s.junctions b with
  | [] => (0, 0)
  | c0 :: r => r.foldl (fun (a : Int × Nat) c => if a.1 < c.1 then c else a) c0

/-- THERM.TJ of a half-bridge: the model's junctions, or the host's values, in whose place the last output stands
until the first has come (R129, R378, R379). THERM.T_BR of its bridge follows. -/
def State.writeTj (s : State) (g : Nat) : State :=
  let x := s.foster g
  let s := s.setReg P.thermTj g (
    if s.hostTemps (g / 3) then (if s.hostJunction g then s.reg P.thermHostT g else s.reg P.thermTj g)
    else q7Code (toQ7 x.tjHi) + q7Code (toQ7 x.tjLo) * 65536)
  s.setReg P.thermTBr (g / 3) (q7Code (s.hottest (g / 3)).1)

/-- R_DS at a junction temperature (R376). -/
def State.rds (s : State) (b : Nat) (t : F32) : F32 :=
  F32.mul (s.f P.thermRds25 b) (F32.add F32.one (F32.mul (s.f P.thermRdsTc b) (F32.sub t (F32.ofNat 25))))

/-- What drives the losses of one half-bridge over an interval. -/
inductive LossKind where
  /-- Switching with phase current i and bus voltage V_b (R376). -/
  | switching (i vb : F32)
  /-- Short-circuit current I_SC through one side (R377). -/
  | shorted (isc : F32) (high : Bool)
  /-- No loss. -/
  | zero
  deriving DecidableEq, Repr

/-- One stage of the network (R378). -/
def fosterStep (dT p r tau dt : F32) : F32 :=
  let a := expF (F32.div (F32.neg dt) tau)
  F32.add (F32.mul dT a) (F32.mul (F32.mul p r) (F32.sub F32.one a))

/-- Losses of the two switches over `dt` (R376, R377). -/
def State.losses (s : State) (g : Nat) (k : LossKind) (dt : F32) (tHF tLF dtF : Nat) (n : Nat) : F32 × F32 :=
  let b := g / 3
  let x := s.foster g
  match k with
  | .zero => (0#32, 0#32)
  | .shorted isc high =>
    let half := F32.div (F32.mul isc isc) F32.two
    if high then (F32.mul half (s.rds b x.tjHi), 0#32) else (0#32, F32.mul half (s.rds b x.tjLo))
  | .switching i vb =>
    let i2 := F32.mul i i
    let cHi := F32.mul (F32.mul (F32.ofRatio false tHF dtF) i2) (s.rds b x.tjHi)
    let cLo := F32.mul (F32.mul (F32.ofRatio false tLF dtF) i2) (s.rds b x.tjLo)
    let dio := F32.mul (F32.mul (F32.ofRatio false (dtF - tHF - tLF) dtF) (s.f P.thermVf b)) (F32.abs i)
    let e := F32.mul (F32.mul (s.f P.thermEsw b) (F32.div (F32.abs i) (s.f P.thermEswI b))) (F32.div vb (s.f P.thermEswV b))
    let sw := F32.div (F32.mul (F32.ofFrac n 2) e) dt
    if F32.lt i 0#32 then (F32.add cHi dio, F32.add cLo sw) else (F32.add cHi sw, F32.add cLo dio)

/-- The loss accumulator updates half-bridge g (R375 to R378). -/
def State.lossUpdate (s : State) (g : Nat) (k : LossKind) : State :=
  let x := s.foster g
  let y := s.gen g
  let s := s.setGen g { y with accH := 0, accL := 0, accN := 0, accAt := s.nowF }
  if s.epoch ≤ x.at_ then s
  else
    let dtF := (s.epoch - x.at_) * 32
    let since (e : Nat) : Nat := s.nowF - Nat.max e y.accAt
    let tH := Nat.min dtF (y.accH + if y.gh then since y.edgeH else 0)
    let tL := Nat.min dtF (y.accL + if y.gl then since y.edgeL else 0)
    let dt := secsF dtF
    let (pHi, pLo) := s.losses g k dt tH tL dtF y.accN
    let sum := F32.add pHi pLo
    let b := g / 3
    let r (i : Nat) : F32 := s.f P.thermFosterR (4 * b + i)
    let tau (i : Nat) : F32 := s.f P.thermFosterTau (4 * b + i)
    let h1 := fosterStep x.hi1 pHi (r 0) (tau 0) dt
    let l1 := fosterStep x.lo1 pLo (r 0) (tau 0) dt
    let t2 := fosterStep x.t2 sum (r 1) (tau 1) dt
    let t3 := fosterStep x.t3 sum (r 2) (tau 2) dt
    let t4 := fosterStep x.t4 sum (r 3) (tau 3) dt
    let total (t1 : F32) : F32 := F32.add (F32.add (F32.add (F32.add (s.tNtc b) t1) t2) t3) t4
    let s := s.setFoster g { hi1 := h1, lo1 := l1, t2 := t2, t3 := t3, t4 := t4, tjHi := total h1, tjLo := total l1, at_ := s.epoch }
    (s.setReg P.thermPLoss g (pHi.toNat + pLo.toNat * 2 ^ 32)).writeTj g

/-- A fallback of THERM.PS_MODE: each stage 1 is set so that its junction equals the held host value
(R379). -/
def State.holdJunction (s : State) (g : Nat) : State :=
  let x := s.foster g
  let v := if s.hostJunction g then s.reg P.thermHostT g else s.reg P.thermTj g
  let rest := F32.add (F32.add (F32.add (s.tNtc (g / 3)) x.t2) x.t3) x.t4
  let hi := q7F (q7Of (bits v 0 16))
  let lo := q7F (q7Of (bits v 16 16))
  s.setFoster g { x with hi1 := F32.sub hi rest, lo1 := F32.sub lo rest, tjHi := hi, tjLo := lo }

/-- Loss of a generator at a boundary of its drive: none where it is floated or forced `off`, the
short-circuit current where the drive stands in a short or its generator under an `asc` level, else the
phase current (R376, R377). -/
def State.lossKind (s : State) (d g : Nat) (i vb : F32) : LossKind :=
  let x := s.drv d
  let lvl := s.forceLevel g
  let ovr := s.reg P.pwmOvr (s.ilLead g)
  let short := x.phase == .stopping && x.stop.ph == StopPh.short && !x.stop.listen
  if lvl = 1 ∨ (lvl = 0 ∧ ovr = 1) then .zero
  else if lvl = 2 ∨ short then
    let w := F32.abs x.trk.omega
    let xl := F32.mul w (s.f P.focLd d)
    let rs := s.f P.focRs d
    .shorted (F32.div (F32.mul w (s.f P.focPsi d)) (F32.sqrt (F32.add (F32.mul rs rs) (F32.mul xl xl)))) (lvl == 0 && ovr == 3)
  else .switching i vb

/-! Levels (R381 to R388). -/

/-- Threshold l (1 `warn` to 3 `shutdown`) of unit u: temperature and fall point in 1/1280 °C (R381). -/
def State.level (s : State) (u l : Nat) : Int × Int :=
  let v := if u < 3 then s.reg P.thermDieLvl (l - 1) else s.reg P.thermPsLvl (3 * (u - 3) + l - 1)
  let t := q7Of (bits v 0 16) * 10
  (t, t - (bits v 16 8 * 128 : Nat))

/-- Highest level whose temperature a T reaches; 0 `normal` (R382, R388). -/
def State.reached (s : State) (u : Nat) (t : Int) : Nat :=
  if (s.level u 3).1 ≤ t * 10 then 3 else if (s.level u 2).1 ≤ t * 10 then 2 else if (s.level u 1).1 ≤ t * 10 then 1 else 0

/-- LEVEL of THERM.LEVEL[u]. -/
def State.lvlOf (s : State) (u : Nat) : Nat := bits (s.reg P.thermLevel u) 0 2
def State.setLvl (s : State) (u lvl up dn : Nat) : State := s.setReg P.thermLevel u (lvl + up * 16 + dn * 256)

/-- One count of THERM.CROSS_CNT (R383). -/
def State.countCross (s : State) (u l : Nat) (up : Bool) : State :=
  let e := 3 * u + l - 1
  let v := s.reg P.thermCrossCnt e
  s.setReg P.thermCrossCnt e (if up then satInc top16 (bits v 0 16) + bits v 16 16 * 65536
    else bits v 0 16 + satInc top16 (bits v 16 16) * 65536)

/-- Drives affected by a unit (R386). -/
def State.unitDrives (s : State) (u : Nat) : List Nat :=
  if u = 0 then [0, 1, 2, 3] else if u < 3 then s.ownersOf (dieBridges (u - 1)) else s.ownersOf [u - 3]

/-- The four words of a shutdown record (R387). -/
def shdnWords (entry path cell : Nat) (tEntry peak : Int) (rate : F32) (clear drives unit era : Nat) : List Nat :=
  [entry,
   path + cell * 2 ^ 24 + q7Code tEntry * 2 ^ 32 + q7Code peak * 2 ^ 48,
   rate.toNat + clear % 2 ^ 32 * 2 ^ 32,
   clear / 2 ^ 32 + drives * 2 ^ 32 + unit * 2 ^ 40 + era % 65536 * 2 ^ 48]

/-- A unit enters `shutdown`: its record waits for its write (R387). -/
def State.enterShdn (s : State) (u : Nat) (t : Int) : State :=
  let (path, cell) := Smap.get (fun _ => (0, 0)) s.therm.hot u
  let rate := (Smap.get (fun _ => none) s.therm.rate u).getD 0#32
  let words := shdnWords s.epoch path cell t t rate 0 (drivesMask (s.unitDrives u)) u (s.reg P.timeEra 0)
  { s with flt := { s.flt with shdnQ := s.flt.shdnQ ++ [(u, words)] },
           therm := { s.therm with shdn := Smap.set (fun _ => none) s.therm.shdn u (some ⟨8, t⟩) } }

/-- A unit enters a level (R383). -/
def State.enterLevel (s : State) (u lvl : Nat) (up : Bool) (t : Int) : State :=
  let s := s.setLvl u lvl 0 0
  let s := s.countCross u (if lvl = 0 then 1 else lvl) up
  match lvl with
  | 1 => s.report K.thermWarn u s.epoch
  | 2 => s.report K.thermThrottle u s.epoch
  | 3 => (s.enterShdn u t).report K.thermShdn u s.epoch
  | _ => s

/-- One unit at a round end (R382). -/
def State.evalLevel (s : State) (u : Nat) (t : Int) : State :=
  let v := s.reg P.thermLevel u
  let lvl := bits v 0 2
  let up := bits v 4 4
  let dn := bits v 8 4
  let dwell := s.reg P.thermDwell 0
  let top := s.reached u t
  if lvl ≠ 3 ∧ lvl < top then
    (if dwell ≤ up + 1 then s.enterLevel u top true t else s.setLvl u lvl (up + 1) 0)
  else if (lvl = 1 ∨ lvl = 2) ∧ t * 10 ≤ (s.level u lvl).2 then
    (if dwell ≤ dn + 1 then
      s.enterLevel u (if lvl = 2 ∧ (s.level u 1).2 < t * 10 then 1 else 0) false t
     else s.setLvl u lvl 0 (dn + 1))
  else if lvl = 3 then s
  else s.setLvl u lvl 0 0

/-- PEAK of a unit in shutdown (R387). -/
def State.trackPeak (s : State) (u : Nat) (t : Int) : State :=
  match Smap.get (fun _ => none) s.therm.shdn u with
  | some x => if x.peak < t then { s with therm := { s.therm with shdn := Smap.set (fun _ => none) s.therm.shdn u (some { x with peak := t }) } } else s
  | none => s

/-- SHDN_RECORD_WRITE (R387): the oldest waiting record is written to the next slot. -/
def execShdnRecordWrite (s : State) : Out :=
  fin (
    match s.flt.shdnQ with
    | [] => s
    | (u, words) :: rest =>
      let slot := s.reg P.thermShdnNext 0
      let s := s.each (List.range 4) (fun s w => s.setReg P.thermShdnRec (4 * slot + w) (words.getD w 0))
      let s := s.setReg P.thermShdnNext 0 ((slot + 1) % 8)
      let s := { s with flt := { s.flt with shdnQ := rest } }
      match Smap.get (fun _ => none) s.therm.shdn u with
      | some x => { s with therm := { s.therm with shdn := Smap.set (fun _ => none) s.therm.shdn u (some { x with slot := slot }) } }
      | none => s)

/-- PEAK and CLEAR of a unit's record (R387), in its slot or in the record that still waits. -/
def closeWords (words : List Nat) (peak : Int) (clear : Nat) : List Nat :=
  let w (i : Nat) : Nat := words.getD i 0
  [w 0, putBits (w 1) 48 16 (q7Code peak), putBits (w 2) 32 32 (clear % 2 ^ 32), putBits (w 3) 0 32 (clear / 2 ^ 32)]

/-- FLT_CLEAR of THERM_SHDN leaves `shutdown` at once (R388). -/
def State.leaveShdn (s : State) (u : Nat) : State :=
  let t := (Smap.get (fun _ => none) s.therm.temp u).getD 0
  let s : State := match Smap.get (fun _ => none) s.therm.shdn u with
    | some x =>
      let s := { s with therm := { s.therm with shdn := Smap.set (fun _ => none) s.therm.shdn u none } }
      if x.slot < 8 then
        let old := (List.range 4).map (fun w => s.reg P.thermShdnRec (4 * x.slot + w))
        let new := closeWords old x.peak s.epoch
        s.each (List.range 4) (fun s w => s.setReg P.thermShdnRec (4 * x.slot + w) (new.getD w 0))
      else { s with flt := { s.flt with shdnQ := s.flt.shdnQ.map (fun (v, ws) => if v = u then (v, closeWords ws x.peak s.epoch) else (v, ws)) } }
    | none => s
  if s.lvlOf u = 3 then (s.unlive K.thermShdn u).enterLevel u (s.reached u t) false t else s

/-- A FLT_CLEAR of THERM_SHDN is refused while T of the last round lies above the fall point (R388). -/
def State.shdnPresent (s : State) (u : Nat) : Bool :=
  s.lvlOf u == 3 && decide ((s.level u 3).2 < (Smap.get (fun _ => none) s.therm.temp u).getD 0 * 10)

/-! Rate of rise (R380). -/

/-- A reading joins the history of one sensor, newest first. -/
def State.pushRor (s : State) (i : Nat) (v : Option (Nat × Word × Bool)) : State :=
  let h := Smap.get (fun _ => []) s.therm.ror i
  { s with therm := { s.therm with ror := Smap.set (fun _ => []) s.therm.ror i ((v :: h).take 16) } }

/-- Rate between the newest reading, unless it was held, and the one ROR_N rounds earlier, K/s (R380). -/
def State.rateOf (s : State) (i : Nat) : Option F32 :=
  let h := Smap.get (fun _ => []) s.therm.ror i
  match h.head?, h[s.reg P.thermRorN 0]? with
  | some (some (t1, v1, true)), some (some (t0, v0, _)) =>
    if t0 < t1 then some (F32.div (F32.sub v1 v0) (secsF ((t1 - t0) * 32))) else none
  | _, _ => none

/-- Unit of a sensor: of diode i < 12 its die, of a junction its bridge (R383). -/
def rorUnit (i : Nat) : Nat := if i < 12 then i / 4 else 3 + (i - 12) / 6

/-- The rate of one sensor is judged at a round end; a fault already live raises nothing more (R380). -/
def State.judgeRate (s : State) (i : Nat) : State :=
  match s.rateOf i with
  | none => s
  | some r =>
    let u := rorUnit i
    let best := match Smap.get (fun _ => none) s.therm.rate u with | some q => F32.max q r | none => r
    let s := { s with therm := { s.therm with rate := Smap.set (fun _ => none) s.therm.rate u (some best) } }
    let thr := if i < 12 then F32.ofFrac (s.reg P.thermRorDie 0) 10 else F32.ofNat (s.reg P.thermRorPs (u - 3))
    if F32.lt thr r && !s.hasCause K.thermRor i then (s.bump P.thermRorCnt u top32).report K.thermRor i s.epoch else s

/-! The round end. -/

/-- Die i takes the readings of the round (R373). -/
def State.dieRound (s : State) (i : Nat) (rs : List (Nat × Word × Bool × Nat)) : State :=
  let mine := rs.filter (fun (c, _, _, _) => c / 4 == i && decide (c < 12))
  let ok (v : Word) (good : Bool) : Bool := good && F32.le (F32.ofInt (-55)) v && F32.le v (F32.ofNat 200)
  let s := s.each mine (fun s (c, v, good, _) => if ok v good then s else s.report K.tsensBad c s.epoch)
  let s := s.each ((List.range 4).map (4 * i + ·)) (fun s c =>
    s.pushRor c (match mine.reverse.find? (fun (c', v, good, _) => c' == c && ok v good) with
      | some (_, v, _, t) => some (t, v, true) | none => none))
  let valid := mine.filter (fun (_, v, good, _) => ok v good)
  match valid with
  | [] => { s with therm := { s.therm with rate := Smap.set (fun _ => none) s.therm.rate i none } }
  | (c0, v0, _, _) :: r =>
    let (c, v) := r.foldl (fun (c, v) (c', v', _, _) => if F32.lt v v' then (c', v') else (c, v)) (c0, v0)
    let s := s.setReg P.thermTDie i (q7Code (toQ7 v))
    { s with therm := { s.therm with
        temp := Smap.set (fun _ => none) s.therm.temp i (some (toQ7 v)),
        hot := Smap.set (fun _ => (0, 0)) s.therm.hot i (diodePath i (c % 4), 0),
        rate := Smap.set (fun _ => none) s.therm.rate i none } }

/-- T_NTC of a ratio (R374). -/
def State.ntcTemp (s : State) (b : Nat) (r : F32) : F32 :=
  let res := F32.div (F32.mul (s.f P.thermNtcRpu b) r) (F32.sub F32.one r)
  let inv := F32.add (F32.div F32.one (F32.ofFrac 29815 100)) (F32.div (lnF (F32.div res (s.f P.thermNtcR25 b))) (s.f P.thermNtcB b))
  F32.sub (F32.div F32.one inv) (F32.ofFrac 27315 100)

/-- Bridge b takes its NTC reading of the round; answers whether T_NTC is new (R374). -/
def State.ntcRound (s : State) (b : Nat) (rs : List (Nat × Word × Bool × Nat)) : State × Bool :=
  match rs.reverse.find? (fun (c, _, _, _) => c == 12 + b) with
  | none => (s, false)
  | some (_, r, good, _) =>
    if good && F32.le (F32.ofFrac 2 100) r && F32.le r (F32.ofFrac 98 100) then
      let t := s.ntcTemp b r
      let s := { s with therm := { s.therm with ntc := Smap.set (fun _ => none) s.therm.ntc b (some t) } }
      ((s.setReg P.thermTNtc b (q7Code (toQ7 t))).unlive K.ntcBad b, true)
    else (s.report K.ntcBad b s.epoch, false)

/-- Bridges whose half-bridges are updated at the drive's boundaries, not at the round end (R375). -/
def State.updatedByDrive (s : State) (b : Nat) : Bool :=
  s.pwr.mode == .full && (match s.ownerOf b with
    | some d => s.computes d || (s.role d == 3 && (s.drv d).car.run)
    | none => false)

/-- T and the hottest junction of bridge b at a round end (R378, R382). -/
def State.bridgeRound (s : State) (b : Nat) : State :=
  let (t, i) := s.hottest b
  { s with therm := { s.therm with
      temp := Smap.set (fun _ => none) s.therm.temp (3 + b) (some t),
      hot := Smap.set (fun _ => (0, 0)) s.therm.hot (3 + b) (sourcePath K.thermRor i, sourceCell K.thermRor i),
      rate := Smap.set (fun _ => none) s.therm.rate (3 + b) none } }

/-- f_b of R385. -/
def State.factor (s : State) (b : Nat) : F32 :=
  if s.lvlOf (3 + b) < 2 then F32.one
  else
    let t := (Smap.get (fun _ => none) s.therm.temp (3 + b)).getD 0
    let above := F32.ofFrac (t * 10 - (s.level (3 + b) 2).1) 1280
    F32.max (F32.ofFrac (s.reg P.thermDerFloor b) 32768)
      (F32.min F32.one (F32.sub F32.one (F32.mul (s.f P.thermDerSlope b) above)))

/-- The thermal part of a housekeeping round's end (R373 to R385). -/
def State.thermRound (s : State) (rs : List (Nat × Word × Bool × Nat)) : State :=
  let dies := (List.range 3).filter (fun i => rs.any (fun (c, v, good, _) =>
    c / 4 == i && decide (c < 12) && good && F32.le (F32.ofInt (-55)) v && F32.le v (F32.ofNat 200)))
  let s := s.each (List.range 3) (fun s i => s.dieRound i rs)
  let s := s.each (List.range 4) (fun s b =>
    let (s, fresh) := s.ntcRound b rs
    let s := if s.updatedByDrive b then s else s.each (gensOfBridge b) (fun s g => s.lossUpdate g .zero)
    let s := s.each (gensOfBridge b) (fun s g => s.writeTj g)
    let s := s.bridgeRound b
    s.each (gensOfBridge b) (fun s g =>
      let v := s.reg P.thermTj g
      let put (c : Nat) : Option (Nat × Word × Bool) := some (s.epoch, q7F (q7Of c), fresh || s.hostTemps b)
      (s.pushRor (12 + 2 * g) (put (bits v 0 16))).pushRor (13 + 2 * g) (put (bits v 16 16))))
  let s := s.each (List.range 36) (fun s i => s.judgeRate i)
  let s := s.each (dies ++ [3, 4, 5, 6]) (fun s u =>
    let t := (Smap.get (fun _ => none) s.therm.temp u).getD 0
    (s.evalLevel u t).trackPeak u t)
  let s := s.each (List.range 4) (fun s b =>
    { s with therm := { s.therm with fb := Smap.set (fun _ => none) s.therm.fb b (some (s.factor b)) } })
  s.each (List.range 4) (fun s d =>
    let f := (s.bridges d).foldl (fun a b => F32.min a ((Smap.get (fun _ => none) s.therm.fb b).getD F32.one)) F32.one
    s.setF P.thermITherm d (F32.mul (s.f P.focIMax d) f))

end Sys2Proof.Machine
end

