-- ==== Sys2Proof/Machine/Converters.lean ====
section
/-! DEFINITION. Fast converters, the checker's schedule and the housekeeping converter (R178 to R202),
with the trims and the delay-line calibration that follow each round (R32 to R34). -/

namespace Sys2Proof.Machine

/-- The sample word (R183). -/
def sampleWord (code : Nat) (orng inv : Bool) (reason ch src : Nat) : Nat :=
  code + orng.toNat * 2 ^ 16 + inv.toNat * 2 ^ 17 + (if inv then reason else 0) * 2 ^ 18 + ch * 2 ^ 20 + src * 2 ^ 26

/-- The 12-byte record of a sample (R185). -/
def sampleRecord (stamp word : Nat) : List Byte := leBytes 8 stamp ++ leBytes 4 word

/-! Marks of invalid samples (R186, R187). -/

/-- A gain change of bridge b takes effect (R182, R186, R188). -/
def State.gainChanged (s : State) (b : Nat) : State :=
  let s := (s.each [2 * b, 2 * b + 1] (fun s k => s.setConv k { s.conv k with gain := 3, hist := [] })).noteOfs b
  let g := s.reg P.adcGain b
  (s.setReg P.adcOfsA b (Config.ofsFactory false b g).toNat).setReg P.adcOfsB b (Config.ofsFactory true b g).toNat

/-- A change of ADC.FC_FILT[k] takes effect (R186). -/
def State.filtChanged (s : State) (k : Nat) : State := s.setConv k { s.conv k with filt := 4, hist := [] }

/-- The block reset of pair b has ended: 8 samples stay marked, the estimates and the run restart
(R16, R182, R196). -/
def State.pairReset (s : State) (b : Nat) : State :=
  let s := (s.each [2 * b, 2 * b + 1] (fun s k => s.setConv k { s.conv k with reset := 8, hist := [] })).noteOfs b
  let g := s.reg P.adcGain b
  let s := (s.setReg P.adcOfsA b (Config.ofsFactory false b g).toNat).setReg P.adcOfsB b (Config.ofsFactory true b g).toNat
  let c := s.checker b
  (s.setPicker b { s.picker b with plausRun := 0 }).setChecker b
    { vbus := c.vbus, vbusAt := c.vbusAt, zone := c.zone }

/-- Whether the converter's next sample is invalid, and its REASON (R187). -/
def Conv.reason (x : Conv) : Option Nat :=
  if x.reset ≠ 0 then some 3 else if x.gain ≠ 0 then some 1 else if x.filt ≠ 0 then some 2
  else if x.mux ≠ 0 then some 0 else none

/-! The checker's schedule (R190 to R193). -/

/-- A set has a request edge at a position, in fractions of a period of `per` ticks, from `lo` up to but not including
`hi` (R139, R140). -/
def setEdge (per a b ovr lo hi : Nat) : Bool :=
  ovr == 0 && !isNever per a && a != b && [a, b].any (fun x => !isNever per x && decide (lo ≤ x) && decide (x < hi))

/-- A request edge is predicted on bridge b between this sample's instant and that `n` ticks later (R191). A generator
follows the set of its interlock group's lead (R151). -/
def State.predicts (s : State) (b n : Nat) : Bool :=
  match s.ownerOf b with
  | none => false
  | some d =>
    let c := (s.drv d).car
    if !c.run || s.pwm.halted.isSome then false
    else
      let stop := c.cnt + n
      let r := if c.spp = 2 ∧ c.cnt < c.half then c.half else c.len
      let base := if r = c.len then 0 else r
      (gensOfBridge b).any (fun g =>
        let l := s.ilLead g
        let x := s.gen l
        let (a, b', o) := (s.reg P.pwmCmpa l, s.reg P.pwmCmpb l, s.reg P.pwmOvr l)
        let (a2, b2, o2) := if c.commit then (x.shA, x.shB, x.shOvr) else (a, b', o)
        setEdge c.per a b' o (c.cnt * 32 + 1) (Nat.min r stop * 32)
        || (decide (r < stop) &&
            ((o == 0 && o2 == 0 && requestAt c.per a b' (r * 32 - 1) != requestAt c.per a2 b2 (base * 32))
             || setEdge c.per a2 b2 o2 (base * 32) ((base + (stop - r)) * 32))))

/-- Entry `i` of ADC.CHK_LIST[b], restarting after the last (R192): the channel and the next entry. -/
def State.chkEntry (s : State) (b i : Nat) : Nat × Nat :=
  let l := s.reg P.adcChkList b
  let i := if 8 ≤ i ∨ bits l (4 * i) 4 = 15 then 0 else i
  (bits l (4 * i) 4, i + 1)

/-- Samples of a slot after its first (R191). -/
def State.slotLen (s : State) (b : Nat) : Nat := s.reg P.adcChkSlot b

/-- One update of OFS_B from a slot that holds two or more valid samples (R182). -/
def State.closeSlot (s : State) (b : Nat) : State :=
  let c := s.checker b
  if c.ch = 5 ∧ 2 ≤ c.n then s.setReg P.adcOfsB b (offsetStep (s.reg P.adcOfsB b) c.sum c.n) else s

/-- A result of a checker sample taken now leaves for the bus or the position block (R178). -/
def State.sendResult (s : State) (x : FcResult) : State := { s with fcQ := s.fcQ ++ [(s.epoch + 12, x)] }

/-- An eclipse request whose slot cannot be taken: an observation without a value at the centre (R193, R243). -/
def State.missReq (s : State) (b : Nat) (r : EclReq) : State :=
  let s := s.setChecker b { s.checker b with reqs := (s.checker b).reqs.drop 1 }
  s.sendResult (.slot r.drive ((r.start + r.stop) * 16) r.low none 0)

/-- The checker turns to a channel at this sample; a slot's first sample is marked `mux` (R186, R191). -/
def State.turnTo (s : State) (b ch left : Nat) (ecl : Option EclReq) (idx : Nat) : State :=
  let c := s.checker b
  let k := 2 * b + 1
  let s := if left ≠ 0 ∨ c.ch ≠ ch then s.setConv k { s.conv k with mux := 1, hist := [] } else s
  s.setChecker b { c with ch := ch, left := left, len := left - 1, ecl := ecl, idx := idx, sum := 0, n := 0, slotAt := s.epoch }

/-- The checker chooses what it converts at this sample (R190 to R193). -/
def State.schedule (s : State) (b : Nat) : State :=
  let p := s.picker b
  let c := s.checker b
  let edge := c.zone != p.edgeAt
  let s := s.setChecker b { c with zone := p.edgeAt }
  if p.st ≠ 2 ∨ edge then
    let s := if c.left ≠ 0 then s.closeSlot b else s
    s.turnTo b 0 0 none c.idx
  else if c.left ≠ 0 then s
  else
    let n := s.slotLen b
    let m := (n + 1) / 2
    -- requests whose time has passed are observed without a slot
    let off (r : EclReq) : Int := 2 * ((s.epoch : Int) + 10 * m) - (r.start + r.stop)
    let s := c.reqs.foldl (fun s r => if 10 < off r then s.missReq b r else s) s
    let c := s.checker b
    match c.reqs with
    | r :: _ =>
      if -10 < off r then
        (if s.predicts b (10 * n) then (s.missReq b r).turnTo b 0 0 none c.idx
         else (s.setChecker b { c with reqs := c.reqs.drop 1 }).turnTo b (2 + r.phase) (n + 1) (some r) c.idx)
      else if off r + 20 * (n + 1 : Nat) ≤ 10 && !s.predicts b (10 * n) then
        let (ch, next) := s.chkEntry b c.idx
        s.turnTo b ch (n + 1) none next
      else s.turnTo b 0 0 none c.idx
    | [] =>
      if s.predicts b (10 * n) then s.turnTo b 0 0 none c.idx
      else
        let (ch, next) := s.chkEntry b c.idx
        s.turnTo b ch (n + 1) none next

/-- The slot counts one sample; its last ends it (R191, R243). -/
def State.slotSample (s : State) (b code : Nat) (valid : Bool) : State :=
  let c := s.checker b
  if c.left = 0 then s
  else
    let c := { c with left := c.left - 1, sum := if valid then c.sum + code else c.sum, n := if valid then c.n + 1 else c.n }
    let s := s.setChecker b c
    if c.left ≠ 0 then s
    else
      let s := s.closeSlot b
      match c.ecl with
      | some r =>
        let mid := c.slotAt + 10 * ((c.len + 1) / 2)
        let s := s.setChecker b { s.checker b with ecl := none }
        s.sendResult (.slot r.drive (mid * 32) r.low (if c.n = 0 then none else some (c.sum, c.n)) (if r.low then 0 else c.vbus.getD 0))
      | none => s

/-- A VBUS sample of bridge b is taken: a valid one joins the mean of R197, and it leaves for the bus block (R178). -/
def State.vbusSample (s : State) (b code : Nat) (orng : Bool) : State :=
  let c := s.checker b
  let s :=
    if orng then s
    else
      let inHk := match s.hk.conv with | some (ch, t, _) => ch == 26 + b && decide (t + 400 ≤ s.epoch) | none => false
      s.setChecker b { c with vbus := some code, hkSum := if inHk then c.hkSum + code else c.hkSum,
                              hkN := if inHk then c.hkN + 1 else c.hkN }
  s.sendResult (.vbus b code orng)

/-- A result reaches the bus block or the position block (R178, R194, R243). -/
def State.arrive (s : State) (x : FcResult) : State :=
  match x with
  | .vbus b code orng =>
    let s := if orng then s else (s.setChecker b { s.checker b with vbusAt := s.epoch }).unlive K.vbusStale b
    s.busSample b code orng
  | .slot d t low val vbus => s.eclObserve d t low val vbus

/-- The results whose 60 ns have passed arrive, in the order of their samples (R178). -/
def State.arriveResults (s : State) : State :=
  let due := s.fcQ.takeWhile (fun x => decide (x.1 ≤ s.epoch))
  ({ s with fcQ := s.fcQ.drop due.length }).each due (fun s x => s.arrive x.2)

/-- A sample of converter k is taken: its marks, its average, the registers that show it, and what follows from a
primary and from a checker sample (R183 to R195). -/
def State.takeSample (s : State) (k code : Nat) (orng : Bool) : State :=
  let b := k / 2
  let primary := k % 2 == 0
  let inReset := s.flt.blk.any (fun u => match u with | .pair p => p.val == b | _ => false)
  let s := if primary || inReset then s else s.schedule b
  let x := s.conv k
  let ch := if primary then 0 else (s.checker b).ch
  let reason := if inReset then some 3 else x.reason
  let inv := reason.isSome
  let raw := if inReset then 0 else code
  let hist := if inv then [] else (raw :: x.hist).take (s.fcSpan k)
  let out := if inv || orng then raw else (2 * hist.foldl (· + ·) 0 + hist.length) / (2 * hist.length)
  let s := s.setConv k { mux := x.mux - 1, gain := x.gain - 1, filt := x.filt - 1,
                             reset := if inReset then x.reset else x.reset - 1, hist := hist, orng := orng, last := some s.epoch }
  let s := s.setReg P.adcLast k (sampleWord out orng inv (reason.getD 0) ch k)
  let s := if inv then s.bump P.adcInvCnt k top32 else s
  let s := if orng then s.bump P.adcOrngCnt k top32 else s
  let s := s.follow K.adcOrng k s.epoch orng
  let valid := !inv && !orng
  let p := s.picker b
  if primary then s.setPicker b { p with samples := (s.epoch, (out : Int), valid) :: p.samples }
  else
    let s := if ch = 0 then s.setPicker b { p with csamples := (s.epoch, (out : Int), valid) :: p.csamples } else s
    let s := if ch = 1 && !inv then s.vbusSample b out orng else s
    s.slotSample b out valid

/-- ADC_SAMPLE (R178, R183 to R195): one sample of converter k at its sampling instant. -/
def execAdcSample (k : Fin 8) (code : BitVec 14) (orng : Bool) (s : State) : Out :=
  fin (
    if !s.awake || (s.epoch + 10 - s.reg P.adcPhase k.val) % 10 != 0 || (s.conv k.val).last == some s.epoch then s
    else s.takeSample k.val code.toNat orng)

/-- VBUS_AGE_EXPIRY (R194). -/
def execVbusAgeExpiry (b : Fin 4) (s : State) : Out :=
  fin (
    if s.awake && expired (s.checker b.val).vbusAt (usTicks (s.reg P.adcVbusAgeMax b.val)) s.epoch then
      s.report K.vbusStale b.val s.epoch
    else s)

/-! Housekeeping (R198 to R202). -/

/-- HK_VALUE of a channel's code (R198, R199). -/
def hkValue (c code : Nat) : F32 :=
  let scale (num den : Nat) : F32 := F32.ofFrac (code * num : Nat) (65536 * den)
  if c < 12 then Config.diodeTemp code
  else if c < 16 then scale 1 1
  else if c < 20 then scale 18 10
  else if c = 20 then scale 45 1
  else if c < 23 then scale 225 10
  else if c = 23 then scale 36 10
  else if c < 26 then scale 18 10
  else if c < 30 then scale 300 1
  else scale 18 10

/-- A conversion starts; the checker sums of a VBUS channel restart (R197, R198). -/
def State.hkStart (s : State) (ch : Nat) (cmd : Option Cmd) : State :=
  let s := { s with hk := { s.hk with conv := some (ch, s.epoch, cmd) } }
  if 26 ≤ ch ∧ ch < 30 then s.setChecker (ch - 26) { s.checker (ch - 26) with hkSum := 0, hkN := 0 } else s

/-- Trims from the mean CD die temperature after a round (R32). -/
def State.clockTrims (s : State) (rs : List (Nat × Word × Bool × Nat)) : State :=
  let cd := (rs.filter (fun (c, _, good, _) => decide (c < 4) && good)).map (fun (_, v, _, _) => toQ7 v)
  if cd.isEmpty then s
  else
    let mean := roundDiv (sumInt cd) cd.length
    (s.setReg P.timeRcTrim 0 (Config.rcTrimAt mean).toNat).setReg P.timeBgTrim 0 (Config.bgTrimAt mean).toNat

/-- The delay-line calibration after a round (R33, R34). -/
def State.calibrate (s : State) : State :=
  let taps := (Config.dlTaps s.free).toNat
  let s := { s with free := s.free + 1 }
  if taps < 33 * 256 then s.report K.dlCal 0 s.epoch
  else (s.setReg P.timeDlTaps 0 taps).setReg P.timeDlCalEpoch 0 s.epoch

/-- A round starts; its first conversion follows in `hkAdvance` (R200). -/
def State.hkBegin (s : State) : State :=
  let s := s.setReg P.adcHkRoundEpoch 0 s.epoch
  let s := s.each [0, 1, 2, 3] (fun s b => s.setChecker b { s.checker b with plausWas := none, plausBad := false })
  { s with hk := { s.hk with round := true, pos := 0, late := false, results := [] } }

/-- The round ends (R200, R32, R33, R373). -/
def State.hkEnd (s : State) : State :=
  let rs := s.hk.results
  let s := s.bump P.adcHkRoundCnt 0 top32
  let s := { s with hk := { s.hk with round := false, conv := none } }
  ((s.thermRound rs).clockTrims rs).calibrate

/-- The next conversion of the round, or its end (R200). -/
def State.hkAdvance (s : State) : State :=
  match s.hkEntry 33 s.hk.pos with
  | some (i, ch) => ({ s with hk := { s.hk with pos := i + 1 } }).hkStart ch none
  | none => s.hkEnd

/-- HK_ROUND_START (R200). -/
def execHkRoundStart (s : State) : Out :=
  fin (
    if !s.awake || s.epoch < s.hk.due || s.flt.blk.contains .hk then s
    else
      let next := s.hk.due + msTicks (s.reg P.adcHkPeriod 0)
      let s := { s with hk := { s.hk with due := if next ≤ s.epoch then s.epoch + msTicks (s.reg P.adcHkPeriod 0) else next } }
      if s.hk.round then ({ s with hk := { s.hk with late := true } }).report K.hkLate 0 s.epoch
      else if s.hk.conv.isSome then { s with hk := { s.hk with late := true } }
      else s.hkBegin.hkAdvance)

/-- The HK value of VBUSb in a round against the checker's mean (R197). A round fails where one of its comparisons
does; three in a row are reported on the tick of the third one's first failure. -/
def State.vbusPlaus (s : State) (b code : Nat) : State :=
  let c := s.checker b
  if c.hkN = 0 then s
  else
    let d := ((code * c.hkN : Nat) - (4 * c.hkSum : Nat) : Int).natAbs
    let was := c.plausWas.getD c.plausRun
    if c.plausBad then s
    else if s.reg P.adcVbusPlausThr 0 * 65536 * c.hkN < d * 600 then
      let c := { c with plausWas := some was, plausBad := true }
      (if was + 1 < 3 then s.setChecker b { c with plausRun := was + 1 }
       else (s.setChecker b { c with plausRun := 0 }).report K.vbusPlaus b s.epoch)
    else s.setChecker b { c with plausWas := some was, plausRun := 0 }

/-- The conversion of channel `ch` has its result; `cmd` asked for it (R198, R200 to R202). -/
def State.hkResult (s : State) (ch code : Nat) (cmd : Option Cmd) : State :=
  let inv := s.hk.marks != 0
  let v := hkValue ch code
  let w := sampleWord code false inv 2 ch 8
  let s := ((s.setReg P.adcHkResult ch w).setReg P.adcHkEpoch ch s.epoch).setF P.adcHkValue ch v
  let s := { s with hk := { s.hk with conv := none, marks := s.hk.marks - 1 } }
  let s := if 26 ≤ ch ∧ ch < 30 ∧ inv = false ∧ cmd.isNone = true then s.vbusPlaus (ch - 26) code else s
  match cmd with
  | some c =>
    let s := s.respond c St.ok 0xFFFF (sampleRecord s.epoch w ++ leBytes 4 v.toNat)
    if s.hk.late then s.hkBegin.hkAdvance else s
  | none =>
    let s := { s with hk := { s.hk with results := s.hk.results ++ [(ch, v, !inv, s.epoch)] } }
    let s := s.hkAdvance
    if s.hk.late && !s.hk.round then s.hkBegin.hkAdvance else s

/-- HK_CONVERSION_DONE (R198, R200 to R202). -/
def execHkConversionDone (code : Half) (s : State) : Out :=
  fin (
    match s.hk.conv with
    | none => s
    | some (ch, t, cmd) =>
      if !s.awake || s.epoch < t + s.hkTicks || s.flt.blk.contains .hk then s
      else s.hkResult ch code.toNat cmd)

/-- ADC_URGENT (R202). -/
def bodyAdcUrgent (s : State) (c : Cmd) (pl : List Byte) : State × Reply :=
  if 31 < c.inst then (s, .refuse St.badInst)
  else if pl.length ≠ 0 then (s, .refuse St.length)
  else if s.hk.conv.isSome || s.hk.round || decide (s.hk.due ≤ s.epoch + s.hkTicks) then
    (s.bump P.adcUrgDrop 0 top32, .refuse St.dropped)
  else (s.hkStart c.inst (some c), .later)

def execAdcUrgent (h : Hdr) (pl : List Byte) (s : State) : Out := runCommand h 0x1101 pl s bodyAdcUrgent

end Sys2Proof.Machine
end

