-- ==== Sys2Proof/Machine/LinkCore.lean ====
section
/-! DEFINITION. Sending on the Dexlia link: ports, frames, classes, routes and retransmission (R442 to
R450). -/

namespace Sys2Proof.Machine

def State.port (s : State) (p : Nat) : PortSt := Smap.get (fun _ => {}) s.link.ports p
def State.setPort (s : State) (p : Nat) (x : PortSt) : State :=
  { s with link := { s.link with ports := Smap.set (fun _ => {}) s.link.ports p x } }

/-- STATE and TREE of LINK.PORT_STAT[p] (R465). -/
def State.portState (s : State) (p : Nat) : Nat := bits (s.reg P.linkPortStat p) 0 3
def State.portTree (s : State) (p : Nat) : Nat := bits (s.reg P.linkPortStat p) 3 2
def State.setPortState (s : State) (p v : Nat) : State := s.setReg P.linkPortStat p (putBits (s.reg P.linkPortStat p) 0 3 v)
def State.setPortTree (s : State) (p v : Nat) : State := s.setReg P.linkPortStat p (putBits (s.reg P.linkPortStat p) 3 2 v)
abbrev portOff : Nat := 0
abbrev portTrain : Nat := 1
abbrev portUp : Nat := 2
abbrev portSpare : Nat := 3
abbrev portDown : Nat := 4

def State.isRoot (s : State) : Bool := bit (s.reg P.linkCfg 0) 0
def State.linkAuth (s : State) : Bool := bit (s.reg P.linkCfg 0) 1
def State.mboxIn (s : State) : Bool := bit (s.reg P.linkCfg 0) 2
def State.linkId (s : State) : Nat := s.reg P.linkId 0
def State.joined (s : State) : Bool := bit (s.reg P.linkStat 0) 0
def State.healed (s : State) : Bool := bit (s.reg P.linkStat 0) 3

/-- Class of a frame type (R443); none for an unlisted type. -/
def frameClass (t : Nat) : Option Nat :=
  if [0x01, 0x02, 0x03, 0x04].contains t then some 0
  else if [0x10, 0x11].contains t then some 1
  else if t = 0x20 then some 2
  else if [0x30, 0x31, 0x32, 0x40, 0x41, 0x42, 0x43, 0x44].contains t then some 3
  else none

/-- Frame time in ticks, rounded up: (17 + LENGTH + 4·AUTH) × 4 ns (R442). -/
def State.frameTicks (s : State) (n : Nat) : Nat := ((17 + n + 4 * s.linkAuth.toNat) * 4 + 4) / 5

/-- The ring key of key-store slot 4 (R447, R466). -/
def State.ringKey (s : State) : List Byte :=
  ((List.range 2).map (fun w => leBytes 8 ((Smap.get (fun _ => none) s.keys (32 + w)).getD 0))).flatten

/-- A frame between /S/ and /T/ (R442). -/
def State.frameBytes (s : State) (f : OutFrame) : List Byte :=
  let flags := s.linkAuth.toNat + (frameClass f.type).getD 0 * 2 + f.ackReq.toNat * 8
  let body := leBytes 1 f.type ++ leBytes 1 f.dst ++ leBytes 1 f.src ++ leBytes 1 flags ++ leBytes 2 f.seq
    ++ leBytes 2 f.payload.length ++ f.payload
  body ++ leBytes 4 (crc32C body) ++ (if s.linkAuth then leBytes 4 (Config.cmac s.ringKey body).toNat else [])

/-- The departure stamp of /S/: epoch (8) and FRAC (1). -/
def stampBytes (fr : Nat) : List Byte := leBytes 8 (fr / 32) ++ leBytes 1 (fr % 32)

/-- `bs` put over a payload at an offset. -/
def overlay (pl : List Byte) (off : Nat) (bs : List Byte) : List Byte :=
  pl.take off ++ bs ++ pl.drop (off + bs.length)

/-- A frame as it leaves: departure stamp, and for a forwarded SYNC its residence and the delay of the
upstream port added to CORR (R453). -/
def State.departing (s : State) (f : OutFrame) : OutFrame :=
  let f := match f.stampAt with
    | some off => { f with payload := overlay f.payload off (stampBytes s.nowF) }
    | none => f
  match f.arrived with
  | some a =>
    let corr := toSigned 32 (fieldAt f.payload 12 4) + ((s.nowF - a : Nat) : Int)
    { f with payload := overlay f.payload 12 (leBytes 4 (ofSigned 32 corr)) }
  | none => f

/-- The waiting frame that a free port sends next: the lowest class, and in it the oldest (R444). -/
def nextFrame (q : List OutFrame) : Option OutFrame :=
  firstSome ((List.range 4).map (fun c => q.find? (fun f => frameClass f.type == some c)))

/-- A port whose frame has ended sends its next waiting frame (R444, R448, R452). -/
def State.portSend (s : State) (p : Nat) : State :=
  let x := s.port p
  let st := s.portState p
  if s.epoch < x.busy ∨ st = portOff then s
  else match nextFrame x.queue with
    | none => s
    | some f =>
      let g := s.departing f
      let x := { x with queue := x.queue.erase f, busy := s.epoch + s.frameTicks g.payload.length,
                        t1 := if g.type = 0x02 ∧ g.src = s.linkId then some s.nowF else x.t1,
                        unacked := if g.ackReq && g.src == s.linkId then
                            (if x.unacked.any (fun u => u.frame.type == g.type && u.frame.seq == g.seq && u.frame.dst == g.dst)
                             then x.unacked.map (fun u => if u.frame.type == g.type && u.frame.seq == g.seq && u.frame.dst == g.dst
                               then { u with at_ := s.epoch } else u)
                             else x.unacked ++ [⟨g, s.epoch, 0⟩])
                          else x.unacked }
      let s := s.setPort p x
      { s with link := { s.link with tx := s.link.tx ++ [(p, s.frameBytes g)] } }

/-- A frame joins the queue of a port, and leaves at once where the port is free (R444). -/
def State.enqueue (s : State) (p : Nat) (f : OutFrame) : State :=
  let x := s.port p
  (s.setPort p { x with queue := x.queue ++ [f] }).portSend p

/-- Ports that carry tree traffic: in `up` with a tree role (R445, R450). -/
def State.treePorts (s : State) : List Nat := [0, 1, 2].filter (fun p => s.portState p == portUp && s.portTree p != 0)

/-! Routes (R445, R450). -/

/-- PARENT of device n; none for the root, and for an ID that is not in the tree. -/
def State.parentOf (s : State) (n : Nat) : Option Nat :=
  let v := s.reg P.linkNode n
  if bit v 31 && bits v 0 8 != 0xFF then some (bits v 0 8) else none

def State.nodeCount (s : State) : Nat := bits (s.reg P.linkTopo 0) 0 8

/-- The links of the present tree: parent links, and after a heal the spare link, without the broken one. -/
def State.treeLinks (s : State) : List (Nat × Nat) :=
  let ids := List.range s.nodeCount
  let up := ids.filterMap (fun n => (s.parentOf n).map (fun p => (n, p)))
  let sp := if s.healed then ids.filterMap (fun n =>
      let q := Smap.get (fun _ => 0xFF) s.link.spare n
      if q < s.nodeCount then some (n, q) else none) else []
  (up ++ sp).filter (fun (a, b) => match s.link.broken with
    | some (x, y) => !((a == x && b == y) || (a == y && b == x)) | none => true)

/-- Devices linked to n. -/
def linkedTo (ls : List (Nat × Nat)) (n : Nat) : List Nat :=
  (ls.filterMap (fun (a, b) => if a = n then some b else if b = n then some a else none)).eraseDups

/-- Device `goal` can be reached from the devices of a frontier without passing a visited one. -/
def reaches (ls : List (Nat × Nat)) (goal : Nat) : Nat → List Nat → List Nat → Bool
  | 0, _, _ => false
  | fuel + 1, seen, front =>
    if front.contains goal then true
    else if front.isEmpty then false
    else
      let seen := seen ++ front
      reaches ls goal fuel seen (((front.map (linkedTo ls)).flatten.eraseDups).filter (fun x => !seen.contains x))

/-- Device ID of the neighbour on a port. -/
def State.peerId (s : State) (p : Nat) : Option Nat :=
  (s.link.ids.find? (fun (u, _) => u == (s.port p).peer)).map (·.2)

/-- The port towards a device (R445). -/
def State.route (s : State) (id : Nat) : Option Nat :=
  let ls := s.treeLinks
  s.treePorts.find? (fun p => match s.peerId p with
    | some n => reaches ls id 256 [s.linkId] [n] | none => false)

/-- The next SEQ of a type (R442). -/
def State.takeSeq (s : State) (t : Nat) : Nat × State :=
  let n := Smap.get (fun _ => 0) s.link.seqs t
  (n, { s with link := { s.link with seqs := Smap.set (fun _ => 0) s.link.seqs t ((n + 1) % 65536) } })

/-- A frame of this device to another device; dropped where no route leads there. -/
def State.sendTo (s : State) (t dst : Nat) (ackReq : Bool) (pl : List Byte) : State :=
  let (n, s) := s.takeSeq t
  match s.route dst with
  | some p => s.enqueue p { type := t, dst := dst, src := s.linkId, ackReq := ackReq, seq := n, payload := pl }
  | none => s

/-- A broadcast of this device on every tree port. -/
def State.broadcast (s : State) (t : Nat) (pl : List Byte) : State :=
  let (n, s) := s.takeSeq t
  s.each s.treePorts (fun s p => s.enqueue p { type := t, dst := 0xFF, src := s.linkId, seq := n, payload := pl })

/-- A frame to the neighbour on a port (DST 0xFE). -/
def State.sendNeighbour (s : State) (p t : Nat) (pl : List Byte) (stampAt : Option Nat) : State :=
  let (n, s) := s.takeSeq t
  s.enqueue p { type := t, dst := 0xFE, src := s.linkId, seq := n, payload := pl, stampAt := stampAt }



/-- A mailbox message as MBOX frames (R444, R455). -/
def State.sendMbox (s : State) (dst : Nat) (msg : List Byte) : State :=
  s.each (segmentRun 64 0 63 msg) (fun s seg => s.sendTo 0x30 dst true seg)

/-- GANG to one member (R458). -/
def State.sendGang (s : State) (dev hdrv cmd spp per brs anchor : Nat) : State :=
  s.sendTo 0x43 dev true (leBytes 1 hdrv ++ leBytes 1 cmd ++ leBytes 1 spp ++ zeros 1 ++ leBytes 2 per ++ leBytes 1 brs
    ++ zeros 1 ++ leBytes 8 anchor)

/-- Enabled LINK.GANG entries of a home drive (R457). -/
def State.gangEntries (s : State) (d : Nat) : List Nat :=
  (List.range 16).filter (fun j => bit (s.reg P.linkGang j) 15 && bits (s.reg P.linkGang j) 12 2 == d)
def State.gangDev (s : State) (j : Nat) : Nat := bits (s.reg P.linkGang j) 0 8
def State.gangBridges (s : State) (j : Nat) : List Nat := setBits 4 (bits (s.reg P.linkGang j) 8 4)

/-- What the members of a home drive report no longer stands: they send no REPORT while stopped (R458 to R460). -/
def State.forgetReports (s : State) (d : Nat) : State :=
  { s with
    link := { s.link with reports := s.link.reports.filter (fun x => decide (x.1 % 4 ≠ d)),
                          acts := s.link.acts.filter (fun x => decide (x.1 % 4 ≠ d)) },
    therm := { s.therm with member := Smap.set (fun _ => none) s.therm.member d none } }

/-- The members of a started home drive are told to stop when the drive reaches `stopped` (R458). -/
def State.gangStop (s : State) (d : Nat) : State :=
  if (s.drv d).start.gangOn && s.stopped d then
    let s := (s.modDrv d (fun x => { x with start := { x.start with gangOn := false } })).forgetReports d
    s.each (s.gangEntries d) (fun s j => s.sendGang (s.gangDev j) d 1 (s.reg P.engSpp d) (s.reg P.pwmPeriod d) (bits (s.reg P.linkGang j) 8 4) 0)
  else s

end Sys2Proof.Machine
end

