-- ==== Sys2Proof/Machine/Collector.lean ====
section
/-! DEFINITION. The commands and timers of the fault collector: clears, views, journal, mirror,
penumbras and injection (R400, R409, R411 to R421). -/

namespace Sys2Proof.Machine

/-! Clearing (R411 to R413). -/

/-- The cause of a record is present (R412, R167, R354, R369, R388). -/
def State.causePresent (s : State) (kind i : Nat) : Bool :=
  if kind = K.trip then s.tripLevel i
  else if kind = K.desat then
    (s.affected (i / 6)).any (fun b => (s.softOf b).isSome) || s.isLive kind i || s.uvlo (i / 12)
  else if kind = K.hoc then bit s.gate.hoc i
  else if kind = K.stoAct then s.stoPresent (i / 2)
  else if kind = K.vdrvUv then s.uvlo i
  else if kind = K.bstUv then false
  else if kind = K.stFail then !(Smap.get (fun _ => false) s.gate.stOk i)
  else if kind = K.busUv1 then (s.grp i).uv1
  else if kind = K.busUv2 then (s.grp i).uv2
  else if kind = K.busOv4 then (s.grp (s.reg P.busGroup i)).ov4Latch
  else if kind = K.chopFail then
    let n := s.chopGroup (i % 2)
    s.chopDesat (i % 2) || (match (s.grp n).hi with | some v => codeAbove v (s.reg P.busOv2 n) | none => false)
  else if kind = K.thermShdn then s.shdnPresent i
  else (match sourceRow kind with | some r => r.level | none => false) && s.isLive kind i

/-- An uncleared DESAT or HOC record of these bridges remains (R355). -/
def State.softRecords (s : State) (bs : List Nat) : Bool :=
  bs.any (fun b => s.hasCause K.hoc b || (List.range 6).any (fun k => s.hasCause K.desat (6 * b + k)))

/-- The latches that the clear of a record releases (R355, R366, R388). -/
def State.releaseLatches (s : State) (kind i : Nat) : State :=
  if kind = K.desat ∨ kind = K.hoc then
    let bs := s.affected (if kind = K.desat then i / 6 else i)
    if s.softRecords bs then s
    else
      let gs := (bs.map gensOfBridge).flatten
      (s.unforce 8 gs).unforce 9 gs
  else if kind = K.stoAct then
    let j := i / 2
    if s.hasCause K.stoAct (2 * j) || s.hasCause K.stoAct (2 * j + 1) then s
    else (s.setDie j { s.die j with latch := false }).unforce 10 ((dieBridges j).map gensOfBridge).flatten
  else if kind = K.chopFail then s.regen (s.chopGroup (i % 2))
  else if kind = K.thermShdn then s.leaveShdn i
  else s

/-- One record is cleared (R413): its drive actions end and ENG.RC_HOLD of the drives it acted on starts. -/
def State.clearRec (s : State) (sel : Nat) : State :=
  let x := s.frec sel
  let s1 := s.setRec sel { x with cause := false, first := false, conseq := false, act := 0, drives := 0, awaiting := none }
  let s2 := s1.each (setBits 4 x.drives) (fun s d => s.modDrv d (fun y => { y with foc := { y.foc with holdFrom := s.epoch } }))
  s2.releaseLatches (sel / 256) (sel % 256)

/-- A FLT_CLEAR reaches a record: a report of this tick prevails, so that CAUSE stays set from this tick (R398). -/
def State.clearItem (s : State) (sel : Nat) : State :=
  let x := s.frec sel
  if x.setAt = some s.epoch then s.setRec sel { x with firstEpoch := x.lastEpoch } else s.clearRec sel

/-- The record had CAUSE before this tick, so that a clear of it counts, whichever of the two came first. -/
def FRec.wasSet (x : FRec) (now : Nat) : Bool := x.setAt != some now || x.firstEpoch != x.lastEpoch

/-- Result of a clear so far: state, cleared, skipped, first refused status and item. -/
structure ClearAcc where
  s : State
  cleared : Nat := 0
  skipped : Nat := 0
  status : Nat := 0
  index : Nat := 0xFFFF

/-- A refused item; the first one is told (R411). -/
def ClearAcc.refuse (a : ClearAcc) (st ix : Nat) : ClearAcc :=
  if a.status = St.ok then { a with status := st, index := ix } else a

/-- One record is cleared. -/
def ClearAcc.clear (a : ClearAcc) (sel : Nat) : ClearAcc :=
  { a with s := a.s.clearItem sel, cleared := a.cleared + ((a.s.frec sel).wasSet a.s.epoch).toNat }

/-- One item of FLT_CLEAR (R411). -/
def ClearAcc.item (a : ClearAcc) (ix kind inst : Nat) : ClearAcc :=
  let many (l : List Nat) : ClearAcc := l.foldl (fun a sel =>
    let x := a.s.frec sel
    if !x.cause then a
    else if selClass sel = .a ∨ selClass sel = .b ∨ (selClass sel = .c ∧ a.s.causePresent (sel / 256) (sel % 256) = true) then
      { a with skipped := a.skipped + 1 }
    else a.clear sel) a
  if kind = 0xFF then
    (if inst = 0xFF then many (a.s.flt.recs.map (·.1)) else a.refuse St.badInst ix)
  else match sourceRow kind with
    | none => a.refuse St.badInst ix
    | some r =>
      if inst = 0xFF then many ((List.range r.n).map (selector kind))
      else if r.n ≤ inst then a.refuse St.badInst ix
      else
        let sel := selector kind inst
        if !(a.s.frec sel).cause then a
        else match r.cls with
          | .d => a.clear sel
          | .c => if a.s.causePresent kind inst then a.refuse St.causeActive ix else a.clear sel
          | _ => a.refuse St.badState ix

/-- The items of a FLT_CLEAR in order; `ix` counts them. -/
def ClearAcc.items (a : ClearAcc) (ix : Nat) : List Byte → ClearAcc
  | k :: i :: r => ClearAcc.items (a.item ix k.toNat i.toNat) (ix + 1) r
  | _ => a

/-- FLT_CLEAR (R411, R413). -/
def bodyFltClear (s : State) (_ : Cmd) (pl : List Byte) : State × Reply :=
  if pl.length < 2 ∨ 1004 < pl.length ∨ pl.length % 2 = 1 then (s, .refuse St.length)
  else
    let a := ClearAcc.items { s := s } 0 pl
    let (s, _) := a.s.enter { epoch := s.epoch, type := .clear, kind := fieldAt pl 0 1, inst := fieldAt pl 1 1,
                              data := Nat.min top16 a.cleared + Nat.min top16 a.skipped * 2 ^ 16 } false
    (s, .now a.status a.index (leBytes 2 a.cleared ++ leBytes 2 a.skipped))

def execFltClear (h : Hdr) (pl : List Byte) (s : State) : Out := runCommand h 0x1901 pl s bodyFltClear

/-! Views (R400). -/

/-- LIVE of a record: the detector output of a `level` source, the report tick of an `event` source (R397). -/
def State.liveNow (s : State) (sel : Nat) : Bool :=
  let x := s.frec sel
  match sourceRow (sel / 256) with
  | some row => if row.level then x.live else x.tick == some s.epoch
  | none => false

/-- FLT.REC_STAT of a record. -/
def State.recStat (s : State) (sel : Nat) : Nat :=
  if !knownSelector sel then 0
  else
    let x := s.frec sel
    x.cause.toNat + (s.liveNow sel).toNat * 2 + x.first.toNat * 4 + x.conseq.toNat * 8 + x.inj.toNat * 16
      + (selClass sel).code * 32 + 128 + x.count * 65536

/-- FLT.SEL[i] is written: the record is copied into the view of interface i, with FLT.FIND. -/
def State.selectRec (s : State) (i sel : Nat) : State :=
  let known := knownSelector sel
  let x := s.frec sel
  let find := match s.flt.recs.find? (fun (k, y) => decide (sel < k) && y.cause) with | some (k, _) => k | none => 0xFFFF
  let s := ((s.setReg P.fltSel i sel).setReg P.fltFind i find).setReg P.fltRecStat i (s.recStat sel)
  let s := s.setReg P.fltRecPath i
    (if known then sourcePath (sel / 256) (sel % 256) + sourceCell (sel / 256) (sel % 256) * 2 ^ 24 else 0)
  (s.setReg P.fltRecFirst i (if known then x.firstEpoch else 0)).setReg P.fltRecLast i (if known then x.lastEpoch else 0)

/-- Number of a host interface (R72). -/
def ifaceNo (i : Iface) : Nat := match i with | .spi => 0 | .can => 1 | .sat => 2 | .link => 3

/-- FLT_SEL_WRITE (R400). -/
def execFltSelWrite (i : Iface) (sel : Half) (s : State) : Out :=
  fin (if s.serving then s.selectRec (ifaceNo i) sel.toNat else s)

/-- FLT.SUM: records with CAUSE = 1 by class. -/
def State.fltSum (s : State) : Nat :=
  let n (c : FClass) : Nat := Nat.min 255 (s.flt.recs.filter (fun (k, x) => x.cause && selClass k == c)).length
  n .a + n .b * 256 + n .c * 65536 + n .d * 16777216

/-- FLT.JNL_STAT. -/
def State.jnlStat (s : State) : Nat :=
  s.jnlHeld + (s.flt.tail.lost != 0).toNat * 2048 + s.reg P.fltStream 0 * 4096

/-! Journal and mirror (R415 to R419). -/

/-- The written mirror slots, oldest first (R416). -/
def State.mirrorSlots (s : State) : List MirrorSlot :=
  let l := (s.flt.mirror.map (·.2)).filter (fun x => x.count != 0)
  l.foldl (fun acc x => acc.takeWhile (fun y => decide (y.count < x.count)) ++ [x]
    ++ acc.dropWhile (fun y => decide (y.count < x.count))) []

/-- Good slots up to `n`, slots skipped, and what is left. -/
def takeGood : Nat → List MirrorSlot → List MirrorSlot × Nat × List MirrorSlot
  | _, [] => ([], 0, [])
  | 0, l => ([], 0, l)
  | n + 1, x :: r =>
    if x.good then let (l, k, m) := takeGood n r; (x :: l, k, m)
    else let (l, k, m) := takeGood (n + 1) r; (l, k + 1, m)

/-- JOURNAL_READ (R416). -/
def bodyJournalRead (s : State) (_ : Cmd) (pl : List Byte) : State × Reply :=
  let src := fieldAt pl 0 1
  let consume := bit (fieldAt pl 1 1) 0
  let max := fieldAt pl 2 1
  let start := fieldAt pl 3 1
  if pl.length ≠ 4 then (s, .refuse St.length)
  else if 1 < src ∨ max = 0 ∨ (if src = 0 then 31 else 27) < max ∨ 63 < start ∨ (src = 0 ∧ start ≠ 0)
      ∨ (src = 1 ∧ consume = true) then (s, .refuse St.range)
  else if consume = true ∧ s.reg P.fltStream 0 = 1 then (s, .refuse St.badState)
  else if src = 0 then
    let out := s.flt.journal.take max
    let more := Nat.min 255 (s.flt.journal.length - out.length)
    let s := if consume then { s with flt := { s.flt with journal := s.flt.journal.drop max } } else s
    (s, .ok (leBytes 1 out.length ++ leBytes 1 more ++ zeros 2 ++ (out.map jbytes).flatten))
  else
    let (out, bad, rest) := takeGood max (s.mirrorSlots.drop start)
    (s, .ok (leBytes 1 out.length ++ leBytes 1 (Nat.min 255 rest.length) ++ leBytes 1 bad ++ zeros 1
      ++ (out.map (fun x => x.bytes.take 36)).flatten))

def execJournalRead (h : Hdr) (pl : List Byte) (s : State) : Out := runCommand h 0x1903 pl s bodyJournalRead

/-- One mirror slot is written, with the lifetime counter of its kind (R418, R419). -/
def State.mirrorOne (s : State) : State :=
  match s.flt.mirrorQ with
  | [] => s
  | (e, era) :: rest =>
    let n := s.flt.mirrorCount
    { s with flt := { s.flt with
        mirrorQ := rest, mirrorCount := n + 1,
        mirror := Smap.set (fun _ => {}) s.flt.mirror (n % 64) (.ofEntry (jbytes e) era (n + 1)),
        lifeMram := Smap.set (fun _ => 0) s.flt.lifeMram e.kind (s.reg P.fltLife e.kind) } }

/-- MIRROR_WRITE (R418). -/
def execMirrorWrite (s : State) : Out := fin (if s.awake then s.mirrorOne else s)

/-- Every waiting mirror slot is written. -/
def State.mirrorAll (s : State) : Nat → State
  | 0 => s
  | n + 1 => State.mirrorAll s.mirrorOne n

/-- The lifetime counters are written to MRAM (R419). -/
def State.flushLife (s : State) : State :=
  let s := s.setReg P.fltLifeEpoch 0 s.epoch
  { s with flt := { s.flt with lifeMram := faultKinds.foldl (fun m k => Smap.set (fun _ => 0) m k (s.reg P.fltLife k)) s.flt.lifeMram } }
/-- A lifetime counter has changed since the last flush. -/
def State.lifeDirty (s : State) : Bool :=
  faultKinds.any (fun k => Smap.get (fun _ => 0) s.flt.lifeMram k != s.reg P.fltLife k)

/-- JOURNAL_TAIL_ENTRY (R415). -/
def execJournalTailEntry (s : State) : Out := fin (if s.awake then s.enterTail else s)

/-- The stream task moves journal entries into free entries of ring 17 (R417). -/
def State.streamJournal (s : State) : State :=
  if s.reg P.fltStream 0 = 1 ∧ s.ringOut 17 = true ∧ 32 ≤ s.ringEsize 17 then
    let n := s.ringFree 17
    let out := s.flt.journal.take n
    let s1 := s.each out (fun s e => s.putRecord 17 (jbytes e))
    { s1 with flt := { s1.flt with journal := s1.flt.journal.drop n } }
  else s

/-! Penumbras (R409). -/

/-- PENUMBRA_EXPIRY (R409): the penumbras that have ended close, and the live level detectors that they
covered report. -/
def execPenumbraExpiry (s : State) : Out :=
  fin (
    let ended := s.flt.pens.filter (fun p => decide (p.stop < s.epoch))
    if ended = [] ∨ s.awake = false then s
    else
      let left := s.flt.pens.filter (fun p => !decide (p.stop < s.epoch))
      let due := (s.flt.recs.filter (fun (k, x) => x.live && x.lastConseq && selClass k != .a
        && (match sourceRow (k / 256) with | some r => r.level | none => false)
        && ended.any (fun p => s.shadows p.kind (k / 256) (k % 256))
        && !left.any (fun p => s.shadows p.kind (k / 256) (k % 256)))).map (·.1)
      let s := { s with flt := { s.flt with pens := left } }
      s.each due (fun s sel => (s.unlive (sel / 256) (sel % 256)).report (sel / 256) (sel % 256) s.epoch))

/-! Injection (R420, R421). -/

/-- The response of FLT_INJECT. -/
def State.endInject (s : State) (x : Inject) (status : Nat) (found : Bool) : State :=
  ({ s with flt := { s.flt with inject := none } }).respond x.cmd status 0xFFFF
    (if status = St.ok then leBytes 8 x.epoch ++ leBytes 1 x.kind ++ leBytes 1 x.inst ++ leBytes 1 found.toNat ++ zeros 1 else [])

/-- The test access is made now; whether the checker sees it is a free value (assumption log 7). A miss is
told by INJ_TIMEOUT. -/
def State.injectAccess (s : State) (x : Inject) : State :=
  let x := { x with epoch := s.epoch, waits := false }
  let s := s.bump P.fltInjCnt 0 top32
  let (f, s) := s.takeFree
  if bit f.toNat 0 then
    -- a checker of a memory counts the error that it sees (R431)
    let s := if x.kind = K.eccSbe then s.bump P.chkSbeCnt x.inst top32 else if x.kind = K.eccDbe then s.bump P.chkDbeCnt x.inst top32 else s
    (s.report x.kind x.inst s.epoch (inj := true) (noReact := x.noReact)).endInject x St.ok true
  else { s with flt := { s.flt with inject := some x } }

/-- The report that a TARGET, UNIT and BITS expect; none outside the table (R420). -/
def injectTarget (t u b : Nat) : Option (Nat × Nat) :=
  if t < 3 then (if u = 0 ∧ b = 1 then some (K.eccSbe, t) else if u = 0 ∧ b = 2 then some (K.eccDbe, t) else none)
  else if b ≠ 1 then none
  else if t = 3 then (if u < 4 then some (K.chkScan, u) else none)
  else if t = 4 then (if u = 0 then some (K.lockstep, 0) else none)
  else if t = 5 then (if u < 3 then some (K.linkCrc, u) else none)
  else none

/-- FLT_INJECT (R420). -/
def bodyFltInject (s : State) (c : Cmd) (pl : List Byte) : State × Reply :=
  if pl.length ≠ 4 then (s, .refuse St.length)
  else match injectTarget (fieldAt pl 0 1) (fieldAt pl 1 1) (fieldAt pl 2 1) with
    | none => (s, .refuse St.range)
    | some (kind, i) =>
      if (List.range 4).any (fun d => !s.stopped d) then (s, .refuse St.driveRunning)
      else if kind = K.linkCrc ∧ s.portState i ≠ portUp ∧ s.portState i ≠ 3 then (s, .refuse St.badState)
      else if s.flt.inject.isSome then (s, .refuse St.busy)
      else
        let x : Inject := { cmd := c, noReact := bit (fieldAt pl 3 1) 0, epoch := s.epoch, kind := kind, inst := i }
        if kind = K.linkCrc then ({ s with flt := { s.flt with inject := some { x with waits := true } } }, .later)
        else (s.injectAccess x, .later)

def execFltInject (h : Hdr) (pl : List Byte) (s : State) : Out := runCommand h 0x1902 pl s bodyFltInject

/-- INJ_TIMEOUT (R421): the expected report has not come within 10 µs. -/
def execInjTimeout (s : State) : Out :=
  fin (
    match s.flt.inject with
    | some x =>
      if s.awake && !x.waits && expired x.epoch (usTicks 10) s.epoch then
        (s.endInject x St.ok false).report K.injMiss 0 s.epoch
      else s
    | none => s)

end Sys2Proof.Machine
end

