-- ==== Sys2Proof/Machine/HostAssist.lean ====
section
/-! DEFINITION. The movable split: host-assisted ring entries at a sample boundary, late samples and
fallback, slow functions and host decisions (R119 to R134). -/

namespace Sys2Proof.Machine

/-! Functions and their MODE parameters (R119). -/

/-- MODE parameter of a ring-path KIND (R119, R123). -/
def modeOfKind (k : Nat) : Nat :=
  match k with
  | 1 => P.posAngMode | 2 => P.focCurMode | 3 => P.focLoopMode | 4 => P.focFwMode | _ => P.engRcMode

/-- State of a host function of drive d: KIND 1 to 4, or 16 + g for the temperatures of half-bridge g. -/
def State.hostFn (s : State) (d k : Nat) : HostFn := Smap.get (fun _ => {}) (s.drv d).foc.host k
def State.setHostFn (s : State) (d k : Nat) (f : HostFn) : State :=
  s.modDrv d (fun x => { x with foc := { x.foc with host := Smap.set (fun _ => {}) x.foc.host k f } })

/-- HOST.HA_RUN[d]: the longest run of late samples of the drive's functions. -/
def State.updateHaRun (s : State) (d : Nat) : State :=
  s.setReg P.hostHaRun d (Nat.min 255 (((s.drv d).foc.host.map (fun (_, f) => f.run)).foldl Nat.max 0))

/-- One late of a function of drive d; `modeId` and `modeInst` name its MODE parameter, `kind` the KIND that
event 0x4410 carries (R129, R130). The answer tells whether the function falls back to `hw`. -/
def State.lateOne (s : State) (d key modeId modeInst kind : Nat) : State × Bool :=
  let f := s.hostFn d key
  let s := (s.bump P.hostHaLate d top32).setHostFn d key { f with run := satInc 255 f.run }
  let (s, fb) :=
    if f.run + 1 = s.reg P.hostLateMax 0 then
      (if bit (s.reg modeId modeInst) 1 then
        let s := s.setBit modeId modeInst 0 false
        let s := s.setHostFn d key { s.hostFn d key with run := 0, started := false }
        ((s.report K.haFallback d s.epoch).event .other 0x4410 0 d s.epoch (leBytes 1 d ++ leBytes 1 kind ++ zeros 2), true)
       else (s.report K.hostLateFault d s.epoch, false))
    else (s, false)
  (s.updateHaRun d, fb)

/-! Entries (R122 to R127). -/

/-- The drive that HOST.HA_BIND[r] names, and SRC. -/
def State.haDrive (s : State) (r : Nat) : Nat := bits (s.reg P.hostHaBind r) 0 2
/-- The `to_device` rings of 8 to 15 bound to a drive, ascending. -/
def State.haRings (s : State) (d : Nat) : List Nat :=
  (List.range' 8 8).filter (fun r => s.ringOn r && !cfgDir (s.ringCfg r) && s.haDrive r == d)

/-- An entry as read (R123). -/
structure HaEntry where
  target : Nat
  kind : Nat
  drv : Nat
  a : Word
  b : Word
  arrival : Nat
  deriving DecidableEq, Repr

/-- Entry i of ring r. -/
def State.haEntry (s : State) (r i : Nat) : HaEntry :=
  let bs := Memory.readBytes s.pool (s.entryAddr r i) 16
  { target := fieldAt bs 0 4, kind := fieldAt bs 4 1, drv := fieldAt bs 5 1, a := BitVec.ofNat 32 (fieldAt bs 8 4),
    b := BitVec.ofNat 32 (fieldAt bs 12 4), arrival := Smap.get (fun _ => 0) (s.ring r).arr (i % 2 ^ 16) }

/-- TARGET against the boundary P: earlier, equal or later (R125); in `lock` mode SYNC_STEP ticks count as
equal. -/
def State.targetOrd (s : State) (d target p : Nat) : Int :=
  let e := toSigned 32 ((target + 2 ^ 32 - p % 2 ^ 32) % 2 ^ 32)
  let tol : Int := if s.reg P.pwmSyncMode d = 1 then s.reg P.pwmSyncStep 0 else 0
  if e.natAbs ≤ tol then 0 else if e < 0 then -1 else 1

/-- The entry's value holds no infinity or NaN (R299). -/
def HaEntry.sound (e : HaEntry) : Bool :=
  match e.kind with
  | 1 => F32.finite e.b
  | 4 => F32.finite e.a
  | 5 => F32.finite e.b
  | _ => F32.finite e.a && F32.finite e.b

/-- Entries used at a boundary, by KIND. -/
abbrev HaUsed := Smap (Option (Word × Word × Nat))

/-- One entry of a bound ring is taken at boundary P (R125); `skipped` where the sample at P is skipped
(R126). -/
def State.takeEntry (s : State) (d p : Nat) (skipped : Bool) (u : HaUsed) (e : HaEntry) : State × HaUsed :=
  let stale (s : State) : State := s.bump P.hostHaStale d top32
  if e.drv ≠ d ∨ e.kind = 0 ∨ 5 < e.kind ∨ s.hostMode (modeOfKind e.kind) d = false ∨ e.sound = false then (stale s, u)
  else if e.kind = 5 then
    let key := (2 * d + (bit e.a.toNat 8).toNat) * 256 + e.a.toNat % 256
    ({ s with rcTab := Smap.set (fun _ => 0) s.rcTab key (F32.capped e.b (s.r.f P.engRcLim d)).toNat }, u)
  else if s.targetOrd d e.target p < 0 then (stale s, u)
  else if skipped then (s, u)
  else if !inTime32 (e.arrival % 2 ^ 32) ((e.target + 2 ^ 32 - s.reg P.hostMargin 0) % 2 ^ 32) then (s, u)
  else
    let s := if (Smap.get (fun _ => none) u e.kind).isSome then stale s else s
    (s, Smap.set (fun _ => none) u e.kind (some (e.a, e.b, e.target)))

/-- The entries of one ring from TAIL on, up to the first whose TARGET lies beyond P (R125). -/
def State.takeRing (s : State) (d p r : Nat) (skipped : Bool) (u : HaUsed) : Nat → State × HaUsed
  | 0 => (s, u)
  | n + 1 =>
    if s.ringFilled r = 0 then (s, u)
    else
      let i := s.ringTail r
      let e := s.haEntry r i
      if 1 ≤ e.kind ∧ e.kind ≤ 4 ∧ e.drv = d ∧ s.hostMode (modeOfKind e.kind) d = true ∧ 0 < s.targetOrd d e.target p then (s, u)
      else
        let (s, u) := s.takeEntry d p skipped u e
        let s := s.setRing r { s.ring r with arr := Smap.set (fun _ => 0) (s.ring r).arr i 0 }
        State.takeRing (s.consume r 1) d p r skipped u n

/-- The entries of a drive's rings at boundary P, rings ascending (R125). -/
def State.takeEntries (s : State) (d p : Nat) (skipped : Bool) : State × HaUsed :=
  (s.haRings d).foldl (fun (s, u) r => s.takeRing d p r skipped u (s.ringEntries r)) (s, [])

/-- A ring-path function of the drive at boundary P: the value used, or the held one and a late (R129);
`hw` is the `hw` form's last output. The answer: the value, none in `hw` mode; and whether it falls back. -/
def State.hostValue (s : State) (d k : Nat) (u : HaUsed) (hw : Word × Word) : State × Option (Word × Word) × Bool :=
  if !s.hostMode (modeOfKind k) d then (s, none, false)
  else
    match Smap.get (fun _ => none) u k with
    | some (a, b, t) =>
      let s := (s.setHostFn d k { a := a, b := b, target := t, run := 0, started := true }).updateHaRun d
      (s, some (a, b), false)
    | none =>
      let f := s.hostFn d k
      let f := if f.started then f else { f with a := hw.1, b := hw.2, started := true }
      let (s, fb) := (s.setHostFn d k f).lateOne d k (modeOfKind k) d k
      (s, some (f.a, f.b), fb)

/-! Slow functions and decisions (R131 to R134). -/

/-- THERM.HOST_T[g] is written. -/
def State.hostTWrite (s : State) (g v : Nat) : State :=
  let s := s.setReg P.thermHostT g v
  let s := { s with therm := { s.therm with
    hostAt := Smap.set (fun _ => none) s.therm.hostAt g (some s.epoch),
    hostIn := Smap.set (fun _ => false) s.therm.hostIn g (s.hostTemps (g / 3)) } }
  match s.ownerOf (g / 3) with
  | some d => (s.setHostFn d (16 + g) { s.hostFn d (16 + g) with run := 0 }).updateHaRun d
  | none => s

/-- HOST_T_WRITE (R131): a value outside THERM.HOST_T's range changes nothing (R7). -/
def execHostTWrite (g : Fin 12) (v : Word) (s : State) : Out :=
  fin (if s.serving && rangeOk .hostT v.toNat then s.hostTWrite g.val v.toNat else s)

/-- A fallback of THERM.PS_MODE[b] of drive d (R130, R131, R379): the model runs on from the held temperatures of the
bridge's junctions, its runs of late intervals end, and ENG.RC_HOLD of the drive starts (R306). -/
def State.tempFallback (s : State) (d b : Nat) : State :=
  let s := s.each (gensOfBridge b) (fun s g =>
    let s := (s.holdJunction g).setHostFn d (16 + g) { s.hostFn d (16 + g) with run := 0 }
    { s with therm := { s.therm with hostIn := Smap.set (fun _ => false) s.therm.hostIn g false } })
  (s.modDrv d (fun x => { x with foc := { x.foc with holdFrom := s.epoch } })).updateHaRun d

/-- SLOW_TMO_EXPIRY (R131): HOST.SLOW_TMO without a write of THERM.HOST_T[g]. -/
def execSlowTmoExpiry (g : Fin 12) (s : State) : Out :=
  fin (
    let b := g.val / 3
    match s.ownerOf b, Smap.get (fun _ => none) s.therm.hostAt g.val with
    | some d, some t =>
      if s.awake && s.hostMode P.thermPsMode b && expired t (msTicks (s.reg P.hostSlowTmo 0)) s.epoch then
        let s := { s with therm := { s.therm with hostAt := Smap.set (fun _ => none) s.therm.hostAt g.val (some s.epoch) } }
        let (s, fb) := s.lateOne d (16 + g.val) P.thermPsMode b 0
        if fb then s.tempFallback d b else s
      else s
    | _, _ => s)

/-- The reaction that a decision carries out, in the layout of FLT.REACT: `apply`, `none`, `soft_off`,
`asc` (R132). -/
def decidedReact (action react : Nat) : Nat :=
  match action with
  | 0 => react
  | 1 => 0
  | 2 => 0x40
  | _ => 0x80

/-- A fault awaits a decision and its time has not run out (R132). -/
def State.awaits (s : State) (x : FRec) : Bool :=
  match x.awaiting with
  | some t => !expired t (usTicks (s.reg P.hostDecTmo 0)) s.epoch
  | none => false

/-- FLT.HOST_DEC is written (R132 to R134). -/
def State.hostDec (s : State) (path action : Nat) : State :=
  let hit := (s.flt.recs.filter (fun (k, x) => s.awaits x && sourcePath (k / 256) (k % 256) == path)).map (·.1)
  if hit = [] then s.bump P.hostDecStray 0 top32
  else
    let s := s.setReg P.hostDecRun 0 0
    s.each hit (fun s sel =>
      let s := s.setRec sel { s.frec sel with awaiting := none }
      s.takeDeferred (sel / 256) (sel % 256) (decidedReact action (s.reg P.fltReact (sel / 256))))

/-- HOST_DEC_WRITE (R134). -/
def execHostDecWrite (path : BitVec 24) (action : BitVec 2) (s : State) : Out :=
  fin (if s.serving then s.hostDec path.toNat action.toNat else s)

/-- DEC_TMO_EXPIRY (R132, R133). -/
def execDecTmoExpiry (kind inst : Byte) (s : State) : Out :=
  fin (
    let sel := selector kind.toNat inst.toNat
    let x := s.frec sel
    if !s.awake || x.awaiting.isNone || s.awaits x then s
    else
      let s := s.setRec sel { x with awaiting := none }
      let s := s.takeDeferred kind.toNat inst.toNat (s.reg P.fltReact kind.toNat)
      let s := (s.bump P.hostDecLate 0 top32).bump P.hostDecRun 0 255
      if s.reg P.hostDecRun 0 < s.reg P.hostLateMax 0 then s
      else
        let s := s.setReg P.hostDecRun 0 0
        if bit (s.reg P.fltDecMode 0) 1 then
          ((s.setBit P.fltDecMode 0 0 false).report K.haFallback 4 s.epoch).event .other 0x4410 0 4 s.epoch
            (leBytes 1 4 ++ leBytes 1 0 ++ zeros 2)
        else s.report K.hostLateFault 4 s.epoch)

end Sys2Proof.Machine
end

