-- ==== Sys2Proof/Machine/Observe.lean ====
section
/-! DEFINITION. Performance counters, precise sampling and dumps (R488 to R507). -/

namespace Sys2Proof.Machine

/-- The sampler of core 0 is suspended (R499). -/
def State.susp0 (s : State) : Bool := bit (s.reg P.secStat 0) 0 && bits (s.reg P.secStat 0) 4 2 != 2

def State.perfBuf (s : State) (k : Nat) : List (List Byte) := Smap.get (fun _ => []) s.perf.buf k
def State.setPerfBuf (s : State) (k : Nat) (l : List (List Byte)) : State :=
  { s with perf := { s.perf with buf := Smap.set (fun _ => []) s.perf.buf k l } }
/-- Record count of a stream from boot, dropped records included. -/
def State.perfSeq (s : State) (k : Nat) : Nat := Smap.get (fun _ => 0) s.perf.seq k
def State.perfDrop (s : State) (k : Nat) : Bool := Smap.get (fun _ => false) s.perf.drop k

/-- PERF.STAT (R507). -/
def State.perfStat (s : State) : Nat :=
  s.susp0.toNat + ((List.range 5).map (fun k => (!(s.perfBuf k).isEmpty).toNat * 2 ^ (k + 1))).foldl (· + ·) 0

/-- One record for stream k with room for `cap`: `mk seq drop` is the record (R501, R505). -/
def State.perfRecord (s : State) (k cap dropId dropInst : Nat) (mk : Nat → Bool → List Byte) : State :=
  let n := s.perfSeq k
  let s := { s with perf := { s.perf with seq := Smap.set (fun _ => 0) s.perf.seq k (n + 1) } }
  if (s.perfBuf k).length < cap then
    let r := mk n (s.perfDrop k)
    let s := s.setPerfBuf k (s.perfBuf k ++ [r])
    { s with perf := { s.perf with drop := Smap.set (fun _ => false) s.perf.drop k false } }
  else
    let s := s.bump dropId dropInst top32
    { s with perf := { s.perf with drop := Smap.set (fun _ => false) s.perf.drop k true } }

/-- A core dump record (R503). -/
def State.coreRecord (s : State) (c : Nat) (cmd : Bool) (seq : Nat) (drop : Bool) : List Byte :=
  leBytes 8 s.epoch ++ leBytes 8 (s.reg P.perfCycle c)
    ++ ((List.range 6).map (fun n => leBytes 6 (s.reg P.perfCnt (6 * c + n)))).flatten
    ++ ((List.range 6).map (fun n => leBytes 1 (s.reg P.perfEvt (6 * c + n)))).flatten
    ++ leBytes 1 c ++ leBytes 1 (Smap.get (fun _ => 0) s.perf.ovf c ||| s.wrapMask c) ++ leBytes 2 seq
    ++ leBytes 1 (drop.toNat + (s.coreHalted c).toNat * 2 + cmd.toNat * 4 + (s.reg P.perfCtl c % 2) * 8) ++ zeros 1

/-- The engine record of one drive (R504). -/
def State.engRecord (s : State) (d seq : Nat) (drop : Bool) : List Byte :=
  leBytes 8 s.epoch ++ leBytes 1 d ++ leBytes 1 (drop.toNat + (bit (s.reg P.engStat d) 0).toNat * 2) ++ leBytes 2 seq
    ++ leBytes 4 (s.reg P.engRunCnt d) ++ leBytes 4 (s.reg P.engOvrCnt d) ++ leBytes 4 (s.reg P.engSkipCnt d)
    ++ leBytes 2 (s.reg P.engCycLast d) ++ leBytes 2 (s.reg P.engCycMax d) ++ leBytes 2 (s.reg P.engWaitMax d) ++ zeros 2

/-- The drives of an engine dump (R502). -/
def State.engDrives (s : State) : List Nat := (List.range 4).filter (fun d => s.computes d)

/-- The tick is a dump tick that has not been taken (R502). -/
def State.atDump (s : State) : Bool :=
  s.awake && s.epoch % (200 * s.reg P.perfDumpInterval 0) == 0 && s.perf.dumped != some s.epoch

/-- The dump of the present tick is taken, after its increments, writes and runs (R492, R502 to R505). -/
def State.takeDump (s : State) : State :=
  if !s.perf.dumpDue then s
  else
    let s := { s with perf := { s.perf with dumpDue := false } }
    let cfg := s.reg P.perfDumpCfg 0
    let s := s.each [0, 1] (fun s c =>
      if bit cfg c then
        let s := s.perfRecord c 16 P.perfDumpDrop c (fun n drop => s.coreRecord c false n drop)
        { s with perf := { s.perf with ovf := Smap.set (fun _ => 0) s.perf.ovf c 0 } }
      else s)
    if bit cfg 2 then
      let s := s.each s.engDrives (fun s d => s.perfRecord 2 64 P.perfDumpDrop 2 (fun n drop => s.engRecord d n drop))
      if bit cfg 3 then s.each s.engDrives (fun s d => (s.setReg P.engCycMax d 0).setReg P.engWaitMax d 0) else s
    else s

/-- PERF_DUMP_TICK (R502): the dump is taken at the end of the tick. -/
def execPerfDumpTick (s : State) : Out :=
  fin (if s.atDump then { s with perf := { s.perf with dumped := some s.epoch, dumpDue := true } } else s)

/-- PERF_DUMP (R506). -/
def bodyPerfDump (s : State) (c : Cmd) (pl : List Byte) : State × Reply :=
  if 2 < c.inst then (s, .refuse St.badInst)
  else if pl.length ≠ 0 then (s, .refuse St.length)
  else if c.inst < 2 then (s, .ok (s.coreRecord c.inst true (s.perfSeq c.inst) false))
  else (s, .ok (leBytes 1 s.engDrives.length ++ zeros 3
    ++ (s.engDrives.map (fun d => s.engRecord d (s.perfSeq 2) false)).flatten))

def execPerfDump (h : Hdr) (pl : List Byte) (s : State) : Out := runCommand h 0x1D01 pl s bodyPerfDump

/-- PERF_RUN (R490). -/
def execPerfRun (c : Fin 2) (s : State) : Out := fin (if s.serving then s.setReg P.perfCtl c.val 1 else s)

/-- PERF_STOP (R490). -/
def execPerfStop (c : Fin 2) (s : State) : Out := fin (if s.serving then s.setReg P.perfCtl c.val 0 else s)

/-- PERF_CNT_WRITE (R491, R492, R497): the value replaces the counter; bits [63:48] are ignored. -/
def execPerfCntWrite (e : Fin 12) (v : DWord) (s : State) : Out :=
  fin (if s.serving then s.writeCount e.val v.toNat else s)

/-- PERF_OVERFLOW (R496): an increment of 1, or of 2, passes the counter from 2⁴⁸ − 1 to 0. -/
def execPerfOverflow (e : Fin 12) (two : Bool) (s : State) : Out :=
  fin (
    let n := if two then 2 else 1
    if s.awake && s.reg P.perfCtl (e.val / 6) == 1 && !s.coreHalted (e.val / 6) && bits (s.reg P.perfEvt e.val) 0 8 != 0
        && decide (2 ^ 48 ≤ s.reg P.perfCnt e.val + n) then s.countOn e.val n
    else s)

/-- PERF_SAMPLE (R499 to R501): a sample record of the instruction that caused the occurrence. -/
def execPerfSample (c : Fin 2) (r : SampleInsn) (s : State) : Out :=
  fin (
    let cfg := s.reg P.perfSampleCfg c.val
    if !s.awake || !bit cfg 0 || s.coreHalted c.val || (c.val == 0 && s.susp0) then s
    else
      let insn := r.insn.toNat
      let comp := insn % 4 != 3
      s.perfRecord (3 + c.val) 64 P.perfSampleDrop c.val (fun n drop =>
        leBytes 8 s.epoch ++ leBytes 4 r.pc.toNat ++ leBytes 4 (if comp then insn % 2 ^ 16 else insn) ++ leBytes 2 r.lat.toNat
          ++ leBytes 1 (bits cfg 8 8) ++ leBytes 1 (comp.toNat + r.wasted.toNat * 2 + r.user.toNat * 4 + drop.toNat * 8)
          ++ leBytes 4 (s.reg P.perfCycle c.val) ++ leBytes 4 n ++ zeros 4))

/-! The stream and dump tasks move buffered records into free ring entries (R501, R505). -/

/-- Records of buffer k that ring r takes now: one entry each. -/
def State.drainable (s : State) (k r : Nat) : Bool := !(s.perfBuf k).isEmpty && s.ringOut r && decide (0 < s.ringFree r)

/-- Records move while ring r has free entries. -/
def State.drainBuf (s : State) (k r : Nat) : State :=
  if s.ringOut r then
    let n := s.ringFree r
    let s1 := s.each ((s.perfBuf k).take n) (fun s rec => s.putRecord r rec)
    s1.setPerfBuf k ((s.perfBuf k).drop n)
  else s

end Sys2Proof.Machine
end

