-- ==== Sys2Proof/Machine/Check.lean ====
section
/-! DEFINITION. Check-value units, scrubbers, and the copies of the configuration record
(R424 to R438). -/

namespace Sys2Proof.Machine

/-- First and one-past-last address of memory m: 0 SRAM, 1 MRAM, 2 engine memory (R424). -/
def memBase (m : Nat) : Nat := if m = 0 then 0 else if m = 1 then 0x01000000 else 0x02000000
def memSize (m : Nat) : Nat := if m = 2 then 0x40000 else 0x400000

/-- The range lies wholly inside one memory (R424). -/
def inOneMemory (start len : Nat) : Bool :=
  [0, 1, 2].any (fun m => decide (memBase m ≤ start) && decide (start + len ≤ memBase m + memSize m))

/-- What unit u has left to scan is not wholly inside one memory (R424). -/
def Regs.scanOutside (r : Regs) (u : Nat) : Bool :=
  decide (0 < r.get P.chkRem u) && !inOneMemory (r.get P.chkAddr u) (r.get P.chkRem u)

def State.unit (s : State) (u : Nat) : ChkUnit := Smap.get (fun _ => {}) s.chk.units u
def State.setUnit (s : State) (u : Nat) (x : ChkUnit) : State :=
  { s with chk := { s.chk with units := Smap.set (fun _ => {}) s.chk.units u x } }

/-- STATE of CHK.STAT[u]: 0 `idle`, 1 `run`, 2 `held`, 3 `done`. -/
def State.chkState (s : State) (u : Nat) : Nat := bits (s.reg P.chkStat u) 0 2
def State.setChkState (s : State) (u st : Nat) : State := s.setReg P.chkStat u (putBits (s.reg P.chkStat u) 0 2 st)

/-- The algorithm of unit u (R425). -/
def State.chkAlg (s : State) (u : Nat) : CrcAlg :=
  let cfg := s.reg P.chkCfg u
  match bits cfg 0 3 with
  | 0 => crc8J1850
  | 1 => crc16Ccitt
  | 2 => crc32Ieee
  | 3 => crc32c
  | _ =>
    let w := bits cfg 8 5 + 1
    ⟨w, s.reg P.chkPoly u % 2 ^ w, s.reg P.chkInit u % 2 ^ w, bit cfg 3, bit cfg 4, s.reg P.chkXorout u % 2 ^ w⟩

/-- CHK.CUR[u] finalised (R426). -/
def State.chkFinal (s : State) (u : Nat) : Nat := crcFinal (s.chkAlg u) (s.reg P.chkCur u)
/-- CHK.RESULT[u] (R426): in `idle` with CUR = 0 it reads its reset value 0 (R438, assumption log 24). -/
def State.chkResult (s : State) (u : Nat) : Nat :=
  if s.chkState u = 0 ∧ s.reg P.chkCur u = 0 then 0 else s.chkFinal u

/-- The unit reads its next `n` bytes (R426). -/
def State.scanOn (s : State) (u n : Nat) : State :=
  let a := s.reg P.chkAddr u
  let cur := crcRun (s.chkAlg u) (s.reg P.chkCur u) (Memory.readBytes s.mem a n)
  let x := s.unit u
  (((s.setReg P.chkCur u cur).setReg P.chkAddr u (a + n)).setReg P.chkRem u (s.reg P.chkRem u - n)).setUnit u
    { x with scanned := x.scanned + n }

/-- The scan ends: the compare, CHK_SCAN and the completion event (R428, R430). -/
def State.scanDone (s : State) (u : Nat) (err : Bool) (status : Nat) : State :=
  let x := s.unit u
  let ok := s.chkFinal u == s.reg P.chkExpect u
  let match_ := x.compare && !err && status == St.ok && ok
  let s := s.setReg P.chkStat u ((if status = St.ok then 3 else 0) + match_.toNat * 4 + err.toNat * 8)
  let s := s.setUnit u { x with cmd := none, chunk := none, hold := false }
  let s := if x.compare && !err && status == St.ok && !ok then s.report K.chkScan u s.epoch else s
  match x.cmd with
  | some c => s.complete c status 0xFFFF
      (leBytes 4 (s.chkFinal u) ++ leBytes 4 x.scanned ++ leBytes 1 (match_.toNat + err.toNat * 2))
  | none => s

/-- The image has been scanned: its CRC is compared with that of the boot, and the copies follow (R436). -/
def State.imageDone (s : State) : State :=
  let s := if s.chkFinal 3 = s.chk.imageCrc then s else s.report K.chkScan 3 s.epoch
  let s := s.setUnit 3 { s.unit 3 with chunk := none }
  { s with chk := { s.chk with perStep := 2 } }

/-- REM has reached 0 (R428). -/
def State.scanEnd (s : State) (u : Nat) : State :=
  if s.reg P.chkRem u ≠ 0 then s else if u = 3 then s.imageDone else s.scanDone u false St.ok

/-- One cycle of a unit that has bytes of its chunk left: up to 4 bytes to the next word boundary, or a stall behind a
master of higher priority, which is a free value (R426, R427, assumption log 69). -/
def State.scanCycle (s : State) (u : Nat) : State :=
  let x := s.unit u
  if x.chunk.isNone || x.chunkBytes == 0 then s
  else
    let (f, s) := s.takeFree
    if bit f.toNat 0 then s.bump P.chkStallCnt u top32
    else
      let n := Nat.min (4 - s.reg P.chkAddr u % 4) x.chunkBytes
      let s := s.scanOn u n
      (s.setUnit u { s.unit u with chunkBytes := x.chunkBytes - n }).scanEnd u

/-- One cycle of the scan engines (R426). -/
def State.scanTick (s : State) : State := s.each [0, 1, 2, 3] State.scanCycle

/-- A unit is ready for a chunk of the scan task: `run` outside a chunk, or `held` with no HOLD since the
last GO (R428). Unit 3 is ready while a periodic pass is due or runs (R436). -/
def State.scanReady (s : State) (u : Nat) : Bool :=
  if u = 3 then s.chk.perDue || s.chk.perStep != 0
  else
    let x := s.unit u
    x.chunk.isNone && decide (0 < s.reg P.chkRem u) && (s.chkState u == 1 || (s.chkState u == 2 && !x.hold))

/-- The unit that the next chunk serves: the ready units in turn (R429). -/
def State.nextScan (s : State) : Option Nat :=
  let order := [1, 2, 3, 4].map (fun k => (s.chk.last + k) % 4)
  order.find? (fun u => s.scanReady u)

/-- CHK_SCAN (R430). -/
def bodyChkScan (s : State) (c : Cmd) (pl : List Byte) : State × Reply :=
  let u := c.inst
  let preset := fieldAt pl 0 1
  let start := fieldAt pl 4 4
  let len := fieldAt pl 8 4
  if 2 < u then (s, .refuse St.badInst)
  else if pl.length ≠ 16 then (s, .refuse St.length)
  else if s.chkState u = 1 ∨ s.chkState u = 2 then (s, .refuse St.busy)
  else if 4 < preset ∨ len = 0 ∨ 0x400000 < len ∨ inOneMemory start len = false then (s, .refuse St.range)
  else
    let s := s.setReg P.chkCfg u (putBits (s.reg P.chkCfg u) 0 3 preset)
    let s := (s.setReg P.chkAddr u start).setReg P.chkRem u len
    let s := (s.setReg P.chkExpect u (fieldAt pl 12 4)).setReg P.chkCur u (s.chkAlg u).init
    let s := s.setReg P.chkStat u 1
    (s.setUnit u { cmd := some c, compare := bit (fieldAt pl 1 1) 0 }, .deferred)

def execChkScan (h : Hdr) (pl : List Byte) (s : State) : Out := runCommand h 0x1A01 pl s bodyChkScan

/-- CTL.GO of unit u (R428). A range that is not wholly inside one memory is refused (R424). -/
def State.chkGo (s : State) (u : Nat) : State :=
  let st := s.chkState u
  if s.r.scanOutside u then s
  else if st = 2 then s.setUnit u { s.unit u with hold := false }
  else if st ≠ 1 ∧ 0 < s.reg P.chkRem u then
    (s.setReg P.chkStat u 1).setUnit u {}
  else s

/-- CTL.HOLD of unit u: the read cycle in progress ends; a scan that ends with it is done (R428). -/
def State.chkHold (s : State) (u : Nat) : State :=
  if s.chkState u ≠ 1 then s
  else
    let s := s.scanCycle u
    if s.chkState u ≠ 1 then s else (s.setUnit u { s.unit u with hold := true, chunk := none }).setChkState u 2

/-- CTL.ABORT of unit u (R428). -/
def State.chkAbort (s : State) (u : Nat) : State :=
  if s.chkState u = 1 ∨ s.chkState u = 2 then
    let s := s.scanDone u false St.badState
    ((s.setReg P.chkAddr u 0).setReg P.chkRem u 0).setReg P.chkCur u 0
  else s

/-- CHK.CTL of units 0 to 2; the host cannot write it for unit 3 (R428). -/
def execChkGo (u : Fin 4) (s : State) : Out := fin (if s.serving && u.val != 3 then s.chkGo u.val else s)
def execChkHold (u : Fin 4) (s : State) : Out := fin (if s.serving && u.val != 3 then s.chkHold u.val else s)
def execChkAbort (u : Fin 4) (s : State) : Out := fin (if s.serving && u.val != 3 then s.chkAbort u.val else s)

/-- Start of image slot 0 or 1 in MRAM, and the bytes of the running image with its header. -/
def slotBase (slot : Nat) : Nat := if slot = 0 then 0x01000000 else 0x01180000
def State.imageLen (s : State) : Nat :=
  192 + leNat (Memory.readBytes s.mem (slotBase (bit (s.reg P.secStat 0) 1).toNat + 8) 4)
def State.imageBase (s : State) : Nat := slotBase (bit (s.reg P.secStat 0) 1).toNat

/-- A pass of unit 3 starts with the active image (R436). -/
def State.passStart (s : State) : State :=
  if s.chk.perStep ≠ 0 then s
  else
    let s := ((s.setReg P.chkAddr 3 s.imageBase).setReg P.chkRem 3 (Nat.min 0x180000 s.imageLen)).setReg P.chkCur 3 crc32c.init
    { s.setReg P.chkStat 3 0 with chk := { s.chk with perStep := 1, perDue := false } }

/-- A chunk of the scan task starts for unit u (R429). -/
def State.chunkStart (s : State) (u : Nat) : State :=
  let s := { s with chk := { s.chk with last := u } }
  let s := if u = 3 then s.passStart else s
  (s.setChkState u 1).setUnit u { s.unit u with chunk := some s.epoch, chunkBytes := Nat.min 800000 (s.reg P.chkRem u) }

/-- The scan task's chunk is at its end: its bytes are read, or it has run for 1 ms (R429). -/
def State.chunkOver (s : State) : Bool :=
  match (s.unit s.chk.last).chunk with
  | none => true
  | some t => (s.unit s.chk.last).chunkBytes == 0 || decide (t + msTicks 1 ≤ s.epoch)

/-! Copies of the configuration record (R434, R435). -/

/-- R435, at boot and in the periodic checks: which record is good, and what is repaired or rewritten. USED
and CHK.CFG_GEN tell what boot loaded; the other bits of CHK.CFG_STAT gather until the next boot. -/
def State.checkCopies (s : State) (boot : Bool) : State × Option ConfigRec :=
  let a := s.txn.copyA
  let b := s.txn.copyB
  let passA := a.isSome && !s.chk.badCrcA
  let passB := b.isSome && !s.chk.badCrcB
  let put (s : State) (r : Option ConfigRec) : State :=
    { s with txn := { s.txn with copyA := r, copyB := r }, chk := { s.chk with badCrcA := false, badCrcB := false } }
  let used (s : State) (n : Nat) (r : ConfigRec) : State :=
    if boot then (s.setReg P.chkCfgStat 0 (putBits (s.reg P.chkCfgStat 0) 0 2 n)).setReg P.chkCfgGen 0 r.gen else s
  let restored (s : State) (r : ConfigRec) : State :=
    ((put s (some r)).setBit P.chkCfgStat 0 3 true).event .other 0x5A10 0 0 s.epoch []
  let repaired (s : State) (r : ConfigRec) : State :=
    (((put s (some r)).bump P.chkCvRepairCnt 0 top32).setBit P.chkCfgStat 0 2 true).report K.chkCvRepair 0 s.epoch
  let one (n : Nat) (good : ConfigRec) (other : Option ConfigRec) : State × Option ConfigRec :=
    (used (if other = some good then repaired s good else restored s good) n good, some good)
  let lost : State × Option ConfigRec :=
    (((put s none).setBit P.chkCfgStat 0 4 true).event .other 0x5A11 0 0 s.epoch [], none)
  match passA, a, passB, b with
  | true, some x, true, some y =>
    if x.gen = y.gen then (used s 3 x, some x)
    else if y.gen < x.gen then (used (restored s x) 1 x, some x)
    else (used (restored s y) 2 y, some y)
  | true, some x, false, _ => one 1 x b
  | false, _, true, some y => one 2 y a
  | _, _, _, _ => lost

/-! Periodic checks (R436). -/

/-- The scan task's chunk of unit u ends (R428); that of unit 3 checks the two copies once the image is scanned (R436). -/
def State.chunkDone (s : State) (u : Nat) : State :=
  let s := s.setUnit u { s.unit u with chunk := none }
  if u = 3 ∧ s.chk.perStep = 2 then
    let (s, _) := s.checkCopies false
    { (s.setChkState 3 3) with chk := { s.chk with perStep := 0 } }
  else if s.chkState u = 1 then s.setChkState u 2
  else s

/-- PERIODIC_CHECK_TIMER (R436). -/
def execPeriodicCheckTimer (s : State) : Out :=
  fin (if s.awake && expired s.chk.perAt (sTicks (s.reg P.chkPerInt 0)) s.epoch then
      { s with chk := { s.chk with perAt := s.epoch, perDue := true } } else s)

/-- MRAM_SCRUB_TIMER (R432). -/
def execMramScrubTimer (s : State) : Out :=
  fin (if s.awake && expired s.chk.scrubAt (sTicks (3600 * s.reg P.chkMramScrubInt 0)) s.epoch then
      { s with chk := { s.chk with scrubAt := s.epoch, scrubDue := true } } else s)

/-- The MRAM scrub chunk has read all 4 MiB (R432). -/
def State.mramScrubbed (s : State) : State :=
  { (s.setReg P.chkScrubEpoch 1 s.epoch) with chk := { s.chk with scrubDue := false } }

/-- SCRUB_READ (R432): the next word of SRAM or of engine memory, every 64 cycles. -/
def execScrubRead (eng : Bool) (s : State) : Out :=
  fin (
    if !s.awake then s
    else if eng then
      (if s.epoch < s.chk.engAt + 64 then s
       else
         let n := s.chk.engNext + 1
         let s := if n = 65536 then s.setReg P.chkScrubEpoch 2 s.epoch else s
         { s with chk := { s.chk with engNext := n % 65536, engAt := s.epoch } })
    else
      (if s.epoch < s.chk.sramAt + 64 then s
       else
         let n := s.chk.sramNext + 1
         let s := if n = 1048576 then s.setReg P.chkScrubEpoch 0 s.epoch else s
         { s with chk := { s.chk with sramNext := n % 1048576, sramAt := s.epoch } }))

/-- The word lies in memory m. -/
def wordIn (m addr : Nat) : Bool :=
  decide (memBase m ≤ addr) && decide (addr + 4 ≤ memBase m + memSize m) && addr % 4 == 0

/-- ECC_SBE (R431, R292): the word is corrected and written back, so its content stays; a run in progress
takes 4 lane-cycles more where the word lies in engine memory. -/
def execEccSbe (m : Fin 3) (addr : Word) (s : State) : Out :=
  fin (
    if s.awake && wordIn m.val addr.toNat then
      let s := (s.bump P.chkSbeCnt m.val top32).report K.eccSbe m.val s.epoch none addr.toNat
      -- whose read it was is a free value; the cores count theirs (event 0x16 of R493, assumption log 74)
      let (f, s) := s.takeFree
      let s := if f.toNat % 4 < 2 ∧ m.val ≠ 2 then s.countEvent (f.toNat % 4) 0x16 1 else s
      if m.val = 2 then
        s.each (List.range 4) (fun s d => s.modDrv d (fun x => { x with foc := { x.foc with
          run := x.foc.run.map (fun r => if r.start.isSome then { r with cost := r.cost + 4 } else r) } }))
      else s
    else s)

/-- A scan in a chunk reads a word with a double error: it stops at that word with ERR (R428). A pass of unit 3 goes on
with the copies. -/
def State.scanError (s : State) (addr : Nat) : State :=
  match (List.range 4).find? (fun u => (s.unit u).chunk.isSome && (s.unit u).chunkBytes != 0 && s.reg P.chkAddr u / 4 == addr / 4) with
  | some u =>
    if u = 3 then
      let s := ((s.setReg P.chkRem 3 0).setBit P.chkStat 3 3 true).setUnit 3 { s.unit 3 with chunk := none }
      { s with chk := { s.chk with perStep := 2 } }
    else s.scanDone u true St.ok
  | none => s

/-- LOCKSTEP (R433). -/
def execLockstep (s : State) : Out := fin (if s.awake then s.report K.lockstep 0 s.epoch else s)

end Sys2Proof.Machine
end

