-- ==== Sys2Proof/Machine/Security.lean ====
section
/-! DEFINITION. Key store, life cycle, images, firmware update, user tasks, debug access and random
numbers (R466 to R487). -/

namespace Sys2Proof.Machine

/-! Key store (R466 to R468). -/

/-- Word w of slot k; 0 until written. -/
def State.keyWord (s : State) (k w : Nat) : Nat :=
  if k < 2 then (Config.keyFactory k w).toNat else (Smap.get (fun _ => none) s.keys (8 * k + w)).getD 0
/-- Words of a slot. -/
def slotWords (k : Nat) : Nat := if k = 0 then 4 else if k = 1 ∨ k = 4 then 2 else if k < 4 then 8 else 1
/-- The bytes of a slot. -/
def State.slotBytes (s : State) (k : Nat) : List Byte :=
  ((List.range (slotWords k)).map (fun w => leBytes 8 (s.keyWord k w))).flatten
/-- Every word of a slot has been written. -/
def State.slotFull (s : State) (k : Nat) : Bool :=
  if k < 2 then true
  else if k < 5 then (List.range (slotWords k)).all (fun w => (Smap.get (fun _ => none) s.keys (8 * k + w)).isSome)
  else s.reg P.secArbCnt (k - 5) == 64
/-- SEC.KEY_STAT. -/
def State.keyStat (s : State) : Nat := ((List.range 7).map (fun k => (s.slotFull k).toNat * 2 ^ k)).foldl (· + ·) 0

/-- SEC.STAT.LIFE = `field`. -/
def State.inField (s : State) : Bool := bit (s.reg P.secStat 0) 0

/-- A word of slots 2 to 4 may be written: `provision`, and not written before (R467). -/
def State.keyWritable (s : State) (e : Nat) : Bool :=
  !s.inField && decide (16 ≤ e) && decide (e < 34) && (Smap.get (fun _ => none) s.keys e).isNone

/-- A write of one word of a key-store slot. -/
def State.keyWrite (s : State) (e v : Nat) : State :=
  if s.keyWritable e then { s with keys := Smap.set (fun _ => none) s.keys e (some v) } else s

/-- KEY_WR (R467). -/
def execKeyWr (e : Byte) (v : DWord) (s : State) : Out := fin (if s.serving then s.keyWrite e.toNat v.toNat else s)

/-- SEC.LOCK may be written: slots 2 and 3 are full (R467). -/
def State.lockable (s : State) : Bool := s.slotFull 2 && s.slotFull 3

/-- The device enters `field`; debug is locked from then on. -/
def State.lock (s : State) : State :=
  if s.lockable && !s.inField then s.setReg P.secStat 0 (putBits (s.reg P.secStat 0 ||| 1) 4 2 0) else s

/-- SEC_LOCK (R467). -/
def execSecLock (s : State) : Out := fin (if s.serving then s.lock else s)

/-- An anti-rollback counter is raised to a version (R468, R478); slots whose version lies below it become
invalid. -/
def State.raiseCounter (s : State) (c svn : Nat) : State :=
  if svn ≤ s.reg P.secArbCnt c then s
  else
    let s := s.setReg P.secArbCnt c svn
    s.each (if c = 0 then [0, 1] else [2]) (fun s t =>
      if bits (s.reg P.secSlotStat t) 16 16 < svn then s.setBit P.secSlotStat t 0 false else s)

/-- The highest version among the tasks loaded. -/
def State.taskTop (s : State) : Nat :=
  (List.range 8).foldl (fun m t => if bit (s.reg P.secTaskStat t) 0 then Nat.max m (Smap.get (fun _ => 0) s.sec.taskSvn t) else m) 0

/-- ARB_COMMIT_VIOSKIK and ARB_COMMIT_TASKS (R478). -/
def State.arbCommit (s : State) (v : Nat) : State :=
  if v = 1 then s.raiseCounter 0 (s.reg P.secSvnRun 0) else s.raiseCounter 1 s.taskTop
def execArbCommitVioskik (s : State) : Out := fin (if s.serving then s.arbCommit 1 else s)
def execArbCommitTasks (s : State) : Out := fin (if s.serving then s.arbCommit 2 else s)

/-- BOOT_PREF_WRITE (R487). -/
def execBootPrefWrite (b : Bool) (s : State) : Out := fin (if s.serving then s.setReg P.secBootPref 0 b.toNat else s)

/-! Random numbers (R484). -/

/-- Draws from the TRNG. -/
def State.draw (s : State) : Word × State :=
  (Config.random s.sec.draws, { s with sec := { s.sec with draws := s.sec.draws + 1 } })

/-- RNG_READ (R484): refused while TRNG_FAIL is live. -/
def execRngRead (i : Iface) (s : State) : Out :=
  fin (
    if !s.serving || s.isLive K.trngFail 0 then s
    else
      let k := match i with | .spi => 0 | .can => 1 | .sat => 2 | .link => 3
      let (v, s) := s.draw
      s.setRdata k v.toNat)

/-- TRNG_HEALTH_FAIL (R484). -/
def execTrngHealthFail (s : State) : Out :=
  fin (if s.awake then { s.report K.trngFail 0 s.epoch with sec := { s.sec with retestAt := s.epoch } } else s)

/-- TRNG_RETEST (R484): every 10 ms while TRNG_FAIL is live. -/
def execTrngRetest (passed : Bool) (s : State) : Out :=
  fin (
    if s.awake && s.isLive K.trngFail 0 && decide (s.sec.retestAt + msTicks 10 ≤ s.epoch) then
      let s := { s with sec := { s.sec with retestAt := s.epoch } }
      if passed then s.unlive K.trngFail 0 else s
    else s)

/-! Images (R469, R470). -/

/-- Base address and size of a target: slots A and B, task store, boot configuration (R475). -/
def targetBase (t : Nat) : Nat := if t = 0 then 0x01000000 else if t = 1 then 0x01180000 else if t = 2 then 0x01300000 else 0x01340000
def targetSize (t : Nat) : Nat := if t < 2 then 0x180000 else if t = 2 then 0x40000 else 0x1000
/-- KIND that matches a target. -/
def targetKind (t : Nat) : Nat := if t < 2 then 0 else if t = 2 then 1 else 2

/-- LENGTH and SVN of the image at an address. -/
def State.imageLength (s : State) (a : Nat) : Nat := leNat (Memory.readBytes s.mem (a + 8) 4)
def State.imageSvn (s : State) (a : Nat) : Nat := leNat (Memory.readBytes s.mem (a + 6) 2)

/-- R470 for the image at `a`, with room for `size` bytes: `ok`, `auth` or `rollback`. -/
def State.checkImage (s : State) (a kind size : Nat) : Nat :=
  let hd := Memory.readBytes s.mem a 192
  let len := s.imageLength a
  let pub := (hd.drop 64).take 64
  let sig := (hd.drop 128).take 64
  let svn := s.imageSvn a
  let keyOk := if kind = 0 then Config.sha256 pub == s.slotBytes 0 else s.slotFull 2 && pub == s.slotBytes 2
  if hd.take 4 ≠ [0x59#8, 0x4E#8, 0x56#8, 0x49#8] ∨ leNat ((hd.drop 4).take 1) ≠ kind ∨ size < 192 + len
      ∨ (kind = 2 ∧ len ≠ 4) ∨ keyOk = false then St.auth
  else if Config.ecdsaOk pub (hd.take 128 ++ Memory.readBytes s.mem (a + 192) len) sig = false then St.auth
  else if 64 < svn ∨ (kind = 0 ∧ svn < s.reg P.secArbCnt 0) ∨ (kind = 1 ∧ svn < s.reg P.secArbCnt 1) then St.rollback
  else St.ok

/-! Firmware update (R474 to R477). -/

/-- The open update closes. -/
def State.closeFw (s : State) : State := { s.setBit P.secStat 0 6 false with sec := { s.sec with fw := none } }

/-- The interface of a command. -/
def Cmd.iface (c : Cmd) : Nat := (ringIface c.ring).getD 0

/-- FW_BEGIN (R475). -/
def bodyFwBegin (s : State) (c : Cmd) (pl : List Byte) : State × Reply :=
  let total := fieldAt pl 0 4
  if 3 < c.inst then (s, .refuse St.badInst)
  else if pl.length ≠ 4 then (s, .refuse St.length)
  else if s.recovery = false ∧ c.inst < 2 ∧ c.inst = (bit (s.reg P.secStat 0) 1).toNat then (s, .refuse St.badState)
  else if s.sec.fw.isSome then (s, .refuse St.busy)
  else if total < 192 ∨ targetSize c.inst < total then (s, .refuse St.range)
  else
    let s := (s.setBit P.secSlotStat c.inst 0 false).setBit P.secStat 0 6 true
    ({ s with sec := { s.sec with fw := some { iface := c.iface, target := c.inst, total := total, last := s.epoch } } }, .ok [])

def execFwBegin (h : Hdr) (pl : List Byte) (s : State) : Out := runCommand h 0x1C01 pl s bodyFwBegin

/-- FW_CHUNK (R476). -/
def bodyFwChunk (s : State) (c : Cmd) (pl : List Byte) : State × Reply :=
  let n := pl.length - 4
  if 3 < c.inst then (s, .refuse St.badInst)
  else if pl.length < 5 ∨ 996 < pl.length then (s, .refuse St.length)
  else match s.sec.fw with
    | none => (s, .refuse St.badState)
    | some f =>
      if f.iface ≠ c.iface ∨ f.target ≠ c.inst ∨ f.finish.isSome then (s, .refuse St.badState)
      else if fieldAt pl 0 4 ≠ f.got ∨ f.total < f.got + n then (s, .refuse St.range)
      else
        ({ s with mem := Memory.writeBytes s.mem (targetBase f.target + f.got) (pl.drop 4),
                  sec := { s.sec with fw := some { f with got := f.got + n, last := s.epoch } } }, .ok [])

def execFwChunk (h : Hdr) (pl : List Byte) (s : State) : Out := runCommand h 0x1C02 pl s bodyFwChunk

/-- FW_TMO_EXPIRY (R476): the update is abandoned. -/
def execFwTmoExpiry (s : State) : Out :=
  fin (
    match s.sec.fw with
    | some f => if s.awake && f.finish.isNone && expired f.last (msTicks (s.reg P.secFwTmo 0)) s.epoch then s.closeFw else s
    | none => s)

/-- FW_FINISH (R477). -/
def bodyFwFinish (s : State) (c : Cmd) (pl : List Byte) : State × Reply :=
  if 3 < c.inst then (s, .refuse St.badInst)
  else if pl.length ≠ 1 then (s, .refuse St.length)
  else match s.sec.fw with
    | none => (s, .refuse St.badState)
    | some f =>
      if f.iface ≠ c.iface ∨ f.target ≠ c.inst then (s, .refuse St.badState)
      else if f.finish.isSome then (s, .refuse St.busy)
      else ({ s with sec := { s.sec with fw := some { f with finish := some (c, fieldAt pl 0 1) } } }, .deferred)

def execFwFinish (h : Hdr) (pl : List Byte) (s : State) : Out := runCommand h 0x1C03 pl s bodyFwFinish

/-- The body is decrypted in place with the key of slot 1 where ENC = 1; none where the tag fails (R477). -/
def State.decryptImage (s : State) (a : Nat) : Option State :=
  let hd := Memory.readBytes s.mem a 192
  if !bit (leNat ((hd.drop 5).take 1)) 0 then some s
  else match Config.gcmOpen (s.slotBytes 1) ((hd.drop 16).take 12) ((hd.drop 28).take 16)
      (Memory.readBytes s.mem (a + 192) (Nat.min 0x180000 (s.imageLength a))) with
    | none => none
    | some body => some { s with mem := Memory.writeBytes s.mem (a + 192) body }

/-- The steps of FW_FINISH (R477). -/
def State.finishFw (s : State) (f : FwUpdate) : State × Nat :=
  let a := targetBase f.target
  if f.got ≠ f.total then (s, St.length)
  else match s.decryptImage a with
    | none => (s, St.auth)
    | some s =>
      let st := s.checkImage a (targetKind f.target) (targetSize f.target)
      (s, st)

/-- FW_FINISH_COMPLETE (R477, R472). -/
def execFwFinishComplete (s : State) : Out :=
  fin (
    match s.sec.fw with
    | none => s
    | some f =>
      match f.finish with
      | none => s
      | some (c, flags) =>
        if !s.awake then s
        else
          let (s, st) := s.finishFw f
          let svn := s.imageSvn (targetBase f.target)
          let s := if st = St.ok then
              let s := s.setReg P.secSlotStat f.target (1 + svn * 2 ^ 16)
              if bit flags 0 && decide (f.target < 2) then s.setReg P.secBootPref 0 f.target else s
            else s.report K.secAuth 0 s.epoch
          let s := s.closeFw.complete c st 0xFFFF (leBytes 2 svn)
          if s.recovery && st == St.ok then s.requestChip 3 else s)

/-! User tasks (R479, R480). -/

/-- First address of task t's region (R479). -/
def taskRegion (t : Nat) : Nat := Config.userRegion.toNat % (0x400000 - 0x80000) + t * 0x10000

/-- TASK_LOAD (R479). -/
def bodyTaskLoad (s : State) (c : Cmd) (pl : List Byte) : State × Reply :=
  if 7 < c.inst then (s, .refuse St.badInst)
  else if pl.length ≠ 5 then (s, .refuse St.length)
  else if s.sec.load.isSome then (s, .refuse St.busy)
  else
    let s := s.setBit P.secTaskStat c.inst 1 false
    ({ s with sec := { s.sec with load := some (c, fieldAt pl 0 4, fieldAt pl 4 1) } }, .deferred)

def execTaskLoad (h : Hdr) (pl : List Byte) (s : State) : Out := runCommand h 0x1C06 pl s bodyTaskLoad

/-- The image at OFFSET of the task store is checked, copied and started (R479). -/
def State.loadTask (s : State) (t off : Nat) (start : Bool) : State × Nat :=
  let a := 0x01300000 + off
  let st := s.checkImage a 1 (0x40000 - off)
  let len := s.imageLength a
  if st ≠ St.ok then (s, st)
  else if 0x10000 < len then (s, St.range)
  else
    let s := { s with mem := Memory.writeBytes s.mem (taskRegion t) (Memory.readBytes s.mem (a + 192) len),
                      sec := { s.sec with taskSvn := Smap.set (fun _ => 0) s.sec.taskSvn t (s.imageSvn a) } }
    let s := s.setReg P.secTaskStat t (1 + start.toNat * 2)
    let entry := leNat (Memory.readBytes s.mem (a + 12) 4)
    if start then
      ({ s with sec := { s.sec with taskEntry := Smap.set (fun _ => 0) s.sec.taskEntry t entry } }, St.ok)
    else (s, St.ok)

/-- TASK_LOAD_COMPLETE (R479). -/
def execTaskLoadComplete (s : State) : Out :=
  fin (
    match s.sec.load with
    | none => s
    | some (c, off, flags) =>
      if !s.awake then s
      else
        let (s, st) := s.loadTask c.inst off (bit flags 0)
        ({ s with sec := { s.sec with load := none } }).complete c st 0xFFFF [])

/-- USER_MODE_ACCESS_FAULT (R480). -/
def execUserModeAccessFault (t : Fin 8) (s : State) : Out :=
  fin (if s.awake && bit (s.reg P.secTaskStat t.val) 1 then
      (s.setBit P.secTaskStat t.val 1 false).setBit P.secTaskStat t.val 2 true else s)



/-! Debug access (R481 to R483). -/

/-- DBG_CHALLENGE (R482). -/
def bodyDbgChallenge (s : State) (_ : Cmd) (pl : List Byte) : State × Reply :=
  let lvl := fieldAt pl 0 1
  if pl.length ≠ 1 then (s, .refuse St.length)
  else if lvl = 0 ∨ 2 < lvl then (s, .refuse St.range)
  else if s.isLive K.trngFail 0 then (s, .refuse St.badState)
  else if 3 ≤ s.sec.fails then (s, .refuse St.locked)
  else
    let (w0, s) := s.draw
    let (w1, s) := s.draw
    let (w2, s) := s.draw
    let (w3, s) := s.draw
    let bs := leBytes 4 w0.toNat ++ leBytes 4 w1.toNat ++ leBytes 4 w2.toNat ++ leBytes 4 w3.toNat
      ++ leBytes 8 (s.reg P.linkUid 0) ++ leBytes 1 lvl ++ zeros 3
    ({ s with sec := { s.sec with chal := some { bytes := bs, level := lvl, at_ := s.epoch } } }, .ok bs)

def execDbgChallenge (h : Hdr) (pl : List Byte) (s : State) : Out := runCommand h 0x1C04 pl s bodyDbgChallenge

/-- DBG_RESPONSE (R483). -/
def bodyDbgResponse (s : State) (_ : Cmd) (pl : List Byte) : State × Reply :=
  if pl.length ≠ 64 then (s, .refuse St.length)
  else match s.sec.chal with
    | none => (s, .refuse St.badState)
    | some c =>
      if expired c.at_ (sTicks (s.reg P.secDbgTmo 0)) s.epoch then (s, .refuse St.badState)
      else
        let s := { s with sec := { s.sec with chal := none } }
        if s.slotFull 3 && Config.ecdsaOk (s.slotBytes 3) c.bytes pl then
          (s.setReg P.secStat 0 (putBits (s.reg P.secStat 0) 4 2 c.level), .ok [])
        else
          let s := (s.report K.secAuth 0 s.epoch).bump P.secAuthFailCnt 0 top32
          let s := { s with sec := { s.sec with fails := s.sec.fails + 1 } }
          (if 3 ≤ s.sec.fails then s.setBit P.secStat 0 7 true else s, .refuse St.auth)

def execDbgResponse (h : Hdr) (pl : List Byte) (s : State) : Out := runCommand h 0x1C05 pl s bodyDbgResponse

end Sys2Proof.Machine
end

