-- ==== Sys2Proof/Machine/Budget.lean ====
section
/-! DEFINITION. The budget scheduler: energy account, heat headroom, background tasks and their chunks
(R65 to R71). -/

namespace Sys2Proof.Machine

/-! Energy account (R68). -/

/-- Units of the account in one µJ: ticks of one hour, so a tick refills PWR.E_ALLOW units. -/
def eUnit : Nat := 720000000000

/-- The account now, refilled since it was last settled while PWR.SUPPLY = `aux`. -/
def State.energyNow (s : State) : Nat :=
  let cap := s.reg P.pwrECap 0 * eUnit
  if s.reg P.pwrSupply 0 = 1 then Nat.min cap (s.pwr.eLevel + s.reg P.pwrEAllow 0 * (s.epoch - s.pwr.eTick))
  else Nat.min cap s.pwr.eLevel

/-- The account is settled to this tick. -/
def State.settleEnergy (s : State) : State :=
  { s with pwr := { s.pwr with eLevel := s.energyNow, eTick := s.epoch } }

/-- PWR.E_LEVEL in µJ. -/
def State.eLevel (s : State) : Nat := (2 * s.energyNow + eUnit) / (2 * eUnit)

/-! Tasks (R66, R67). -/

/-- Energy debit of a task's chunk in µJ, and its heat estimate in 1/1280 K; none that always fits. -/
def taskCost (p : Nat) : Nat × Option Int :=
  if p = 1 then (12000, some 1280) else if p = 2 then (600, some 640) else (60, none)

/-- Longest wait of a task, in ticks. -/
def taskWait (p : Nat) : Nat := if p = 1 then sTicks 7200 else if p = 2 then sTicks 3600 else if p = 3 then sTicks 10 else sTicks 1

/-- A capture record waits and ring 18 + d takes it (R318), or the capture has ended and its completion is due
(R319). -/
def State.captureDue (s : State) (d : Nat) : Bool :=
  match (s.drv d).foc.cap with
  | some c => (!c.fifo.isEmpty && s.ringOut (18 + d) && decide (0 < s.ringFree (18 + d))) || (c.ended.isSome && c.fifo.isEmpty)
  | none => false

/-- The journal stream has an entry for ring 17 (R417). -/
def State.streamDue (s : State) : Bool :=
  s.reg P.fltStream 0 == 1 && s.ringOut 17 && decide (32 ≤ s.ringEsize 17) && decide (0 < s.ringFree 17) && !s.flt.journal.isEmpty

/-- The task of priority p is ready; its own chunk does not make it ready (R67, R70). -/
def State.taskReady (s : State) (p : Nat) : Bool :=
  (match s.pwr.chunk with | some (q, _) => q != p | none => true) &&
  (if p = 1 then s.lifeDirty
   else if p = 2 then s.chk.scrubDue
   else if p = 3 then s.nextScan.isSome
   else if p = 4 then s.streamDue || (List.range 4).any (fun d => s.captureDue d) || s.drainable 3 22 || s.drainable 4 23
   else s.drainable 0 24 || s.drainable 1 24 || s.drainable 2 25)

/-- PWR.TASK_PEND. -/
def State.taskPend (s : State) : Nat := ((List.range 5).map (fun i => (s.taskReady (i + 1)).toNat * 2 ^ i)).foldl (· + ·) 0

/-- Tick since which task p has been ready. -/
def State.readySince (s : State) (p : Nat) : Option Nat := Smap.get (fun _ => none) s.pwr.ready p
def State.setReady (s : State) (p : Nat) (x : Option Nat) : State :=
  { s with pwr := { s.pwr with ready := Smap.set (fun _ => none) s.pwr.ready p x,
                               lateDone := if x.isNone then putBit s.pwr.lateDone p false else s.pwr.lateDone } }

/-- The ready tasks are seen: the wait of each starts, or ends. -/
def State.seeReady (s : State) : State :=
  s.each [1, 2, 3, 4, 5] (fun s p =>
    if s.taskReady p then (if (s.readySince p).isSome then s else s.setReady p (some s.epoch))
    else if (s.readySince p).isSome then s.setReady p none else s)

/-! The tests of a decision (R68 to R70). -/

/-- The hottest die reading of the last housekeeping round, in 1/128 °C; none before one. -/
def State.hottestDie (s : State) : Option Int :=
  [0, 1, 2].foldl (fun m u => match m, Smap.get (fun _ => none) s.therm.temp u with
    | some a, some b => some (if a < b then b else a)
    | none, x => x
    | x, none => x) none

/-- The heat test of R69: ΔT is no more than H. Before the first reading it passes (assumption log 23). -/
def State.heatOk (s : State) (dT : Option Int) : Bool :=
  match dT, s.hottestDie with
  | some x, some t =>
    decide (x ≤ 10 * (q7Of (bits (s.reg P.thermDieLvl 1) 0 16) - t) - 128 * (s.reg P.pwrHReserve 0 : Int))
  | _, _ => true

/-- The energy test: the account, less what higher tasks have reserved, covers the debit. -/
def State.energyOk (s : State) (debit reserved : Nat) : Bool :=
  s.reg P.pwrSupply 0 == 0 || decide ((debit + reserved) * eUnit ≤ s.energyNow)

/-- One decision: the tasks in order of priority from p on, `reserved` µJ reserved so far. The answer names
the task that runs (R70). -/
def State.choose (s : State) (p reserved : Nat) : Nat → State × Option Nat
  | 0 => (s, none)
  | fuel + 1 =>
    if !s.taskReady p then State.choose s (p + 1) reserved fuel
    else
      let (debit, dT) := taskCost p
      if !s.heatOk dT then State.choose (s.bump P.pwrHDeferCnt 0 top32) (p + 1) reserved fuel
      else if !s.energyOk debit reserved then State.choose (s.bump P.pwrEDeferCnt 0 top32) (p + 1) (reserved + debit) fuel
      else (s, some p)

/-- Either account refuses a task in a decision (R70, event 0x23 of R493). -/
def State.refusesTask (s : State) (p reserved : Nat) : Nat → Bool
  | 0 => false
  | fuel + 1 =>
    if !s.taskReady p then State.refusesTask s (p + 1) reserved fuel
    else !s.heatOk (taskCost p).2 || !s.energyOk (taskCost p).1 reserved

/-- A chunk of task p starts: its debit is taken (R68). -/
def State.startChunk (s : State) (p : Nat) : State :=
  let s := s.settleEnergy
  let s := if s.reg P.pwrSupply 0 = 1 then
      { s with pwr := { s.pwr with eLevel := s.pwr.eLevel - (taskCost p).1 * eUnit } } else s
  let s := (s.setReady p none).countEvent 0 0x22 1
  let s := match p, s.nextScan with | 3, some u => s.chunkStart u | _, _ => s
  { s with pwr := { s.pwr with chunk := some (p, s.epoch) } }

/-- The supervisor may start a chunk: awake and not halted, no chunk, no pause (R70, R71). -/
def State.chunkFree (s : State) : Bool :=
  s.serving && !s.recovery && s.pwr.chunk.isNone && (match s.pwr.pause with | some t => decide (t ≤ s.epoch) | none => true)

/-- The choice of a chunk is offered: the pause is over, and a task that the energy budget refuses is an event (R70, R503). -/
def State.offerChunk (s : State) : State :=
  let s := { s.seeReady with pwr := { s.seeReady.pwr with pause := none } }
  if s.refusesTask 1 0 5 then s.countEvent 0 0x23 1 else s

/-- BG_CHUNK_START (R70). -/
def execBgChunkStart (s : State) : Out :=
  fin (
    if !s.chunkFree then s
    else
      match s.offerChunk.choose 1 0 5 with
      | (s, some p) => s.startChunk p
      | (s, none) => s)

/-! Ends of chunks. -/

/-- Records of drive d's capture move into free entries of ring 18 + d; once a capture has ended and its last
record has reached the ring, its completion event is written (R318, R319). -/
def State.drainCapture (s : State) (d : Nat) : State :=
  match (s.drv d).foc.cap with
  | none => s
  | some c =>
    let n := if s.ringOut (18 + d) then s.ringFree (18 + d) else 0
    let s1 := s.each (c.fifo.take n) (fun s rec => s.putRecord (18 + d) rec)
    let c1 := { c with fifo := c.fifo.drop n }
    if c1.ended.isSome && c1.fifo.isEmpty then
      (s1.modDrv d (fun x => { x with foc := { x.foc with cap := none } })).complete c1.cmd St.ok 0xFFFF
        (leBytes 4 c1.done ++ leBytes 4 c1.dropped)
    else s1.modDrv d (fun x => { x with foc := { x.foc with cap := some c1 } })

/-- What a chunk of task p has done at its end. -/
def State.chunkWork (s : State) (p : Nat) : State :=
  match p with
  | 1 => s.flushLife
  | 2 => s.mramScrubbed
  | 3 => s.chunkDone s.chk.last
  | 4 => (((s.streamJournal.each (List.range 4) (fun s d => s.drainCapture d)).drainBuf 3 22).drainBuf 4 23)
  | _ => ((s.drainBuf 0 24).drainBuf 1 24).drainBuf 2 25

/-- A die stands at throttle level (R71, R381). -/
def State.dieThrottled (s : State) : Bool := [0, 1, 2].any (fun u => decide (2 ≤ s.lvlOf u))

/-- BG_CHUNK_END (R66, R71). -/
def execBgChunkEnd (s : State) : Out :=
  fin (
    match s.pwr.chunk with
    | none => s
    | some (p, t) =>
      if !s.awake || (p == 3 && !s.chunkOver) then s
      else
        let s := s.chunkWork p
        let pause := if s.dieThrottled then some (s.epoch + s.reg P.pwrThrRatio 0 * (s.epoch - t)) else none
        ({ s with pwr := { s.pwr with chunk := none, pause := pause } }).seeReady)

/-- BG_WAIT_EXPIRY (R70). -/
def execBgWaitExpiry (p : Fin 5) (s : State) : Out :=
  fin (
    let n := p.val + 1
    let s := if s.awake then s.seeReady else s
    match s.readySince n with
    | some t =>
      if s.awake && !bit s.pwr.lateDone n && expired t (taskWait n) s.epoch then
        let s := { s with pwr := { s.pwr with lateDone := putBit s.pwr.lateDone n true } }
        (s.bump P.pwrTaskLateCnt 0 top32).report K.bgLate 0 s.epoch
      else s
    | none => s)

/-- THROTTLE_PAUSE_END (R71). -/
def execThrottlePauseEnd (s : State) : Out :=
  fin (
    match s.pwr.pause with
    | some t => if t ≤ s.epoch then { s with pwr := { s.pwr with pause := none } } else s
    | none => s)

end Sys2Proof.Machine
end

