-- ==== Sys2Proof/Machine/Derived.lean ====
section
/-! DEFINITION. What follows from a configuration: owners, window and modulation limits, program costs, lane
and engine loads, and the bounds of a home drive (R18 to R21, R27, R216 to R222, R291, R301, R463). Each is a
function of a register file, so that a commit can be judged before it is applied (R110). -/

namespace Sys2Proof.Machine

/-! Ownership (R18 to R21). -/

def Regs.role (r : Regs) (d : Nat) : Nat := roleOf (r.get P.sysDrvMap d)
def Regs.bridges (r : Regs) (d : Nat) : List Nat :=
  if r.role d = 0 then [] else setBits 4 (bridgesOf (r.get P.sysDrvMap d))
def Regs.computes (r : Regs) (d : Nat) : Bool := r.role d == 1 || r.role d == 2
def Regs.ownerOf (r : Regs) (b : Nat) : Option Nat := (List.range 4).find? (fun d => (r.bridges d).contains b)
def Regs.gensOf (r : Regs) (d : Nat) : List Nat := ((r.bridges d).map gensOfBridge).flatten

/-- Enabled LINK.GANG entries of a home drive, and the bridges lent to it (R457). -/
def Regs.gangEntries (r : Regs) (d : Nat) : List Nat :=
  if r.role d = 2 then (List.range 16).filter (fun j => bit (r.get P.linkGang j) 15 && bits (r.get P.linkGang j) 12 2 == d) else []
def Regs.gangDev (r : Regs) (j : Nat) : Nat := bits (r.get P.linkGang j) 0 8
def Regs.lentOf (r : Regs) (j : Nat) : Nat := popCount 4 (bits (r.get P.linkGang j) 8 4)
def Regs.lent (r : Regs) (d : Nat) : Nat := ((r.gangEntries d).map r.lentOf).foldl (· + ·) 0
/-- N: the drive's own bridges and those lent to it (R262, R457). -/
def Regs.nSets (r : Regs) (d : Nat) : Nat := (r.bridges d).length + r.lent d

/-! Window and modulation limits, in fractions of 1/32 tick (R216 to R222). -/

/-- F: the largest averaging span among the drive's primaries (R216). -/
def Regs.maxSpan (r : Regs) (d : Nat) : Nat := ((r.bridges d).map (fun b => 2 ^ r.get P.adcFcFilt (2 * b))).foldl Nat.max 1
/-- SHUNT.T_MIN_WIN[d] in ticks (R216). -/
def Regs.tMinWin (r : Regs) (d : Nat) : Nat := r.get P.shuntTSettle d + r.get P.shuntTGuard d + 10 * (r.maxSpan d + 1)
/-- DT_MAX: the largest dead time among the drive's generators (R216). -/
def Regs.dtMax (r : Regs) (d : Nat) : Nat :=
  ((r.gensOf d).map (fun g => Nat.max (r.get P.pwmDtRise g) (r.get P.pwmDtFall g))).foldl Nat.max 0
/-- T_Q: the shortest measurable active vector between request edges (R216). -/
def Regs.tQ (r : Regs) (d : Nat) : Nat := 32 * r.tMinWin d + r.dtMax d
/-- T_B = 200 ns − T_GUARD (R218). -/
def Regs.tB (r : Regs) (d : Nat) : Nat := 32 * (40 - r.get P.shuntTGuard d)
/-- Ts = ⌊PERIOD/2⌋ (R217). -/
def Regs.ts (r : Regs) (d : Nat) : Nat := 32 * (r.get P.pwmPeriod d / 2)
/-- SHUNT.M_MAX[d] in uQ1.15, rounded towards zero (R219); the second term's √3 enters by its square. -/
def Regs.mMax (r : Regs) (d : Nat) : Nat :=
  let t := r.ts d
  let t1 := (t - 2 * r.tB d) * 32768 / t
  let x := 2 * (t - 2 * r.tQ d - 2 * r.tB d) * 32768
  Nat.min (Nat.min t1 (Nat.sqrt (x * x / (3 * t * t)))) 32768

/-! Program costs (R27, R291, R301, R457, R463). -/

/-- Lane-cycles of the drive's FOC-S or FOC-G run (R27, R457). -/
def Regs.focCost (r : Regs) (d : Nat) : Nat :=
  let n := r.nSets d
  (if n ≤ 1 then 1100 else 1800 + 260 * (n - 4)) + (if r.get P.posSrc d = 2 then 120 else 0)
/-- C of R301 and the charge of R27: for a home drive with its wait for the members' reports. -/
def Regs.cost (r : Regs) (d : Nat) : Nat := r.focCost d + (if r.role d = 2 then 2 * r.get P.linkWait d else 0)

/-- A non-negative fraction: numerator and denominator. -/
abbrev Frac := Nat × Nat
def Frac.plus (x y : Frac) : Frac := (x.1 * y.2 + y.1 * x.2, x.2 * y.2)
def Frac.round (x : Frac) : Nat := (2 * x.1 + x.2) / (2 * x.2)

/-- The drive's charge in 0.01 M lane-cycles/s (R27). -/
def Regs.charge (r : Regs) (d : Nat) : Frac :=
  if r.computes d then (r.cost d * r.get P.engSpp d * 20000, r.get P.pwmPeriod d) else (0, 1)
/-- The charge of the drives of a list. -/
def Regs.charges (r : Regs) (ds : List Nat) : Frac := ds.foldl (fun x d => Frac.plus x (r.charge d)) (0, 1)
/-- ENG.LOAD and ENG.LANE_LOAD[l]. -/
def Regs.engLoad (r : Regs) : Nat := Frac.round (r.charges [0, 1, 2, 3])
def Regs.laneLoad (r : Regs) (l : Nat) : Nat := Frac.round (r.charges ([0, 1, 2, 3].filter (fun d => r.get P.engLane d == l)))

/-- T of R301: the shortest interval of a drive in ticks. -/
def Regs.interval (r : Regs) (d : Nat) : Nat :=
  (if r.get P.engSpp d = 2 then r.get P.pwmPeriod d / 2 else r.get P.pwmPeriod d)
    - (if r.get P.pwmSyncMode d = 1 then r.get P.pwmSyncStep 0 else 0)

/-! Bounds of a home drive (R463), in ticks rounded up. -/

def Regs.linkAuth (r : Regs) : Bool := bit (r.get P.linkCfg 0) 1
/-- Frame time in ns of a payload (R442). -/
def Regs.frameNs (r : Regs) (n : Nat) : Nat := (17 + n + (if r.linkAuth then 4 else 0)) * 4
/-- H · (h + t_B): the largest HOPS to a member, hops of 80 or 200 ns behind one frame each (R463). -/
def Regs.hopsNs (r : Regs) (d : Nat) : Nat :=
  (((r.gangEntries d).map (fun j => bits (r.get P.linkNode (r.gangDev j)) 8 8)).foldl Nat.max 0) *
    (if r.linkAuth then 540 else 404)
/-- The devices of a home drive's gang, and the bridges that one of them lends. -/
def Regs.members (r : Regs) (d : Nat) : List Nat := ((r.gangEntries d).map r.gangDev).eraseDups
def Regs.lentBy (r : Regs) (d dev : Nat) : Nat := (((r.gangEntries d).filter (fun j => r.gangDev j == dev)).map r.lentOf).foldl (· + ·) 0
/-- LINK.REP_BOUND[d]. -/
def Regs.repBound (r : Regs) (d : Nat) : Nat :=
  if r.role d ≠ 2 then 0
  else
    let reports := ((r.members d).map (fun m => r.frameNs (16 + 40 * r.lentBy d m))).foldl (· + ·) 0
    (100 + r.hopsNs d + reports + 4) / 5 + r.get P.linkExtra d
/-- LINK.DUTY_LEAD[d]. -/
def Regs.dutyLead (r : Regs) (d : Nat) : Nat :=
  if r.role d ≠ 2 then 0
  else (100 + r.hopsNs d + r.frameNs (8 + 28 * r.lent d) + 4) / 5 + r.get P.linkExtra d
/-- ENG.LOAD_MARGIN, with DUTY_LEAD for a home drive (R295, R463). -/
def Regs.loadMargin (r : Regs) (d : Nat) : Nat := r.get P.engLoadMargin 0 + r.dutyLead d

/-- The lane fit of R301 for drive d. -/
def Regs.laneFits (r : Regs) (d : Nat) : Bool :=
  let t := r.interval d
  let others := [0, 1, 2, 3].filter (fun j => j != d && r.computes j && r.get P.engLane j == r.get P.engLane d)
  let load := others.foldl (fun n j => n + r.cost j * ((t + r.interval j - 1) / r.interval j)) (r.cost d)
  decide (load + 2 * (r.loadMargin d + 100) ≤ 2 * t)

end Sys2Proof.Machine
end

