-- ==== Sys2Proof/Machine/Frames.lean ====
section
/-! DEFINITION. The frames of the control chain: Clarke and Park transforms, the angle of a set, the currents
that stand in for a set without a measurement, and the torque (R213, R261 to R263). -/

namespace Sys2Proof.Machine

/-! Transforms (R261). Angles are in uQ0.32 of a turn. -/

/-- √(x² + y²). -/
def magF (x y : F32) : F32 := F32.sqrt (F32.add (F32.mul x x) (F32.mul y y))
/-- i_α and i_β. -/
def clarke (u v w : F32) : F32 × F32 :=
  (F32.mul (F32.ofRatio false 2 3) (F32.sub (F32.sub u (F32.mul F32.half v)) (F32.mul F32.half w)),
   F32.div (F32.sub v w) F32.sqrt3)
/-- Stator frame to a rotating frame at θ. -/
def park (a b : F32) (θ : Nat) : F32 × F32 :=
  let c := cosTurn θ
  let s := sinTurn θ
  (F32.add (F32.mul a c) (F32.mul b s), F32.sub (F32.mul b c) (F32.mul a s))
/-- A rotating frame at θ to the stator frame. -/
def invPark (d q : F32) (θ : Nat) : F32 × F32 :=
  let c := cosTurn θ
  let s := sinTurn θ
  (F32.sub (F32.mul d c) (F32.mul q s), F32.add (F32.mul d s) (F32.mul q c))
/-- v_U, v_V and v_W. -/
def invClarke (a b : F32) : F32 × F32 × F32 :=
  let x := F32.neg (F32.mul F32.half a)
  let y := F32.mul (F32.div F32.sqrt3 F32.two) b
  (a, F32.add x y, F32.sub x y)
/-- Phase values in the d/q frame at θ. -/
def toDq (u v w : F32) (θ : Nat) : F32 × F32 := let (a, b) := clarke u v w; park a b θ
/-- Phase values of a d/q vector at θ. -/
def ofDq (d q : F32) (θ : Nat) : F32 × F32 × F32 := let (a, b) := invPark d q θ; invClarke a b

/-! Sets (R262). -/

/-- θ_b of an own set, and of a set lent by entry j (R457). -/
def Regs.setAngle (r : Regs) (key bridge θ : Nat) : Nat :=
  (θ + 2 ^ 32 - turn16 (if key < 16 then r.get P.focBrOfs bridge else r.get P.linkGangOfs (key - 16))) % 2 ^ 32

/-- Full-scale current of a bridge in A (R181). -/
def Regs.fullScale (r : Regs) (b : Nat) : F32 := F32.ofRatio false 15000000 (4 * 2 ^ r.get P.adcGain b * r.get P.shuntRShunt b)

/-- i_dq of a set without measured currents, from its two previous samples (R213): held where `carried`,
else carried on and limited to full scale. -/
def stand (status : Nat) (h : SetSt) (full : F32) : F32 × F32 :=
  if status = Stat.carried then (h.id1, h.iq1)
  else
    let d := F32.sub (F32.mul F32.two h.id1) h.id2
    let q := F32.sub (F32.mul F32.two h.iq1) h.iq2
    let m := magF d q
    if F32.lt full m then (F32.div (F32.mul d full) m, F32.div (F32.mul q full) m) else (d, q)

/-- The currents of a set at angle θ_b: those measured, or the ones that stand in for them (R211 to R213). A
set of status `none` carries none. -/
def SetIn.fill (x : SetIn) (h : SetSt) (full : F32) (θ : Nat) : SetIn :=
  if x.status = Stat.measured ∨ x.status = Stat.eclipse then
    let (d, q) := toDq x.iu x.iv x.iw θ
    { x with θ := θ, id_ := d, iq := q }
  else if x.status = Stat.none then { x with θ := θ, iu := 0#32, iv := 0#32, iw := 0#32, id_ := 0#32, iq := 0#32 }
  else
    let (d, q) := stand x.status h full
    let (u, v, w) := ofDq d q θ
    { x with θ := θ, iu := u, iv := v, iw := w, id_ := d, iq := q }

/-- State of a set. -/
def FocSt.set (f : FocSt) (key : Nat) : SetSt := Smap.get (fun _ => {}) f.sets key
def FocSt.setSet (f : FocSt) (key : Nat) (x : SetSt) : FocSt := { f with sets := Smap.set (fun _ => {}) f.sets key x }

/-- T_set of R263. -/
def Regs.setTorque (r : Regs) (d : Nat) (id_ iq : F32) : F32 :=
  let k := F32.mul (F32.ofFrac 3 2) (F32.ofNat (r.get P.posPolePairs d))
  F32.mul k (F32.add (F32.mul (r.f P.focPsi d) iq) (F32.mul (F32.mul (F32.sub (r.f P.focLd d) (r.f P.focLq d)) id_) iq))

end Sys2Proof.Machine
end

