-- ==== Sys2Proof/Machine/RingIf.lean ====
section
/-! DEFINITION. Ring descriptors and doorbells, message timeouts, and CAN FD (R79 to R85, R89,
R98 to R103). -/

namespace Sys2Proof.Machine

/-! Descriptors (R82, R83). -/

/-- Bytes that a descriptor's ring occupies. -/
def cfgBytes (c : Nat) : Nat := 2 ^ cfgSize c * (16 * 2 ^ cfgEsize c)

/-- The checks of R82 on a descriptor that is to be enabled as ring r. -/
def State.ringCheck (s : State) (r c : Nat) : Bool :=
  let lo := cfgBase c
  let hi := lo + cfgBytes c
  !(decide (26 ≤ r) && decide (r ≤ 31)) && decide (4 ≤ cfgSize c) && decide (cfgSize c ≤ 12) && lo % 64 == 0
    && decide (cfgEsize c ≤ 2) && decide (hi ≤ (if r < 32 then 0xF0000 else 0x100000))
    && (List.range 64).all (fun q => q == r || !s.ringOn q ||
        decide (hi ≤ cfgBase (s.ringCfg q)) || decide (cfgBase (s.ringCfg q) + cfgBytes (s.ringCfg q) ≤ lo))
    && (decide (7 < r) || decide (1024 ≤ cfgBytes c))

/-- A write of HOST.RING_CFG[r], r below 32 (R82, R83): ERR is cleared by a 1; while the ring is enabled
only EN changes. False where an enable fails its checks. -/
def State.ringCfgWrite (s : State) (r v : Nat) : State × Bool :=
  let old := s.ringCfg r
  let err := cfgErr old && !bit v 30
  if cfgEn old then
    if bit v 31 then (s.setReg P.hostRingCfg r (putBit old 30 err), true)
    else
      let s := s.setReg P.hostRingCfg r (putBit (putBit old 30 err) 31 false)
      let s := s.setReg P.hostRingIdx r (s.ringHead r + s.ringHead r * 2 ^ 16)
      ((s.setRing r { s.ring r with exposed := [], stalled := false, arr := [] }).flushResponses, true)
  else
    let c := v % 2 ^ 27
    if bit v 31 then
      (if s.ringCheck r c then
        let s := (s.setReg P.hostRingCfg r (c + err.toNat * 2 ^ 30 + 2 ^ 31)).setReg P.hostRingIdx r 0
        (s.setRing r { s.ring r with lastSeq := none, exposed := [], stalled := false, arr := [] }, true)
       else ((s.setReg P.hostRingCfg r (c + 2 ^ 30)).flagGstat 8, false))
    else (s.setReg P.hostRingCfg r (c + err.toNat * 2 ^ 30), true)

/-- RING_ENABLE (R82). -/
def execRingEnable (r : Fin 64) (cfg : Word) (s : State) : Out :=
  fin (if s.serving && decide (r.val < 32) then (s.ringCfgWrite r.val (putBit cfg.toNat 31 true)).1 else s)

/-- RING_DISABLE (R83). -/
def execRingDisable (r : Fin 64) (s : State) : Out :=
  fin (if s.serving && decide (r.val < 32) then (s.ringCfgWrite r.val (putBit (s.ringCfg r.val) 31 false &&& 0xBFFFFFFF)).1 else s)

/-! Doorbells (R80, R81, R124). -/

/-- Stamps of the entries of a ring of 8 to 15 that a doorbell exposes. -/
def stampEntries (now : Nat) : Nat → Nat → Smap Nat → Smap Nat
  | 0, _, m => m
  | n + 1, i, m => stampEntries now n (i + 1) (Smap.set (fun _ => 0) m (i % 2 ^ 16) now)

/-- The producer's index of a `to_device` ring moves to v: exposure and arrival stamps (R89, R124). -/
def State.advanceHead (s : State) (r v : Nat) : State :=
  let x := s.ring r
  let n := (v + 2 ^ 16 - s.ringHead r) % 2 ^ 16
  let x := { x with exposed := if commandRings.contains r ∧ n ≠ 0 then x.exposed ++ [(s.ringHead r, s.epoch)] else x.exposed,
                    arr := if 8 ≤ r ∧ r ≤ 15 then stampEntries s.epoch n (s.ringHead r) x.arr else x.arr }
  (s.setIdx r v (s.ringTail r)).setRing r x

/-- A write of a doorbell (R80, R81). -/
def State.doorbell (s : State) (r v : Nat) : State :=
  let bad (s : State) : State :=
    ((s.bump P.hostDbErr 0 top32).setReg P.hostRingCfg r (putBit (s.ringCfg r) 30 true)).flagGstat 7
  if 31 < r ∨ s.ringOn r = false then bad s
  else if cfgDir (s.ringCfg r) then
    (if s.ringFilled r < (v + 2 ^ 16 - s.ringTail r) % 2 ^ 16 then bad s
     else (s.setIdx r (s.ringHead r) v).flushResponses)
  else if s.ringFree r < (v + 2 ^ 16 - s.ringHead r) % 2 ^ 16 then bad s
  else s.advanceHead r v

/-- DOORBELL_WRITE (R80, R81). -/
def execDoorbellWrite (r : Fin 64) (v : Half) (s : State) : Out :=
  fin (if s.awake then s.doorbell r.val v.toNat else s)

/-! Messages on command rings (R86, R89). -/

/-- Bytes before the header of a message: on ring 34 the ID of its destination stands there (R455). -/
def msgLead (r : Nat) : Nat := if r = 34 then 4 else 0
/-- LENGTH of the message at TAIL, and the entries it occupies. -/
def State.msgLength (s : State) (r : Nat) : Nat :=
  leNat (Memory.readBytes s.pool (s.entryAddr r (s.ringTail r) + 6 + msgLead r) 2)
def State.msgEntries (s : State) (r : Nat) : Nat := s.entriesFor r (s.msgLength r + msgLead r)

/-- The doorbells that still count for a ring whose TAIL is `tail`: the one that exposed the entry there, and
later ones (R89). -/
def exposedFrom (tail : Nat) : List (Nat × Nat) → List (Nat × Nat)
  | a :: b :: r => if (tail + 2 ^ 16 - b.1) % 2 ^ 16 < 2 ^ 15 then exposedFrom tail (b :: r) else a :: b :: r
  | l => l

/-- The device consumes entries of a command ring. -/
def State.consumeMsg (s : State) (r n : Nat) : State :=
  let s := s.consume r n
  s.setRing r { s.ring r with
    exposed := if s.ringFilled r = 0 then [] else exposedFrom (s.ringTail r) (s.ring r).exposed, stalled := false }

/-- The message at TAIL is discarded as a format error with every entry up to HEAD (R89). -/
def State.formatError (s : State) (r : Nat) : State := (s.consumeMsg r (s.ringFilled r)).bump P.hostMsgFmtErr 0 top32

/-- MSG_TMO_EXPIRY (R89). -/
def execMsgTmoExpiry (r : Fin 64) (s : State) : Out :=
  fin (
    match (s.ring r.val).exposed with
    | (_, t) :: _ =>
      if s.serving && commandRings.contains r.val && s.ringOn r.val && decide (s.ringFilled r.val < s.msgEntries r.val)
          && expired t (usTicks (s.reg P.hostMsgTmo 0)) s.epoch then s.formatError r.val
      else s
    | [] => s)

/-- LOST_EVENT_WRITE (R85): ring 16 has room for two messages again. -/
def execLostEventWrite (r : Fin 64) (s : State) : Out :=
  fin (if s.awake && r.val == 16 && (s.ring 16).lost != 0 && s.ringOut 16
      && decide (2 * s.entriesFor 16 28 ≤ s.ringFree 16) then s.writeLost 16 else s)

/-- NIRQ_HOLDOFF_EXPIRY (R98): nIRQ follows its condition again. -/
def execNirqHoldoffExpiry (s : State) : Out := fin s

/-! CAN FD (R100 to R103). -/

/-- A complete message enters a command ring that an interface of the device fills (R103, R455). -/
def State.pushCommand (s : State) (r : Nat) (bs : List Byte) : State :=
  let n := (bs.length + s.ringEsize r - 1) / s.ringEsize r
  if s.ringOn r && decide (n ≤ s.ringFree r) then
    (s.writeEntries r (s.ringHead r) (cutEntries (s.ringEsize r) 1024 bs)).advanceHead r ((s.ringHead r + n) % 2 ^ 16)
  else s.bump P.hostRingDrop r top32

/-- The bytes of a message without the padding of its last segment. -/
def trimMessage (bs : List Byte) : List Byte := bs.take (20 + fieldAt bs 6 2)

/-- A discarded partial message is counted (R100, R102). -/
def State.canReasmErr (s : State) : State :=
  ({ s with host := { s.host with canIn := none } }.bump P.hostCanReasmErr 0 top32).flagGstat 12

/-- The identifier is a command for this node (R101). -/
def State.canForUs (s : State) (ident : Nat) : Bool :=
  !bit ident 25 && bits ident 17 8 == s.reg P.hostCanNode 0 && bits ident 0 17 == 0

/-- CAN_FRAME_RECEIVED (R100 to R103). -/
def execCanFrameReceived (fr : CanFrame) (s : State) : Out :=
  fin (
    if !s.awake || s.reg P.hostCanEn 0 == 0 || !fr.fd || fr.remote || !s.canForUs fr.ident.toNat then s
    else match fr.data with
      | [] => s
      | c :: body =>
        let first := bit c.toNat 7
        let last := bit c.toNat 6
        let seg := c.toNat % 64
        let done (s : State) (bs : List Byte) : State :=
          { s with host := { s.host with canIn := none } }.pushCommand 6 (trimMessage bs)
        let keep (s : State) (bs : List Byte) : State :=
          { s with host := { s.host with canIn := some { bytes := bs, next := (seg + 1) % 64, stamp := s.epoch } } }
        if first then
          let s := if s.host.canIn.isSome then s.canReasmErr else s
          if seg ≠ 0 then s.canReasmErr else if last then done s body else keep s body
        else match s.host.canIn with
          | none => s.canReasmErr
          | some m =>
            if m.next ≠ seg then s.canReasmErr
            else if last then done s (m.bytes ++ body) else keep s (m.bytes ++ body))

/-- CAN_SEG_TMO_EXPIRY (R102). -/
def execCanSegTmoExpiry (s : State) : Out :=
  fin (
    match s.host.canIn with
    | some m => if s.awake && expired m.stamp (msTicks (s.reg P.hostCanSegTmo 0)) s.epoch then s.canReasmErr else s
    | none => s)

/-- CAN_BUS_OFF (R100): counted; the recovery of ISO 11898-1 follows and leaves the controller error-active. -/
def execCanBusOff (s : State) : Out :=
  fin (if s.awake && s.reg P.hostCanEn 0 == 1 then
      ({ s with host := { s.host with canPassive := false } }.bump P.hostCanBusoff 0 top32).flagGstat 12 else s)

/-- CAN_ERROR_PASSIVE (R100). -/
def execCanErrorPassive (s : State) : Out :=
  fin (if s.awake && s.reg P.hostCanEn 0 == 1 then
      { s with host := { s.host with canPassive := true } }.flagGstat 12 else s)

end Sys2Proof.Machine
end

