-- ==== Sys2Proof/Machine/Starts.lean ====
section
/-! DEFINITION. DRV_START, listens and start states (R247 to R258), DRV_STOP (R282 to R285), the end of
`soft_off` (R286) and the drive's part of the motion-wake sequence (R61, R62). -/

namespace Sys2Proof.Machine

/-- A threshold in 0.1 % of FOC.W_RATED. -/
def State.ratedW (s : State) (d permille : Nat) : F32 := F32.mul (F32.ofFrac permille 1000) (s.f P.focWRated d)

/-- The drive enters `running`, completed at its next sample boundary; `init` is its occasion of R277. -/
def State.enterRunning (s : State) (d decision init : Nat) : State :=
  (s.setPhase d .running).modDrv d (fun x =>
    { x with start := { x.start with decision := decision, pendRun := true }, foc := { x.foc with init := init },
             ecl := { x.ecl with okRun := 0, lowSince := none, useHall := true } })

/-- The start method of the drive: alignment, or Hall (R255). -/
def State.startMethod (s : State) (d : Nat) : State :=
  if s.reg P.posSrc d = 1 ∨ s.reg P.posStart d = 0 then
    (s.setPhase d .align).modDrv d (fun x => { x with start := { x.start with decision := 2 }, foc := { x.foc with init := 4 } })
  else s.enterRunning d 3 3

/-- What follows the precharge (R253). -/
def State.afterPrecharge (s : State) (d : Nat) : State :=
  if s.posValid d then s.enterRunning d 0 1
  else if (s.drv d).start.noListen then s.startMethod d
  else s.setPhase d .listen

/-- DRV_START (R252, R253, R352, R458). -/
def bodyDrvStart (s : State) (c : Cmd) (pl : List Byte) : State × Reply :=
  let d := c.inst
  if 3 < d then (s, .refuse St.badInst)
  else if pl.length ≠ 1 then (s, .refuse St.length)
  else
    let x := s.drv d
    if s.pwr.mode ≠ .full ∨ !s.computes d ∨ s.reg P.pwmTestEn d = 1 ∨ ¬ (x.phase = .stopped ∨ x.phase = .mwHold)
        ∨ s.hasReaction d ∨ s.anyForced d then (s, .refuse St.badState)
    else if s.anyUvlo then (s, .refuse St.uvlo)
    else
      let s := s.abortTests d
      let s := if s.hallDecoded d && !s.hostSteers d then s.hallCentreInit d else s
      let skip := x.phase == .mwHold
      let devs := if s.role d = 2 then (s.gangEntries d).map s.gangDev else []
      let s := (s.setPhase d .precharge).modDrv d (fun x =>
        { x with mwPre := false, mwListen := false, mwLow := false, stop := {},
                 start := { cmd := some c, noListen := bit (fieldAt pl 0 1) 0, skipPre := skip,
                            gangWait := if devs.isEmpty then none else some (s.epoch, devs), gangOn := !devs.isEmpty } })
      let anchor := s.epoch - (s.drv d).car.cnt
      let s := s.each (if s.role d = 2 then s.gangEntries d else []) (fun s j =>
        s.sendGang (s.gangDev j) d 0 (s.reg P.engSpp d) (s.reg P.pwmPeriod d) (bits (s.reg P.linkGang j) 8 4) anchor)
      let s := if skip && devs.isEmpty then s.afterPrecharge d else s
      (s, .deferred)

def execDrvStart (h : Hdr) (pl : List Byte) (s : State) : Out := runCommand h 0x1401 pl s bodyDrvStart

/-- A step that holds a fixed override has lasted a time since the override came in force. -/
def DriveSt.held (x : DriveSt) (ticks now : Nat) : Bool :=
  match x.inForce with | some t => expired t ticks now | none => false

/-- FULL is entered: every computing drive's counter starts (R49, R136). -/
def State.enterFull (s : State) (mw : Bool) : State :=
  let s := { s with pwr := { s.pwr with mode := .full, mwFull := mw } }
  s.each (List.range 4) (fun s d => s.roleTaken d)

/-- PRECHARGE_ELAPSED (R253, R61). -/
def execPrechargeElapsed (d : Fin 4) (s : State) : Out :=
  fin (
    let x := s.drv d.val
    let t := usTicks (s.reg P.gatePrecharge 0)
    if !s.awake then s
    else if x.phase = .precharge ∧ x.start.gangWait = none ∧ x.held t s.epoch = true then s.afterPrecharge d.val
    else if x.phase = .mwHold ∧ x.mwPre = true ∧ expired x.since t s.epoch then
      let s := if s.pwr.mode = .full then s else s.enterFull true
      s.modDrv d.val (fun x => { x with mwPre := false, mwListen := true, inForce := none, listen := {} })
    else s)

/-! Listens (R254, R255). -/

/-- The drive listens: every generator floats by its state, and the override is in force. -/
def DriveSt.listening (x : DriveSt) : Bool :=
  x.inForce.isSome && (x.phase == .listen || (x.phase == .stopping && x.stop.ph == StopPh.short && x.stop.listen)
    || (x.phase == .mwHold && x.mwListen))

/-- Result of a listen at R255: the start goes on. -/
def State.startListened (s : State) (d : Nat) (res : Option F32) : State :=
  let s := s.modDrv d (fun x => if x.start.listened then x else
    { x with start := { x.start with listened := true, speed := res.getD 0#32,
                                     dirBack := match res with | some w => F32.signBit w | none => false } })
  match res with
  | none => s.startMethod d
  | some w =>
    if F32.le (F32.abs w) (s.ratedW d (s.reg P.posFlyMin d)) then s.startMethod d
    else if !F32.signBit w then s.enterRunning d 1 1
    else if F32.le (F32.abs w) (s.ratedW d (s.reg P.posRevMax d)) then
      (s.setPhase d .brake).modDrv d (fun x => { x with start := { x.start with braked := true } })
    else (s.setPhase d .lossBrake).modDrv d (fun x => { x with start := { x.start with lossBraked := true }, foc := { x.foc with init := 1 } })

/-- A listen inside the short of a stop has ended: ω is its result, 0 where nothing is detectable (R284). -/
def State.stopListened (s : State) (d : Nat) (res : Option F32) : State :=
  let s := s.modDrv d (fun x => { x with stop := { x.stop with listened := true, listen := false, stepStart := s.epoch },
                                         inForce := none, listen := {},
                                         trk := match res with | some _ => x.trk | none => { x.trk with omega := 0#32 } })
  if F32.le (F32.abs (res.getD 0#32)) (s.f P.focStopSpeed d) then s.toStopped d else s

/-- A listen of the motion-wake sequence has ended (R61, R62): a drive above ASC_SPEED holds the active
short, any other keeps listening with all switches off; speed and direction are written to ring 16. -/
def State.mwListened (s : State) (d : Nat) (res : Option F32) : State :=
  let fast := match res with | some w => F32.lt (s.f P.focAscSpeed d) (F32.abs w) | none => false
  let w := res.getD 0#32
  let s := s.modDrv d (fun x => { x with mwListen := !fast, mwLow := fast, listen := {},
                                         inForce := if fast then none else some s.epoch })
  let s := if res.isSome then { s with pwr := { s.pwr with mwQuiet := s.epoch } } else s
  s.event .other (Config.mwSpeedOpcode.toNat) 0 d s.epoch (leBytes 4 w.toNat ++ leBytes 1 (F32.signBit w).toNat)

/-- A listen of drive d has ended with a speed, or with nothing detectable. -/
def State.listenEnd (s : State) (d : Nat) (res : Option F32) : State :=
  match (s.drv d).phase with
  | .listen => s.startListened d res
  | .stopping => s.stopListened d res
  | _ => s.mwListened d res

/-- Angle of a comparator edge, in twelfths of a turn (R254). -/
def zcAngle (line : Nat) (rising : Bool) : Nat :=
  match line with
  | 0 => if rising then 5 else 11
  | 1 => if rising then 9 else 3
  | _ => if rising then 1 else 7

/-- Direction of a sequence of crossings, newest first: its last step is +60° (true) or −60°. -/
def stepDir (a b : Nat) : Option Bool :=
  if (b + 2) % 12 = a then some true else if (a + 2) % 12 = b then some false else none

/-- The sequence with one more crossing (time and angle in twelfths), newest first (R254). -/
def joinCrossing (xs : List (Nat × Nat)) (x : Nat × Nat) : List (Nat × Nat) :=
  match xs with
  | [] => [x]
  | (t1, a1) :: rest =>
    match stepDir x.2 a1 with
    | none => [x]
    | some dir =>
      match rest with
      | [] => x :: xs
      | (_, a2) :: _ => if stepDir a1 a2 = some dir ∧ t1 < x.1 then x :: xs else [x]

/-- A zero crossing of drive d at `at_` fractions, which names an angle; with POS.LISTEN_EDGES of them the listen ends
with a speed (R254, R255). -/
def State.crossing (s : State) (b d at_ ang : Nat) : State :=
  let x := s.drv d
  let xs := joinCrossing x.listen.xs (at_, ang)
  let s := s.setDrv d { x with listen := ⟨xs⟩ }
  if xs.length < s.reg P.posListenEdges d then s
  else match xs, xs.getLast? with
    | (tn, an) :: (_, am) :: _, some (t1, _) =>
      let fwd := stepDir an am == some true
      let w := F32.div (F32.mul (F32.ofNat (xs.length - 1)) F32.piOver3) (secsF (tn - t1))
      let w := if fwd then w else F32.neg w
      let θ := angleAdd ((turnFrac an 12 + turn16 (s.reg P.focBrOfs b)) % 2 ^ 32) (radToTurn (F32.mul w (secsF (s.nowF - tn))))
      let s := (s.initTracker d θ w 2).modDrv d (fun x => { x with trk := { x.trk with crossAt := some s.epoch } })
      let s := if s.reg P.posSrc d = 1 then s.modDrv d (fun x => { x with trk := { x.trk with abs := true } }) else s
      s.listenEnd d (some w)
    | _, _ => s

/-- ZC_COMPARATOR_EDGE (R254): a crossing of a drive that listens; the sequence that reaches LISTEN_EDGES
ends the listen and initialises the tracker. -/
def execZcComparatorEdge (b : Fin 4) (line : Fin 3) (rising : Bool) (frac : Fin 32) (s : State) : Out :=
  fin (
    match s.ownerOf b.val with
    | none => s
    | some d =>
      let x := s.drv d
      if s.pwr.mode ≠ .full ∨ s.lowBridge d ≠ b.val ∨ x.listening = false ∨ s.underTest (b.val / 2 + 1) (18 + (3 * b.val + line.val) % 6) then s
      else s.crossing b.val d (s.nowF + frac.val) (zcAngle line.val rising))

/-- LISTEN_EXPIRY (R254): nothing detectable. -/
def execListenExpiry (d : Fin 4) (s : State) : Out :=
  fin (
    let x := s.drv d.val
    if s.pwr.mode = .full ∧ x.listening = true ∧ x.held (msTicks (s.reg P.posListen d.val)) s.epoch = true then
      (s.listenEnd d.val none).gangStop d.val
    else s)

/-- ALIGN_ELAPSED (R248). -/
def execAlignElapsed (d : Fin 4) (s : State) : Out :=
  fin (
    let x := s.drv d.val
    if s.pwr.mode = .full ∧ x.phase = .align ∧ x.stop.byAction = false
        ∧ expired x.since (msTicks (s.reg P.posAlignT d.val)) s.epoch then
      let θ := turn16 (s.reg P.posAlignAng d.val)
      let s := s.initTracker d.val θ 0#32 x.trk.evSrc
      if s.reg P.posSrc d.val = 2 then
        (s.setPhase d.val .openLoop).modDrv d.val (fun x => { x with foc := { x.foc with olTheta := θ, olW := 0#32 }, ecl := { x.ecl with okRun := 0 } })
      else
        let s := if s.reg P.posSrc d.val = 1 then s.modDrv d.val (fun x => { x with trk := { x.trk with abs := true } }) else s
        s.enterRunning d.val 2 3
    else s)

/-- OL_T_MAX_EXPIRY (R250). -/
def execOlTMaxExpiry (d : Fin 4) (s : State) : Out :=
  fin (
    let x := s.drv d.val
    if s.pwr.mode = .full ∧ x.phase = .openLoop ∧ x.start.failed = false ∧ x.stop.byAction = false ∧ expired x.since (msTicks (s.reg P.posOlTMax d.val)) s.epoch then
      (s.modDrv d.val (fun x => { x with start := { x.start with failed := true } })).report K.startFail d.val s.epoch
    else s)

/-- With source `hall` or `encoder` and VALID, ω of a short is the tracker's (R284). -/
def State.shortTracked (s : State) (d : Nat) : Bool := decide (s.reg P.posSrc d < 2) && s.posValid d

/-- ASC_STEP_EXPIRY (R255, R256, R284): a new listen. -/
def execAscStepExpiry (d : Fin 4) (s : State) : Out :=
  fin (
    let x := s.drv d.val
    let step := s.reg P.posAscStep d.val
    if s.pwr.mode ≠ .full then s
    else if x.phase = .brake ∧ x.held (msTicks step) s.epoch = true then s.setPhase d.val .listen
    else if x.phase = .lossBrake ∧ x.stop.byAction = false ∧ expired x.since (20000 * step) s.epoch then s.setPhase d.val .listen
    else if x.phase = .stopping ∧ x.stop.ph = .short ∧ x.stop.listen = false ∧ s.shortTracked d.val = false
        ∧ x.held (msTicks step) s.epoch = true then
      s.setDrv d.val { x with stop := { x.stop with listen := true }, inForce := none, listen := {} }
    else s)

/-- BRAKE_MAX_EXPIRY (R256). -/
def execBrakeMaxExpiry (d : Fin 4) (s : State) : Out :=
  fin (
    let x := s.drv d.val
    let braking := x.phase == .brake || x.phase == .lossBrake
    let spent := x.start.brakeTicks + (if braking then s.epoch - x.since else 0)
    if s.pwr.mode = .full ∧ (braking || x.phase == .listen) ∧ x.start.failed = false ∧ x.stop.byAction = false ∧ msTicks (s.reg P.posBrakeMax d.val) < spent then
      (s.modDrv d.val (fun x => { x with start := { x.start with failed := true } })).report K.flyFail d.val s.epoch
    else s)

/-! DRV_STOP (R282 to R284). -/

/-- DRV_STOP. The response `accepted` is written before the stop acts, so that a stop that ends at once
completes after it. -/
def bodyDrvStop (s : State) (c : Cmd) (pl : List Byte) : State × Reply :=
  let d := c.inst
  if 3 < d then (s, .refuse St.badInst)
  else if pl.length ≠ 1 then (s, .refuse St.length)
  else if !s.computes d then (s, .refuse St.badState)
  else if s.stopped d then (s, .ok [])
  else
    let s := (s.startDeferred c).respond c St.accepted 0xFFFF []
    let x := s.drv d
    let ramp := bit (fieldAt pl 0 1) 0 && x.phase == .running
    -- a drive action under way governs, and ends the stop that is entered beside it (R287)
    if x.stop.byAction then
      let st : StopSt := { x.stop with cmd := some c, omega0 := x.trk.omega, entry := s.epoch,
                                       ph := if ramp then .ramp else x.stop.ph, ramped := ramp }
      let s := if x.phase = .stopping then s else s.setPhase d .stopping
      (s.modDrv d (fun x => { x with stop := st }), .later)
    else
      let s := s.endStart d St.badState 0 0
      let st : StopSt := { cmd := some c, omega0 := x.trk.omega, entry := s.epoch }
      let s := (s.setPhase d .stopping).modDrv d (fun x => { x with mwPre := false, mwListen := false, mwLow := false, stop := st })
      let s := if ramp then s.modDrv d (fun x => { x with stop := { x.stop with ph := .ramp, ramped := true } }) else s.shortOrOff d
      (s.gangStop d, .later)

def execDrvStop (h : Hdr) (pl : List Byte) (s : State) : Out := runCommand h 0x1402 pl s bodyDrvStop

/-- STOP_T_MAX_EXPIRY (R283): the ramp ends. -/
def execStopTMaxExpiry (d : Fin 4) (s : State) : Out :=
  fin (
    let x := s.drv d.val
    if s.pwr.mode = .full ∧ x.phase = .stopping ∧ x.stop.ph = .ramp ∧ x.stop.soft = none
        ∧ expired x.stop.entry (msTicks (s.reg P.focStopTMax d.val)) s.epoch then
      ((s.modDrv d.val (fun x => { x with stop := { x.stop with timeout := true } })).shortOrOff d.val).gangStop d.val
    else s)

/-- SOFT_T_MAX_EXPIRY (R286): `soft_off` floats the generators and stops the drive. -/
def execSoftTMaxExpiry (d : Fin 4) (s : State) : Out :=
  fin (
    match (s.drv d.val).stop.soft with
    | some t =>
      if s.pwr.mode = .full ∧ expired t (msTicks (s.reg P.focSoftTMax d.val)) s.epoch then (s.softFloat d.val).gangStop d.val
      else s
    | none => s)

/-- MW_RELISTEN_EXPIRY (R62): a drive in active short listens again. -/
def execMwRelistenExpiry (d : Fin 4) (s : State) : Out :=
  fin (
    let x := s.drv d.val
    if s.pwr.mode = .full ∧ x.phase = .mwHold ∧ x.mwLow = true ∧ x.held (msTicks (s.reg P.pwrMwRelisten 0)) s.epoch = true then
      s.setDrv d.val { x with mwLow := false, mwListen := true, inForce := none, listen := {} }
    else s)

end Sys2Proof.Machine
end

