-- ==== Sys2Proof/Machine/Link.lean ====
section
/-! DEFINITION. The Dexlia link: ports, reception, synchronisation, enumeration, gangs and mailbox
traffic (R439 to R462). -/

namespace Sys2Proof.Machine

/-! Ports (R441, R450, R451). -/

/-- The reference is the crystal or the upstream clock (R31, R441). -/
def State.linkClock (s : State) : Bool := s.pwr.xtalRef || bit (s.reg P.linkStat 0) 1

/-- An acquisition starts: SYNC_OK is clear until it ends, and LINK_SYNC is not live in its first 64 intervals (R453). -/
def State.acquire (s : State) : State :=
  let s := (s.setBit P.linkStat 0 2 false).unlive K.linkSync 0
  { s with link := { s.link with acq := some s.epoch } }

/-- The HEAL that reaches this device at a port, or starts at it, has been carried out here (R450): a follower takes
its reference from the receive clock of its new upstream port (R451). -/
def State.healHere (s : State) : State :=
  let s := if s.isRoot then s else s.setBit P.linkStat 0 1 true
  ((s.setBit P.linkStat 0 3 true).acquire).event .other 0x5B12 0 0 s.epoch []

/-- TOPO of the present tree: 0 chain, 1 ring, 2 tree. -/
def State.topo (s : State) : Nat := bits (s.reg P.linkTopo 0) 8 2

/-- The other ring ports of a device: its ports with a tree role and its spare port, without p. -/
def State.otherRing (s : State) (p : Nat) : List Nat :=
  [0, 1, 2].filter (fun q => q != p && (s.portState q == portSpare || (s.portState q == portUp && s.portTree q != 0)))

/-- A port leaves `up` or `spare` (R441, R450); the loss is told unless a block reset of the port makes it (R16). In a
ring, the loss of a tree port is healed. -/
def State.portLost (s : State) (p : Nat) (next : Nat) (tell : Bool := true) : State :=
  let role := s.portTree p
  let was := s.portState p = portUp ∨ s.portState p = portSpare
  if ¬ was then (s.setPortState p next).setPort p { s.port p with queue := [], unacked := [], t1 := none, exchanged := false }
  else
    let s := (s.setPortState p next).setPortTree p 0
    let s := s.setPort p { s.port p with queue := [], unacked := [], t1 := none, exchanged := false }
    let s := if tell then s.report K.linkDown p s.epoch else s
    let s := if tell && next == portDown then s.bump P.linkDownCnt p top32 else s
    let s := match s.flt.inject with
      | some x => if x.waits && x.inst == p then s.endInject x St.badState false else s
      | none => s
    if s.joined && s.topo == 1 && role != 0 && !s.healed then
      let me := s.linkId
      let s := { s with link := { s.link with broken := (s.peerId p).map (fun q => (me, q)) } }
      let s := s.each (s.otherRing p) (fun s q => s.sendNeighbour q 0x04 [] none)
      let s := if role = 1 then s.each (s.otherRing p) (fun s q => (s.setPortState q portUp).setPortTree q 1) else s
      s.healHere
    else s

/-- PORT_UP (R441): trained, with one delay exchange. -/
def execPortUp (p : Fin 3) (inverted : Bool) (s : State) : Out :=
  fin (
    let st := s.portState p.val
    if s.awake && (st == portTrain || st == portDown) && s.linkClock && (s.port p.val).exchanged then
      let s := ((s.setPortState p.val portUp).setPortTree p.val 0).setBit P.linkPortStat p.val 5 inverted
      (s.setPort p.val { s.port p.val with resp := s.epoch, req := s.epoch }).unlive K.linkDown p.val
    else s)

/-- PORT_DOWN (R441). -/
def execPortDown (p : Fin 3) (s : State) : Out :=
  fin (if s.awake && (s.portState p.val == portUp || s.portState p.val == portSpare) then s.portLost p.val portDown else s)

/-- DLY_RESP_TIMEOUT (R441). -/
def execDlyRespTimeout (p : Fin 3) (s : State) : Out :=
  fin (if s.awake && (s.portState p.val == portUp || s.portState p.val == portSpare)
      && expired (s.port p.val).resp (3 * usTicks (s.reg P.linkDlyInt 0)) s.epoch then s.portLost p.val portDown else s)

/-- DLY_REQ_TIMER (R441, R452). -/
def execDlyReqTimer (p : Fin 3) (s : State) : Out :=
  fin (
    let st := s.portState p.val
    let x := s.port p.val
    let due := st = portTrain ∨ st = portDown ∨ x.req + usTicks (s.reg P.linkDlyInt 0) ≤ s.epoch
    if s.awake = true ∧ st ≠ portOff ∧ due then
      (s.setPort p.val { x with req := s.epoch }).sendNeighbour p.val 0x02 (zeros 9 ++ leBytes 8 (s.reg P.linkUid 0)) (some 0)
    else s)

/-- LINK.PORT_EN is written (R441). -/
def State.portEn (s : State) (v : Nat) : State :=
  let s := s.setReg P.linkPortEn 0 (v % 8)
  s.each [0, 1, 2] (fun s p =>
    if bit v p then (if s.portState p = portOff ∧ s.linkClock = true then
        (s.setPort p { s.port p with t1 := none, exchanged := false }).setPortState p portTrain else s)
    else s.portLost p portOff)

/-- PORT_EN_WRITE (R441). -/
def execPortEnWrite (v : BitVec 3) (s : State) : Out := fin (if s.serving then s.portEn v.toNat else s)

/-- The RC oscillator is the reference: the ports are held off (R31, R441). -/
def State.holdPorts (s : State) : State :=
  if s.linkClock then s else s.each [0, 1, 2] (fun s p => if s.portState p = portOff then s else s.portLost p portOff)

/-- UPSTREAM_CLOCK_LOSS (R451). -/
def execUpstreamClockLoss (s : State) : Out :=
  fin (if s.awake && bit (s.reg P.linkStat 0) 1 then (s.setBit P.linkStat 0 1 false).holdPorts else s)

/-- PORT_FREE (R444). -/
def execPortFree (p : Fin 3) (s : State) : Out := fin (if s.awake then s.portSend p.val else s)

/-! Reception (R443 to R448). -/

/-- Stamp of a frame's /S/ in fractions. -/
def State.frameStamp (s : State) (f : Frame) : Nat := s.nowF - f.sAgo.toNat

/-- A frame that goes on through another port. -/
def forwarded (t : Nat) (f : Frame) : OutFrame :=
  { type := t, dst := f.dst.toNat, src := f.src.toNat, ackReq := bit f.flags.toNat 3, seq := f.seq.toNat, payload := f.payload }

/-- `n` is newer than `last`, modulo 2¹⁶ within 32,768 (R447). -/
def newerSeq (n last : Nat) : Bool := decide (n ≠ last) && decide ((n + 65536 - last % 65536) % 65536 < 32768)

/-- The SEQs of the class 3 frames of this SRC and TYPE that have been accepted, the newest first, as far as they lie
within 32,768 of it (R447, R448). -/
def State.seqSeen (s : State) (t : Nat) (f : Frame) : List Nat := Smap.get (fun _ => []) s.link.seen (t * 256 + f.src.toNat)
def State.markSeq (s : State) (t : Nat) (f : Frame) : State :=
  let n := f.seq.toNat
  let l := match s.seqSeen t f with
    | [] => [n]
    | m :: r => if newerSeq n m then n :: (m :: r).filter (fun k => decide ((n + 65536 - k) % 65536 < 32768)) else m :: n :: r
  { s with link := { s.link with seen := Smap.set (fun _ => []) s.link.seen (t * 256 + f.src.toNat) l } }

/-- ACK of a frame to its source (R448). -/
def State.ackFrame (s : State) (t : Nat) (f : Frame) : State :=
  if bit f.flags.toNat 3 then s.sendTo 0x32 f.src.toNat false (leBytes 1 t ++ zeros 1 ++ leBytes 2 f.seq.toNat) else s

/-- A frame fails its check at port p (R446, R447). -/
def State.frameFail (s : State) (p : Nat) (why : FrameFault) : State :=
  match why with
  | .crc => (s.bump P.linkCrcCnt p top32).report K.linkCrc p s.epoch
  | .auth => if s.linkAuth then (s.bump P.linkAuthCnt p top32).report K.linkAuth p s.epoch else s
  | .badType => s.bump P.linkCrcCnt p top32
  | .cut => s

/-- The frame meets an injection that waits for this port's next frame: it is the access, and the frame is
rejected (R420, R421). -/
def State.injectFrame (s : State) (p : Nat) : Option State :=
  match s.flt.inject with
  | some x => if x.waits && x.inst == p then some ((s.bump P.linkCrcCnt p top32).injectAccess x) else none
  | none => none

/-- The frame is for this device, or for every device or neighbour (R444). -/
def State.frameMine (s : State) (f : Frame) : Bool :=
  f.dst.toNat == s.linkId || f.dst.toNat == 0xFF || f.dst.toNat == 0xFE

/-- A received frame goes on to the ports its DST names (R444, R445). SYNC, ENUM and JOIN, which every hop rewrites
or answers, are forwarded where they are handled, and a neighbour's frame not at all. -/
def State.forwardFrame (s : State) (t : Nat) (f : Frame) : State :=
  let p := f.port.val
  if f.dst.toNat = 0xFE ∨ t = 0x01 ∨ t = 0x40 ∨ t = 0x42 then s
  else if f.dst.toNat = 0xFF then
    s.each (s.treePorts.filter (fun q => q != p)) (fun s q => s.enqueue q (forwarded t f))
  else if f.dst.toNat = s.linkId then s
  else match s.route f.dst.toNat with
    | some q => if q = p then s else s.enqueue q (forwarded t f)
    | none => s

/-- The port takes a frame of type t: before `up` only the delay exchange, and a spare port class 0 only (R441, R450). -/
def State.portTakes (s : State) (t : Nat) (f : Frame) : Bool :=
  let st := s.portState f.port.val
  (st == portUp || st == portSpare || t == 0x02 || t == 0x03) && (st != portSpare || (frameClass t).getD 3 == 0)

/-- A frame of class 3 is no duplicate of one that was accepted; with AUTH, it must be newer than the last (R447, R448). -/
def State.frameFresh (s : State) (t : Nat) (f : Frame) : Bool := !(s.seqSeen t f).contains f.seq.toNat
def State.frameNewer (s : State) (t : Nat) (f : Frame) : Bool :=
  match s.seqSeen t f with | n :: _ => newerSeq f.seq.toNat n | [] => true

/-- The state in which a frame for this device is handled: forwarded, and in class 3 acknowledged and its SEQ kept. -/
def State.arrived (s : State) (t : Nat) (f : Frame) : State :=
  let s := s.forwardFrame t f
  if (frameClass t).getD 3 ≠ 3 then s else (s.ackFrame t f).markSeq t f

/-- A received frame of type t: rejected, forwarded, and handled where it is for this device (R444 to R448). -/
def State.receive (s : State) (t : Nat) (f : Frame) (handle : State → State) : State :=
  let p := f.port.val
  if !s.awake || s.portState p == portOff then s
  else match s.injectFrame p with
  | some s => s
  | none =>
    if !s.portTakes t f then s
    else if s.linkAuth = true ∧ bit f.flags.toNat 0 = false then s.frameFail p .auth
    else if !s.frameMine f then s.forwardFrame t f
    else if (frameClass t).getD 3 ≠ 3 then handle (s.arrived t f)
    else if s.linkAuth = true ∧ s.frameNewer t f = false then s.frameFail p .auth
    else if s.frameFresh t f then handle (s.arrived t f)
    else (s.forwardFrame t f).ackFrame t f

/-- FRAME_CRC_FAIL (R443, R446, R447). -/
def execFrameCrcFail (p : Fin 3) (why : FrameFault) (s : State) : Out :=
  fin (
    if !s.awake || s.portState p.val == portOff then s
    else match s.injectFrame p.val with
      | some s => s
      | none => s.frameFail p.val why)

/-- Field of a payload. -/
abbrev fld (f : Frame) (off n : Nat) : Nat := fieldAt f.payload off n

/-! Delay and synchronisation (R452, R453). -/

/-- A DLY_REQ is answered with both stamps; it tells the neighbour's UID (R449, R452). -/
def State.onDlyReq (s : State) (f : Frame) : State :=
  let p := f.port.val
  let s := s.setPort p { s.port p with peer := fld f 9 8 }
  s.sendNeighbour p 0x03 (stampBytes (s.frameStamp f) ++ zeros 9) (some 9)

/-- DLY_REQ (R452): answered with both stamps; it tells the neighbour's UID (R449). -/
def execDlyReq (f : Frame) (s : State) : Out := fin (s.receive 0x02 f (fun s => s.onDlyReq f))

/-- Stamp in fractions from epoch and FRAC at an offset. -/
def stampOf (f : Frame) (off : Nat) : Nat := fld f off 8 * 32 + fld f (off + 8) 1 % 32

/-- A DLY_RESP gives the link delay in fractions (R452). -/
def State.onDlyResp (s : State) (f : Frame) : State :=
  let p := f.port.val
  let x := s.port p
  match x.t1 with
  | none => s
  | some t1 =>
    let rtt : Int := (s.frameStamp f : Int) - t1 - ((stampOf f 9 : Int) - stampOf f 0)
    let d := clampInt 0 65535 (roundDiv rtt 2)
    (s.setPort p { x with t1 := none, resp := s.epoch, exchanged := true }).setReg P.linkDly p d.toNat

/-- DLY_RESP (R452): the link delay in fractions. -/
def execDlyResp (f : Frame) (s : State) : Out := fin (s.receive 0x03 f (fun s => s.onDlyResp f))

/-- SYNC of the root leaves on its tree ports, each with its own stamp (R453). -/
def State.sendSync (s : State) : State :=
  let (n, s) := s.takeSeq 0x01
  s.each s.treePorts (fun s p => s.enqueue p
    { type := 0x01, dst := 0xFF, src := s.linkId, seq := n, payload := zeros 16, stampAt := some 0 })

/-- Largest HOPS of the tree (R449, R450). -/
def State.maxHops (s : State) : Nat :=
  ((List.range s.nodeCount).map (fun n => bits (s.reg P.linkNode n) 8 8)).foldl Nat.max 0

/-- SYNC_SEND_TIMER (R453, R449 phase 5). -/
def execSyncSendTimer (s : State) : Out :=
  fin (
    if s.awake && s.isRoot && s.joined && decide (s.link.lastSync + usTicks (s.reg P.linkSyncInt 0) ≤ s.epoch) then
      let s := { s.sendSync with link := { s.sendSync.link with lastSync := s.epoch } }
      match s.link.enum with
      | some e =>
        if e.joined then
          let s := { s.setBit P.linkStat 0 4 false with link := { s.link with enum := none } }
          s.complete e.cmd St.ok 0xFFFF (leBytes 1 s.nodeCount ++ leBytes 1 s.topo ++ leBytes 1 s.maxHops ++ zeros 1 ++ leBytes 8 s.epoch)
        else s
      | none => s
    else s)

/-- The epoch steps forward by `n` ticks (R453). -/
def State.stepEpoch (s : State) (n : Nat) : State :=
  let old := s.epoch
  let s := { s with epoch := old + n }
  s.event .other 0x5B11 0 0 s.epoch (leBytes 8 old ++ leBytes 8 s.epoch)

/-- A SYNC is taken by a follower (R453). -/
def State.takeSync (s : State) (f : Frame) : State :=
  let p := f.port.val
  let root : Int := stampOf f 0 + toSigned 32 (fld f 12 4) + s.reg P.linkDly p
  let e : Int := (s.frameStamp f : Int) - root
  let s := s.setReg P.linkSyncErr 0 (ofSigned 16 (clampInt (-32768) 32767 e))
  let s := { s with link := { s.link with lastSync := s.epoch } }
  if e ≤ -32 then
    let s := (s.stepEpoch ((-e) / 32).toNat).acquire
    { s with link := { s.link with lastSync := s.epoch } }
  else
    let s := { s with link := { s.link with phase := s.link.phase + (if e < 0 then 1 else if 0 < e then -1 else 0) } }
    if e.natAbs ≤ s.reg P.linkSyncTol 0 then
      { (s.setBit P.linkStat 0 2 true).unlive K.linkSync 0 with link := { s.link with acq := none } }
    else if s.link.acq.isNone then (s.report K.linkSync 0 s.epoch).setBit P.linkStat 0 2 false
    else s

/-- A SYNC from upstream is corrected, sent on and taken (R453). -/
def State.onSync (s : State) (f : Frame) : State :=
  let p := f.port.val
  if s.isRoot || !s.joined || s.portTree p != 1 then s
  else
    let corr := toSigned 32 (fld f 12 4) + s.reg P.linkDly p
    let pl := overlay (overlay f.payload 9 (leBytes 1 (fld f 9 1 + 1))) 12 (leBytes 4 (ofSigned 32 corr))
    let s := s.each (s.treePorts.filter (fun q => q != p)) (fun s q => s.enqueue q
      { forwarded 0x01 f with payload := pl, arrived := some (s.frameStamp f) })
    s.takeSync f

/-- SYNC (R453): only from the upstream port; it goes on with the delay of that port and its residence. -/
def execSync (f : Frame) (s : State) : Out := fin (s.receive 0x01 f (fun s => s.onSync f))

/-- SYNC_MISSING_TIMEOUT (R453). -/
def execSyncMissingTimeout (s : State) : Out :=
  fin (
    let i := usTicks (s.reg P.linkSyncInt 0)
    let missing := match s.link.acq with
      | some t => expired t (64 * i) s.epoch
      | none => expired s.link.lastSync (3 * i) s.epoch
    if s.awake && s.joined && !s.isRoot && missing then (s.report K.linkSync 0 s.epoch).setBit P.linkStat 0 2 false else s)

/-- A HEAL turns the ring round at this device, once (R450). -/
def State.onHeal (s : State) (f : Frame) : State :=
  let p := f.port.val
  if !s.joined || s.topo != 1 || s.healed then s
  else
    let role := s.portTree p
    let others := s.otherRing p
    let s := s.each others (fun s q => s.sendNeighbour q 0x04 [] none)
    let spares := others.filter (fun q => s.portState q == portSpare)
    let s := if role = 1 then
        (s.setPortTree p 2).each others (fun s q => (s.setPortState q portUp).setPortTree q 1)
      else if s.portState p = portSpare then (s.setPortState p portUp).setPortTree p 2
      else s.each spares (fun s q => (s.setPortState q portUp).setPortTree q 2)
    s.healHere

/-- HEAL (R450): from above the device exchanges its roles, and a spare port becomes upstream; from below it
goes on. -/
def execHeal (f : Frame) (s : State) : Out := fin (s.receive 0x04 f (fun s => s.onHeal f))

/-! Acknowledgement (R448). -/

/-- An ACK ends the wait of the frame it names (R448). -/
def State.onAck (s : State) (f : Frame) : State :=
  s.each [0, 1, 2] (fun s p =>
    let x := s.port p
    s.setPort p { x with unacked := x.unacked.filter (fun u =>
      !(u.frame.type == fld f 0 1 && u.frame.seq == fld f 2 2 && u.frame.dst == f.src.toNat)) })

/-- ACK (R448). -/
def execAck (f : Frame) (s : State) : Out := fin (s.receive 0x32 f (fun s => s.onAck f))

/-- RETX_TMO_EXPIRY (R448). -/
def execRetxTmoExpiry (p : Fin 3) (s : State) : Out :=
  fin (
    let x := s.port p.val
    let due (u : Unacked) : Bool := expired u.at_ (usTicks (s.reg P.linkRetxTmo 0)) s.epoch
    if !s.awake then s
    else
      let again := x.unacked.filter (fun u => due u && decide (u.tries < s.reg P.linkRetxMax 0))
      let keep := x.unacked.filter (fun u => !due u || decide (u.tries < s.reg P.linkRetxMax 0))
      let s := s.setPort p.val { x with unacked := keep.map (fun u => if due u then { u with tries := u.tries + 1, at_ := s.epoch } else u) }
      s.each again (fun s u => (s.bump P.linkRetxCnt p.val top32).enqueue p.val u.frame))

/-! Mailbox traffic (R455, R456). -/

/-- A segment of a mailbox message (R444, R455, R456). -/
def State.onMbox (s : State) (f : Frame) : State :=
  let src := f.src.toNat
  let drop (s : State) : State := { s with host := { s.host with linkIn := Smap.set (fun _ => none) s.host.linkIn src none } }
  if !s.mboxIn then s.bump P.linkMboxDrop 0 top32
  else match f.payload with
    | [] => s
    | c :: body =>
      let seg := c.toNat % 64
      let held : Option Reasm := Smap.get (fun _ => none) s.host.linkIn src
      let joinedBytes : Option (List Byte) :=
        if bit c.toNat 7 then (if seg = 0 then some body else none)
        else match held with
          | some m => if m.next = seg then some (m.bytes ++ body) else none
          | none => none
      match joinedBytes with
      | none => drop s
      | some bs =>
        if bit c.toNat 6 then
          let s := drop s
          if bit (fieldAt bs 0 2) 15 then s.pushCommand 35 (trimMessage bs)
          else { s.pushCommand 32 (trimMessage bs) with
                   link := { (s.pushCommand 32 (trimMessage bs)).link with
                     cmdSrc := s.link.cmdSrc ++ [(fieldAt bs 2 2, src)] } }
        else
          let m : Option Reasm := some { bytes := bs, next := (seg + 1) % 64, stamp := s.epoch }
          { s with host := { s.host with linkIn := Smap.set (fun _ => none) s.host.linkIn src m } }

/-- MBOX (R444, R455): one segment of a message; a complete command enters ring 32, a response ring 35. -/
def execMbox (f : Frame) (s : State) : Out := fin (s.receive 0x30 f (fun s => s.onMbox f))

/-- MBOX_SEG_TIMEOUT (R444). -/
def execMboxSegTimeout (src : Byte) (s : State) : Out :=
  fin (
    match (Smap.get (fun _ => none) s.host.linkIn src.toNat : Option Reasm) with
    | some m =>
      if s.awake && expired m.stamp (msTicks 1) s.epoch then
        { s with host := { s.host with linkIn := Smap.set (fun _ => none) s.host.linkIn src.toNat none } }
      else s
    | none => s)

/-- Responses on ring 33 leave for the source of their command (R455), and reports of a member leave for the
home of its drive (R462). `n` bounds the responses. -/
def State.sendResponses (s : State) : Nat → State
  | 0 => s
  | n + 1 =>
    if s.ringFilled 33 = 0 then s
    else
      let len := 20 + leNat (Memory.readBytes s.pool (s.entryAddr 33 (s.ringTail 33) + 6) 2)
      let k := (len + s.ringEsize 33 - 1) / s.ringEsize 33
      let bs := (s.readEntries 33 (s.ringTail 33) k).take len
      let s := (s.consume 33 k).flushResponses
      let tag := fieldAt bs 2 2
      match s.link.cmdSrc.find? (fun (t, _) => t == tag) with
      | some (t, src) =>
        State.sendResponses (({ s with link := { s.link with cmdSrc := s.link.cmdSrc.erase (t, src) } }).sendMbox src bs) n
      | none => State.sendResponses s n

def State.linkFlush (s : State) : State :=
  let s := s.sendResponses 64
  let q := s.flt.troubleQ
  ({ s with flt := { s.flt with troubleQ := [] } }).each q (fun s (d, e) =>
    if s.joined then s.sendTo 0x31 (bits (s.reg P.linkHome d) 0 8) true (jbytes e) else s)

/-- TROUBLE (R462): the home writes event 0x5B10 with the SRC ID and the entry. -/
def execTrouble (f : Frame) (s : State) : Out :=
  fin (s.receive 0x31 f (fun s => s.event .other 0x5B10 0 0 s.epoch (leBytes 1 f.src.toNat ++ f.payload.take 32)))

/-- An entry for a bound host-assist ring (R456). -/
def State.onHa (s : State) (f : Frame) : State :=
  let r := fld f 0 1
  let b := s.reg P.hostHaBind r
  if 8 ≤ r ∧ r ≤ 15 ∧ bit b 2 = true ∧ bits b 8 8 = f.src.toNat ∧ s.ringOn r = true ∧ cfgDir (s.ringCfg r) = false then
    (if s.ringFree r = 0 then s.bump P.hostRingDrop r top32
     else
      let e := (f.payload.drop 4).take 16
      (s.writeEntries r (s.ringHead r) (cutEntries (s.ringEsize r) 1 e)).advanceHead r ((s.ringHead r + 1) % 2 ^ 16))
  else s.bump P.linkHaDrop 0 top32

/-- HA (R456). -/
def execHa (f : Frame) (s : State) : Out := fin (s.receive 0x20 f (fun s => s.onHa f))

/-! Enumeration (R449). -/

/-- A `home` or `member` drive is not stopped. -/
def State.gangBusy (s : State) : Bool := (List.range 4).any (fun d => (s.role d == 2 || s.role d == 3) && !s.stopped d)

/-- LINK_ENUM (R449). -/
def bodyLinkEnum (s : State) (c : Cmd) (pl : List Byte) : State × Reply :=
  let ups := [0, 1, 2].filter (fun p => s.portState p == portUp)
  if pl.length ≠ 0 then (s, .refuse St.length)
  else if s.isRoot = false ∨ ups = [] then (s, .refuse St.badState)
  else if (List.range 4).any (fun d => !s.stopped d) then (s, .refuse St.driveRunning)
  else
    let (n, s) := s.takeSeq 0x40
    let s := s.each ups (fun s p => s.enqueue p
      { type := 0x40, dst := 0xFF, src := s.linkId, seq := n, payload := zeros 4 ++ leBytes 8 (s.reg P.linkUid 0) })
    ({ s.setBit P.linkStat 0 4 true with link := { s.link with enum := some { cmd := c, start := s.epoch } } }, .deferred)

def execLinkEnum (h : Hdr) (pl : List Byte) (s : State) : Out := runCommand h 0x1B01 pl s bodyLinkEnum

/-- An ENUM is sent on and answered (R449 phase 1). -/
def State.onEnum (s : State) (f : Frame) : State :=
  let p := f.port.val
  let key := (fld f 4 8, f.seq.toNat)
  let seen := match s.link.enumSeen with | some (u, q, _) => (u, q) == key | none => false
  if s.isRoot || seen then s
  else
    let s := { s with link := { s.link with enumSeen := some (key.1, key.2, p) } }
    let hops := fld f 0 1 + 1
    let ups := [0, 1, 2].filter (fun q => q != p && s.portState q == portUp)
    let s := s.each ups (fun s q => s.enqueue q { forwarded 0x40 f with payload := overlay f.payload 0 (leBytes 1 hops) })
    let peer (q : Nat) : Nat := if s.portState q = portUp ∨ s.portState q = portSpare then (s.port q).peer else 0
    let (n, s) := s.takeSeq 0x41
    let pl := leBytes 8 (s.reg P.linkUid 0) ++ zeros 9 ++ leBytes 1 p ++ leBytes 1 hops ++ leBytes 1 s.gangBusy.toNat
      ++ ((List.range 3).map (fun q => leBytes 8 (peer q))).flatten
    s.enqueue p { type := 0x41, dst := 0, src := s.linkId, seq := n, stampAt := some 8, payload := pl }

/-- ENUM (R449 phase 1). -/
def execEnum (f : Frame) (s : State) : Out := fin (s.receive 0x40 f (fun s => s.onEnum f))

/-- ENUM_REPLY (R449 phase 2): collected by the root, sent on upstream by another device. Its SRC may be 0xFF for
several devices, so that it is told apart by its UID and its SEQ is not tested (assumption log 70). -/
def execEnumReply (f : Frame) (s : State) : Out :=
  fin (
    if !s.awake || s.portState f.port.val == portOff then s
    else match s.injectFrame f.port.val with
    | some s => s
    | none =>
      if !s.portTakes 0x41 f then s
      else if s.linkAuth = true ∧ bit f.flags.toNat 0 = false then s.frameFail f.port.val .auth
      else if s.isRoot then
        match s.link.enum with
        | some e =>
          if e.joined || e.replies.any (fun r => r.uid == fld f 0 8) then s
          else
            let r : EnumReply :=
              { uid := fld f 0 8, epoch := fld f 8 8 + s.reg P.linkDly f.port.val / 32, up := fld f 17 1, hops := fld f 18 1,
                busy := fld f 19 1 != 0, peers := [fld f 20 8, fld f 28 8, fld f 36 8], at_ := s.epoch }
            { s with link := { s.link with enum := some { e with replies := e.replies ++ [r] } } }
        | none => s
      else match s.link.enumSeen with
        | some (_, _, up) => if up = f.port.val then s else s.enqueue up (forwarded 0x41 f)
        | none => s)

/-- UID of the parent of a reply: its neighbour on its UP port. -/
def EnumReply.parent (r : EnumReply) : Nat := r.peers.getD r.up 0

/-- The replies in the order of HOPS, then of UID (R449 phase 3). -/
def sortReplies (l : List EnumReply) : List EnumReply :=
  l.foldl (fun acc r =>
    let before (q : EnumReply) : Bool := q.hops < r.hops || (q.hops == r.hops && q.uid < r.uid)
    acc.takeWhile before ++ [r] ++ acc.dropWhile before) []

/-- IDs of the devices: UID and ID pairs, the root first (R449 phase 3). -/
def assignIds (rootUid : Nat) (old : List (Nat × Nat)) (rs : List EnumReply) : List (Nat × Nat) :=
  let kept := rs.filterMap (fun r => old.find? (fun (u, i) => u == r.uid && i != 0))
  (sortReplies rs).foldl (fun acc r =>
    if kept.any (fun (u, _) => u == r.uid) then acc
    else
      let used := acc.map (·.2)
      acc ++ [(r.uid, ((List.range 256).find? (fun i => !used.contains i)).getD 255)]) ((rootUid, 0) :: kept)

/-- Number of the ID of a UID; 0xFF for none. -/
def idOf (ids : List (Nat × Nat)) (u : Nat) : Nat := match ids.find? (fun (v, _) => v == u) with | some (_, i) => i | none => 0xFF

/-- Links of an enumeration: every pair of neighbours once, as UIDs, upstream links and spare links. -/
def enumLinks (rootUid : Nat) (rootPeers : List Nat) (rs : List EnumReply) : List (Nat × Nat) × List (Nat × Nat) :=
  let uids := rootUid :: rs.map (·.uid)
  let up := rs.map (fun r => (r.uid, r.parent))
  let all := ((rootPeers.map (fun v => (rootUid, v))) ++ (rs.map (fun r => r.peers.map (fun v => (r.uid, v)))).flatten).filter
    (fun (u, v) => v != 0 && uids.contains v)
  let spare := all.filter (fun (u, v) => u < v && !up.contains (u, v) && !up.contains (v, u))
  (up, spare.eraseDups)

/-- TOPO of the links: 0 chain, 1 ring, 2 tree; none for another topology (R449). -/
def topoOf (rootUid : Nat) (rs : List EnumReply) (up spare : List (Nat × Nat)) : Option Nat :=
  let deg (u : Nat) : Nat := ((up ++ spare).filter (fun (a, b) => a == u || b == u)).length
  let uids := rootUid :: rs.map (·.uid)
  if spare.length = 1 ∧ uids.all (fun u => deg u == 2) = true then some 1
  else if spare ≠ [] then none
  else if uids.all (fun u => decide (deg u ≤ 2)) then some 0
  else if uids.all (fun u => decide ((up.filter (fun (_, b) => b == u)).length ≤ 2)) then some 2
  else none

/-- LINK.NODE of every ID from the parents (R450, R465): HOPS is NODES − 1 in a ring, else the distance. -/
def State.setNodes (s : State) (nodes topo : Nat) (parents : List Nat) : State :=
  let s := s.each (List.range 256) (fun s n =>
    if n = 0 ∨ parents.getD n 0xFF ≠ 0xFF then s.setReg P.linkNode n (parents.getD n 0xFF + 2 ^ 31) else s.setReg P.linkNode n 0xFF)
  let s := s.setReg P.linkTopo 0 (nodes + topo * 256)
  let ls := s.treeLinks
  let dist (n : Nat) : Nat := ((List.range 255).find? (fun k => reaches ls n (k + 1) [] [s.linkId])).getD 0
  let valid := (List.range nodes).filter (fun n => bit (s.reg P.linkNode n) 31)
  s.each valid (fun s n =>
    s.setReg P.linkNode n (putBits (s.reg P.linkNode n) 8 8 (if topo = 1 then (if n = s.linkId then 0 else valid.length - 1) else dist n)))

/-- The enumeration ends without a JOIN. -/
def State.enumFails (s : State) (e : EnumSt) (status : Nat) : State :=
  ({ s.setBit P.linkStat 0 4 false with link := { s.link with enum := none } }).complete e.cmd status 0xFFFF []

/-- Phases 2 to 4 of R449 on the root. -/
def State.enumJoin (s : State) (e : EnumSt) : State :=
  let uid := s.reg P.linkUid 0
  let rootPeers := [0, 1, 2].map (fun p => if s.portState p = portUp ∨ s.portState p = portSpare then (s.port p).peer else 0)
  let (up, spare) := enumLinks uid rootPeers e.replies
  if e.replies.any (·.busy) then s.enumFails e St.busy
  else match topoOf uid e.replies up spare with
    | none => s.enumFails e St.range
    | some topo =>
      let ids := assignIds uid s.link.ids e.replies
      let nodes := (ids.map (fun (_, i) => i + 1)).foldl Nat.max 1
      let uidOf (i : Nat) : Nat := ((ids.find? (fun (_, j) => j == i)).map (fun (u, _) => u)).getD 0
      let parent (i : Nat) : Nat := ((e.replies.find? (fun r => r.uid == uidOf i)).map (fun r => idOf ids r.parent)).getD 0xFF
      let sparePeer (i : Nat) : Nat := ((spare.find? (fun (a, b) => a == uidOf i || b == uidOf i)).map
        (fun (a, b) => idOf ids (if a == uidOf i then b else a))).getD 0xFF
      let parents := (List.range nodes).map parent
      -- phase 4: the root's epoch, its own tables, then the JOINs
      let top := (e.replies.map (fun r => r.epoch + (s.epoch - r.at_))).foldl Nat.max 0
      let s := if s.epoch < top + 2000 then s.stepEpoch (top + 2000 - s.epoch) else s
      let s := ((s.setReg P.linkId 0 0).setBit P.linkStat 0 0 true).setBit P.linkStat 0 3 false
      let s := (s.setBit P.timeEpochFlags 0 0 true).setBit P.linkStat 0 2 true
      let spares := (List.range nodes).foldl (fun m i => Smap.set (fun _ => 0xFF) m i (sparePeer i)) []
      let s := { s with link := { s.link with ids := ids, broken := none, spare := spares } }
      let s := s.setNodes nodes topo parents
      let s := s.each [0, 1, 2] (fun s p =>
        if s.portState p = portUp ∨ s.portState p = portSpare then
          let child := e.replies.any (fun r => r.uid == (s.port p).peer && r.parent == uid)
          if child then (s.setPortState p portUp).setPortTree p 2 else (s.setPortState p portSpare).setPortTree p 0
        else s)
      let tail := ((List.range nodes).map (fun i => leBytes 1 (parent i) ++ leBytes 1 (sparePeer i))).flatten
      let s := s.each ids (fun s (u, i) => s.broadcast 0x42
        (leBytes 8 u ++ leBytes 1 i ++ leBytes 1 nodes ++ leBytes 1 topo ++ zeros 1 ++ tail))
      { s with link := { s.link with enum := some { e with joined := true } } }

/-- ENUM_COLLECT_END (R449). -/
def execEnumCollectEnd (s : State) : Out :=
  fin (
    match s.link.enum with
    | some e => if s.awake && !e.joined && expired e.start (msTicks 2) s.epoch then s.enumJoin e else s
    | none => s)

/-- A JOIN names the tree; the device it is for joins (R449 phase 3). -/
def State.onJoin (s : State) (f : Frame) : State :=
  let p := f.port.val
  let others := [0, 1, 2].filter (fun q => q != p && (s.portState q == portUp))
  let s := s.each others (fun s q => s.enqueue q (forwarded 0x42 f))
  let u := fld f 0 8
  let i := fld f 8 1
  let s := { s with link := { s.link with ids := (s.link.ids.filter (fun (v, j) => v != u && j != i)) ++ [(u, i)] } }
  if s.isRoot || u != s.reg P.linkUid 0 then s
  else
    let nodes := fld f 9 1
    let topo := fld f 10 1
    let parents := (List.range nodes).map (fun n => fld f (12 + 2 * n) 1)
    let s := (s.setReg P.linkId 0 i).setReg P.linkStat 0 (((s.reg P.linkStat 0 ||| 3) &&& 0x17))
    let s := s.setBit P.timeEpochFlags 0 1 true
    let spares := (List.range nodes).foldl (fun m n => Smap.set (fun _ => 0xFF) m n (fld f (13 + 2 * n) 1)) []
    let s := { s with link := { s.link with broken := none, spare := spares } }
    let s := s.setNodes nodes topo parents
    let upPort := match s.link.enumSeen with | some (_, _, q) => q | none => p
    let sp := fld f (13 + 2 * i) 1
    let s := s.each [0, 1, 2] (fun s q =>
      if s.portState q ≠ portUp ∧ s.portState q ≠ portSpare then s
      else if q = upPort then (s.setPortState q portUp).setPortTree q 1
      else if sp < nodes ∧ s.peerId q = some sp then (s.setPortState q portSpare).setPortTree q 0
      else (s.setPortState q portUp).setPortTree q 2)
    let s := s.acquire
    { s with link := { s.link with lastSync := s.epoch } }

/-- JOIN (R449, R450, R451): sent on once on every other port; matched by UID. -/
def execJoin (f : Frame) (s : State) : Out := fin (s.receive 0x42 f (fun s => s.onJoin f))

/-! Drives across devices (R458, R460, R461). -/

/-- A GANG starts or stops a member drive (R458). -/
def State.onGang (s : State) (f : Frame) : State :=
  let hdrv := fld f 0 1
  let src := f.src.toNat
  let member := (List.range 4).find? (fun d => s.role d == 3 && bits (s.reg P.linkHome d) 0 8 == src && bits (s.reg P.linkHome d) 8 2 == hdrv)
  let answer (s : State) (st d : Nat) : State :=
    s.sendTo 0x44 src true (leBytes 1 hdrv ++ leBytes 1 st ++ leBytes 1 d ++ zeros 1)
  match member with
  | none => answer s 1 0
  | some d =>
    if fld f 1 1 = 1 then
      let s := s.modDrv d (fun x => { x with car := { x.car with floatNext := true } })
      if s.stopped d then answer s 0 d else answer (s.toStopped d) 0 d
    else if bridgesOf (s.reg P.sysDrvMap d) ≠ fld f 6 1 then answer s 2 d
    else if s.pwr.mode ≠ .full ∨ s.anyUvlo = true then answer s 3 d
    else if s.hasReaction d then answer s 4 d
    else
      let per := fld f 4 2
      let anchor := fld f 8 8
      let cnt := ((((s.epoch : Int) - anchor) % (Nat.max per 1 : Nat))).toNat
      let s := (s.setReg P.pwmPeriod d per).setReg P.engSpp d (fld f 2 1)
      let s := (s.setPhase d .running).modDrv d (fun x => { x with car := { x.car with
        run := true, waitPulse := false, cnt := cnt, per := per, len := per, half := per / 2, spp := fld f 2 1, corr := 0 } })
      let s := { s with link := { s.link with dutyRun := Smap.set (fun _ => 0) s.link.dutyRun d 0 } }
      answer s 0 d

/-- GANG (R458): the member's answer, its start or its stop. -/
def execGang (f : Frame) (s : State) : Out := fin (s.receive 0x43 f (fun s => s.onGang f))

/-- A GANG_ACK of a member (R458). -/
def State.onGangAck (s : State) (f : Frame) : State :=
  let d := fld f 0 1 % 4
  match (s.drv d).start.gangWait with
  | none => s
  | some (t, devs) =>
    if fld f 1 1 ≠ 0 ∨ expired t (msTicks 1) s.epoch = true then s
    else
      let left := devs.filter (fun v => v != f.src.toNat)
      if left ≠ [] then s.modDrv d (fun x => { x with start := { x.start with gangWait := some (t, left) } })
      else
        let s := s.modDrv d (fun x => { x with since := s.epoch, inForce := none, start := { x.start with gangWait := none } })
        if (s.drv d).start.skipPre then s.afterPrecharge d else s

/-- GANG_ACK (R458): the home goes on once every member has answered ok. -/
def execGangAck (f : Frame) (s : State) : Out := fin (s.receive 0x44 f (fun s => s.onGangAck f))

/-- GANG_ACK_TIMEOUT (R458). -/
def execGangAckTimeout (d : Fin 4) (s : State) : Out :=
  fin (
    match (s.drv d.val).start.gangWait with
    | some (t, _) =>
      if s.awake && expired t (msTicks 1) s.epoch then ((s.endStart d.val St.badState 0 0).toStopped d.val).gangStop d.val else s
    | none => s)

/-- Member devices of a home drive. -/
def State.members (s : State) (d : Nat) : List Nat := ((s.gangEntries d).map s.gangDev).eraseDups

/-- A report of a member for the boundary P in progress has been accepted. -/
def State.reportOf (s : State) (dev d : Nat) : Option (Nat × List Byte) := Smap.get (fun _ => none) s.link.reports (4 * dev + d)
def State.reportIn (s : State) (dev d : Nat) : Bool :=
  match s.reportOf dev d with
  | some (_, pl) => fieldAt pl 0 4 == (s.drv d).foc.boundary % 2 ^ 32
  | none => false

/-- The offset of the block of bridge b in a REPORT, where it holds one (R459). -/
def reportBlock (pl : List Byte) (b : Nat) : Option Nat :=
  ((List.range 4).map (fun k => 16 + 40 * k)).find? (fun o => decide (o + 40 ≤ pl.length) && fieldAt pl o 1 == b)

/-- The value of phase i in the two records of a block: the combined value, its counted samples and the tick of its last
window (R459). -/
def reportPhase (pl : List Byte) (o i : Nat) : Option (F32 × Nat × Nat) :=
  firstSome ([o + 8, o + 24].map (fun a =>
    if bit (fieldAt pl (a + 14) 1) 0 then
      match vecPhase (fieldAt pl (a + 12) 1) with
      | some (j, pos) =>
        if j = i then
          let v : F32 := BitVec.ofNat 32 (fieldAt pl (a + 8) 4)
          some (if pos then v else F32.neg v, fieldAt pl (a + 13) 1, fieldAt pl a 8)
        else none
      | none => none
    else none))

/-- The set of bridge b of entry j at a run: as reported, or `predicted` where the report is late or missing (R460).
The bus voltage is the last one reported. -/
def State.remoteSet (s : State) (d : Nat) (r : Run) (j b : Nat) : SetIn :=
  let dev := s.gangDev j
  let key := 16 + 4 * j + b
  let θ := r.regs.setAngle key b r.theta
  let full := r.regs.fullScale (s.lowBridge d)
  let h := (s.drv d).foc.set key
  match s.reportOf dev d with
  | none => SetIn.fill { key := key, bridge := b, status := Stat.predicted } h full θ
  | some (_, pl) =>
    match reportBlock pl b with
    | none => SetIn.fill { key := key, bridge := b, status := Stat.predicted } h full θ
    | some o =>
      let vb : F32 := BitVec.ofNat 32 (fieldAt pl (o + 4) 4)
      if s.reportIn dev d then
        let (u, v, w) := completeThird (reportPhase pl o 0) (reportPhase pl o 1) (reportPhase pl o 2)
        SetIn.fill { key := key, bridge := b, status := fieldAt pl (o + 1) 1 % 8, iu := u, iv := v, iw := w, vbus := vb } h full θ
      else SetIn.fill { key := key, bridge := b, status := Stat.predicted, vbus := vb } h full θ

/-- The wait of a home drive's run ends on this tick: its input stage takes the remote sets (R460). -/
def State.homeReady (s : State) (d at_ : Nat) : State :=
  match (s.drv d).foc.run with
  | none => s
  | some r =>
    let remote := ((s.gangEntries d).map (fun j => (s.gangBridges j).map (s.remoteSet d r j))).flatten
    let r := { r with ready := true, readyAt := at_, sets := r.sets ++ remote }
    (s.modDrv d (fun x => { x with foc := { x.foc with run := some r } })).countMiss d r.sets

/-- A REPORT of a member for the boundary under way (R460, R461). -/
def State.onReport (s : State) (f : Frame) : State :=
  let d := fld f 4 1 % 4
  let dev := f.src.toNat
  let p := (s.drv d).foc.boundary
  let age := toSigned 32 ((fld f 0 4 + 2 ^ 32 - p % 2 ^ 32) % 2 ^ 32)
  if s.role d ≠ 2 ∨ (s.members d).contains dev = false then s
  else if age < 0 ∨ (age = 0 ∧ expired p (s.reg P.linkWait d) s.epoch = true) then s
  else
    let k := 4 * dev + d
    let act := bits (fld f 5 1) 0 2
    let old := Smap.get (fun _ => 0) s.link.acts k
    let low := ((s.members d).filterMap (fun v => if v = dev then some (F32.ofFrac (fld f 6 2) 32768)
      else (s.reportOf v d).map (fun (_, pl) => F32.ofFrac (fieldAt pl 6 2) 32768))).foldl F32.min F32.one
    let s := { s with
      link := { s.link with reports := Smap.set (fun _ => none) s.link.reports k (some (s.epoch, f.payload)),
                            acts := Smap.set (fun _ => 0) s.link.acts k act },
      therm := { s.therm with member := Smap.set (fun _ => none) s.therm.member d (some low) } }
    let s := if act ≠ old then s.registerAction act d 0 else s
    let s := match (s.drv d).foc.run with
      | some r => if !r.ready && (s.members d).all (fun v => s.reportIn v d) then
          let s := s.homeReady d s.epoch
          { s with link := { s.link with lateRun := Smap.set (fun _ => 0) s.link.lateRun d 0 } }
        else s
      | none => s
    s.regen (s.reg P.busGroup (s.lowBridge d))

/-- REPORT (R460). -/
def execReport (f : Frame) (s : State) : Out := fin (s.receive 0x10 f (fun s => s.onReport f))

/-- REPORT_WAIT_EXPIRY (R460): the wait for the reports of boundary P ends. -/
def execReportWaitExpiry (d : Fin 4) (s : State) : Out :=
  fin (
    let x := s.drv d.val
    match x.foc.run with
    | some r =>
      if s.pwr.mode == .full && s.role d.val == 2 && !r.ready && expired r.boundary (s.reg P.linkWait d.val) s.epoch then
        let missing := (s.members d.val).filter (fun v => !s.reportIn v d.val)
        let s := s.homeReady d.val (r.boundary + s.reg P.linkWait d.val)
        if missing = [] then s
        else
          let s := s.bumpBy P.linkRepLate d.val top32 missing.length
          let n := Smap.get (fun _ => 0) s.link.lateRun d.val + 1
          let hit := n = s.reg P.linkLateMax 0
          let s := { s with link := { s.link with lateRun := Smap.set (fun _ => 0) s.link.lateRun d.val (if hit then 0 else n) } }
          if hit then s.report K.linkLate d.val s.epoch else s
      else s
    | none => s)

/-- The set of one bridge block moves the edges of a phase: its compares do not lie as R280 gives those of an unshifted
phase (R217, assumption log 107). `first` says that it governs the first interval of a period. -/
def Carrier.blockShifted (c : Carrier) (f : Frame) (o : Nat) (first : Bool) : Bool :=
  let h := 32 * (c.per / 2)
  let k := 32 * c.per - h
  first && [0, 1, 2].any (fun i =>
    let w := fld f (o + 4 + 8 * i) 4
    let a := w % 2 ^ 21
    let b := fld f (o + 8 + 8 * i) 4 % 2 ^ 21
    bits w 21 2 == 0 && !isNever c.per a && !isNever c.per b &&
      (if c.spp = 2 then a + b != 32 * c.per else decide (2 * h < ((h * (b - h) : Nat) - (k * (h - a) : Nat) : Int).natAbs)))

/-- DUTY (R461): the shadows of the member drive and its commit flag. A fixed override of the drive's own state stays
(R462). -/
def State.takeDuty (s : State) (d : Nat) (f : Frame) : State :=
  let blocks := (List.range (fld f 6 1)).map (fun k => 8 + 28 * k)
  let mine := blocks.filter (fun o => fld f o 1 == s.linkId && (s.bridges d).contains (fld f (o + 1) 1))
  let own := s.fixedOvr d
  let s := s.shadowWrite d (fun s => s.each mine (fun s o =>
    let b := fld f (o + 1) 1
    s.each [0, 1, 2] (fun s i =>
      let w0 := fld f (o + 4 + 8 * i) 4
      let w1 := fld f (o + 8 + 8 * i) 4
      s.modGen (3 * b + i) (fun x => { x with shA := w0 % 2 ^ 21, shOvr := own.getD (bits w0 21 2), shB := w1 % 2 ^ 21 }))))
  let c := (s.drv d).car
  let mask (p : Nat → Bool) : Nat := mine.foldl (fun m o => if p o then putBit m (fld f (o + 1) 1) true else m) 0
  let isComp (o : Nat) : Bool := bit (fld f (o + 2) 1) 0
  let sh := mask (fun o => isComp o || c.blockShifted f o (c.spp == 1 || decide (c.half ≤ c.cnt)))
  let s := s.modDrv d (fun x => { x with asc := bit (fld f 5 1) 0, foc := { x.foc with compNext := mask isComp, shNext := sh, eclNext := false } })
  let s := { s with link := { s.link with dutyIn := Smap.set (fun _ => false) s.link.dutyIn d true } }
  s.setCommit d

/-- A DUTY of the home (R461): its shadows where it comes in time, else it is late. -/
def State.onDuty (s : State) (f : Frame) : State :=
  match (List.range 4).find? (fun d => s.role d == 3 && bits (s.reg P.linkHome d) 0 8 == f.src.toNat
      && bits (s.reg P.linkHome d) 8 2 == fld f 4 1 % 4) with
  | none => s
  | some d =>
    if inTime32 (s.epoch % 2 ^ 32) ((fld f 0 4 + 2 ^ 32 - s.reg P.engLoadMargin 0) % 2 ^ 32) then s.takeDuty d f
    else s.bump P.linkDutyLate d top32

/-- DUTY (R461). -/
def execDuty (f : Frame) (s : State) : Out := fin (s.receive 0x11 f (fun s => s.onDuty f))

end Sys2Proof.Machine
end

