-- ==== Sys2Proof/Machine/Access.lean ====
section
/-! DEFINITION. Host access to the parameters: what a read returns, which checks a write passes, and the point
at which a written value governs (R4 to R11, R41 to R43, R93 to R95, R113, R303, R310, R524). -/

namespace Sys2Proof.Machine

/-! Reads. -/

/-- Key of the table entry that ENG.RC_TAB[i] names on a page (R310). -/
def rcKey (page i : Nat) : Nat := (page / 4 % 8) * 256 + (page % 4) * 64 + i
/-- RC_PAGE of ENG.VIEW of an interface. -/
def State.rcPage (s : State) (iface : Nat) : Nat := bits (s.reg P.engView iface) 0 5
/-- An entry of the repetitive-controller tables. -/
def State.rcEntry (s : State) (key : Nat) : Nat := Smap.get (fun _ => 0) s.rcTab key
def State.setRc (s : State) (key v : Nat) : State := { s with rcTab := Smap.set (fun _ => 0) s.rcTab key v }

/-- ACTION of FOC.STAT: the action that the drive carries out, or else the governing one of those in force or
registered (R286, R287); an action of R363 has no record. -/
def State.shownAction (s : State) (d : Nat) : Nat :=
  let x := s.drv d
  let pend := match x.pendAct with | some (a, _, _) => a | none => 0
  let a := s.action d
  if x.stop.byAction && x.stop.ph == StopPh.short then 2
  else if pend = 2 ∨ a = 2 then 2
  else if x.stop.soft.isSome || pend == 1 then 1
  else a

/-- FOC.STAT[d]: the flags of the last run, with the ASC flag, the governing action and the stop phase as they
stand; SECTOR reads 0 when the drive is not switching. -/
def State.focStatView (s : State) (d : Nat) : Nat :=
  let v := s.reg P.focStat d
  let x := s.drv d
  let switching := (s.fixedOvr d).isNone && s.pwr.mode == .full
  let ph := match x.stop.ph with | .none => 0 | .ramp => 1 | .short => 2 | .off => 3
  (v &&& 0x6F) + x.asc.toNat * 16 + s.shownAction d * 256 + (if switching then bits v 10 3 * 1024 else 0) + ph * 8192

/-- ENG.CAP_STAT[d]. -/
def State.capStatView (s : State) (d : Nat) : Nat :=
  match (s.drv d).foc.cap with
  | some c => (!c.active && c.ended.isNone).toNat + c.active.toNat * 2 + (c.kind % 2) * 4
  | none => 0

/-- TIME.REF_STAT. -/
def State.refStat (s : State) : Nat := (!s.pwr.xtalRef).toNat + s.awake.toNat * 2 + s.pwr.xtalOk.toNat * 4

/-- PWR.STATE. -/
def State.pwrStateView (s : State) : Nat := (if s.pwr.mode = .full then 3 else 2) + s.pwr.mwFull.toNat * 4

/-- A swap of drive d is pending, sent alone or in an accepted commit (R304). -/
def State.swapPending (s : State) (d : Nat) : Bool :=
  (s.drv d).foc.swap.isSome || s.txn.waiting.any (fun w => match w.item with | .swap e _ => e == d | _ => false)

/-- The value of a parameter that a host on interface `k` sees, for those that reading does not change. A
value that the state implies is computed from it; every other one stands in its register. -/
def State.view (s : State) (k id i : Nat) : Nat :=
  if id = P.timeEpoch then s.epoch % 2 ^ 64
  else if id = P.timeRefStat then s.refStat
  else if id = P.hostRingCfg then (if internalRing i then internalCfg i else s.reg id i)
  else if id = P.pwrState then s.pwrStateView
  else if id = P.pwrELevel then s.eLevel
  else if id = P.pwrTaskPend then s.taskPend
  else if id = P.hostGstat then s.gstat
  else if id = P.txnStat then (s.txnOf i).pairs.length + (s.txnOf i).isOpen.toNat * 2 ^ 15
  else if id = P.pwmUpdStat then s.updStat i
  else if id = P.pwmForceStat then s.forceStat i
  else if id = P.shuntTMinWin then s.r.tMinWin i
  else if id = P.shuntMMax then s.r.mMax i
  else if id = P.posEvEpoch then (s.drv i).trk.tp / 32
  else if id = P.posStat then s.posStatView i
  else if id = P.focStat then s.focStatView i
  else if id = P.engBank then s.reg id i % 2 + (s.swapPending i).toNat * 2
  else if id = P.engLoad then s.r.engLoad
  else if id = P.engLaneLoad then s.r.laneLoad i
  else if id = P.engCapStat then s.capStatView i
  else if id = P.engRcTab then s.rcEntry (rcKey (s.rcPage k) i)
  else if id = P.gateStat then s.gateStat (i - 1)
  else if id = P.gateChStat then s.chStat i
  else if id = P.gateBrStat then s.brStat i

  else if id = P.busStat then s.busStat i
  else if id = P.busChopStat then s.chopStat i
  else if id = P.thermITherm then (s.iTherm i).toNat
  else if id = P.fltSum then s.fltSum
  else if id = P.fltJnlStat then s.jnlStat
  else if id = P.fltJnlSeq then s.flt.seq % 2 ^ 32
  else if id = P.fltMirrorNext then s.flt.mirrorCount % 64
  else if id = P.fltPenOpen then Nat.min 255 s.flt.pens.length
  else if id = P.chkResult then s.chkResult i

  else if id = P.secKeyRd then s.keyWord (i / 8) (i % 8)
  else if id = P.secKeyStat then s.keyStat
  else if id = P.perfStat then s.perfStat
  else if id = P.perfOvf then s.reg id i ||| s.wrapMask i
  else if isBanked id && bit (s.reg P.engView k) 5 then s.r.getInactive id i
  else s.reg id i

/-- A parameter's value as read: a WO parameter reads 0 (R8), SEC.RNG draws fresh bits (R484), the level
of a GPIO that is not driven is outside the device (R521), and so is a bootstrap's while GH is off, or held off after
its low side has been on (R333, R357). -/
def State.readParam (s : State) (k : Nat) (row : ParamRow) (i : Nat) : State × Nat :=
  if row.access = .wo then (s, 0)
  else if row.id = P.secRng then let (v, s) := s.draw; (s, v.toNat)
  else if row.id = P.sysGpioIn then
    let (f, s) := s.takeFree
    let dir := s.reg P.sysGpioDir 0
    (s, (s.reg P.sysGpioOut 0 &&& dir) ||| (f.toNat % 256 &&& (255 - dir)))
  else if row.id = P.gateChStat && !s.bstKnown i then
    let (f, s) := s.takeFree
    (s, s.chStat i + f.toNat % 2)
  else (s, s.view k row.id i)

/-! 64-bit values (R41 to R43). -/

/-- Address of a value in a snapshot. -/
def snapAddr (id i : Nat) : Nat := id * 256 + i

/-- A low-word read on interface k: the high word of the same tick goes to the snapshot. -/
def State.lowRead (s : State) (k : Nat) (row : ParamRow) (i : Nat) : State × Nat :=
  let (s, v) := s.readParam k row i
  (s.setSnap k { s.snap k with addr := some (snapAddr row.id i), hi := v / 2 ^ 32, fresh := true }, v % 2 ^ 32)

/-- A high-word read on interface k. -/
def State.highRead (s : State) (k : Nat) (row : ParamRow) (i : Nat) : State × Nat :=
  let x := s.snap k
  if x.addr = some (snapAddr row.id i) then
    (if x.fresh then (s.setSnap k { x with fresh := false }, x.hi)
     else (s.setBit P.timeSnapStat k 0 true, x.hi))
  else
    let (s, v) := s.readParam k row i
    (s.setBit P.timeSnapStat k 0 true, v / 2 ^ 32)

/-- A whole read on interface k: of a 64-bit value, a low-word read and a high-word read (R42). -/
def State.readWhole (s : State) (k : Nat) (row : ParamRow) (i : Nat) : State × Nat :=
  if paramSize row = 8 then
    let (s, lo) := s.lowRead k row i
    let (s, hi) := s.highRead k row i
    (s, lo + hi * 2 ^ 32)
  else s.readParam k row i

/-! Checks of a write (R524). -/

/-- Check 4: the Access column permits a host write of this instance (R8, R84, R428). -/
def writable (row : ParamRow) (i : Nat) : Bool :=
  (match row.access with | .rw => true | .wo => true | .w1c => true | _ => false)
    && !(row.id == P.hostRingCfg && decide (32 ≤ i))
    && !(decide (P.chkCfg ≤ row.id) && decide (row.id ≤ P.chkCtl) && i == 3)

/-- Drive of a parameter's instance, by what it names; none where no drive owns it (R113). -/
def Regs.ownerDrive (r : Regs) (row : ParamRow) (i page : Nat) : Option Nat :=
  match row.owner with
  | .none => none
  | .drive => some i
  | .bridge => r.ownerOf i
  | .gen => r.ownerOf (i / 3)
  | .conv => r.ownerOf (i / 2)
  | .bridgeBy n => r.ownerOf (i / n)
  | .driveBy n => some (i / n)
  | .rcPage => some (page / 8)
  | .gang => some (bits (r.get P.linkGang i) 12 2)
  | .gangOfs => some (bits (r.get P.linkGang (i / 4)) 12 2)

/-- Check 6: the conditions of state that the parameter's chapter sets (R149, R310, R428, R467). -/
def State.stateCheck (s : State) (row : ParamRow) (i page : Nat) : Nat :=
  if row.stop = .test then
    (match s.r.ownerDrive row i page with
     | some d => if s.reg P.pwmTestEn d = 1 then St.ok else St.badState
     | none => St.badState)
  else if row.id = P.engRcTab then
    (if bit (s.reg P.engStat (page / 8)) 6 then St.badState else St.ok)
  else if P.chkCfg ≤ row.id ∧ row.id ≤ P.chkExpect then
    (if s.chkState i = 1 then St.badState else St.ok)
  else if row.id = P.secKeyWr then
    (if s.inField then St.locked else if s.keyWritable i then St.ok else St.badState)
  else if row.id = P.secLock then (if s.lockable then St.ok else St.badState)
  else St.ok

/-- The range of an item's value (check 5); PWM.CMPA and the other ranges that name another parameter are
judged at commit (R105). -/
def itemRange (row : ParamRow) (v : Nat) : Bool := valueOk row v

/-! Effects of a write. -/

/-- TRIP_CFG[t] is written: the active level follows POL, and an input active at EN = 1 counts as having its
raw edge now (R162). -/
def State.tripCfgWrite (s : State) (t v : Nat) : State :=
  let old := s.reg P.pwmTripCfg t
  let s := s.setReg P.pwmTripCfg t v
  let s := if bit old 1 = bit v 1 then s else (s.tripSample t ((s.trip t).pin != bit v 1)).tripEnabled t
  if bit v 0 && !bit old 0 then s.tripEnabled t else s

/-- ENG.CAP_STOP[d] = 1 ends the capture on this tick (R319). -/
def State.capStop (s : State) (d : Nat) : State :=
  match (s.drv d).foc.cap with
  | none => s
  | some c =>
    let c := if c.ended.isSome then c else { c with active := false, ended := some s.epoch, stopped := true }
    let s := s.modDrv d (fun x => { x with foc := { x.foc with cap := some c } })
    if c.fifo.isEmpty then s.drainCapture d else s

/-- CHK.CTL[u] (R428). -/
def State.chkCtlWrite (s : State) (u v : Nat) : State :=
  let s := if bit v 0 then s.chkGo u else s
  let s := if bit v 1 then s.chkHold u else s
  if bit v 2 then s.chkAbort u else s

/-- A MODE parameter of a ring-path function, with the KIND of R123 (R119). -/
def kindOfMode (id : Nat) : Option Nat :=
  if id = P.posAngMode then some 1 else if id = P.focCurMode then some 2 else if id = P.focLoopMode then some 3
  else if id = P.focFwMode then some 4 else if id = P.engRcMode then some 5 else none

/-- A MODE parameter is written: where MODE[0] changes, the function starts afresh in the mode written (R129, R130,
R131). -/
def State.modeWrite (s : State) (id i v : Nat) : State :=
  let same := bit (s.reg id i) 0 == bit v 0
  let s := s.setReg id i v
  if same then s
  else match kindOfMode id with
  | some k => (s.setHostFn i k { s.hostFn i k with run := 0, started := false }).updateHaRun i
  | none =>
    if id = P.thermPsMode then
      s.each (gensOfBridge i) (fun s g =>
        let since := if bit v 0 then some s.epoch else none
        -- a host value of this very tick is used at once; otherwise the hw form's last output is held (R129)
        let got := Smap.get (fun _ => none) s.therm.hostAt g == some s.epoch
        let s := { s with therm := { s.therm with
          hostAt := Smap.set (fun _ => none) s.therm.hostAt g since,
          hostIn := Smap.set (fun _ => false) s.therm.hostIn g (bit v 0 && got) } }
        match s.ownerOf i with
        | some d => (s.setHostFn d (16 + g) { s.hostFn d (16 + g) with run := 0 }).updateHaRun d
        | none => s)
    else s

/-- A shadow of an update group is written in test mode (R147, R149). -/
def State.testShadow (s : State) (g : Nat) (f : Gen → Gen) : State :=
  match s.ownerOf (g / 3) with
  | some d => s.shadowWrite d (fun s => s.modGen g f)
  | none => s

/-- PWM.TEST_EN[d] is written: its end loads `float` at the next reload point (R149). -/
def State.testEnWrite (s : State) (d v : Nat) : State :=
  let old := s.reg P.pwmTestEn d
  let s := s.setReg P.pwmTestEn d v
  if old = 1 ∧ v = 0 then s.modDrv d (fun x => { x with car := { x.car with floatNext := true } }) else s

/-- The written value governs from now. `v` has its reserved bits dropped (R5). -/
def State.govern (s : State) (id i page v : Nat) : State :=
  match paramRow id with
  | none => s
  | some row =>
    let v := v &&& row.mask
    if row.access = .w1c then
      let c := s.reg id i &&& v
      s.setReg id i (s.reg id i - (c - (c &&& s.setNow id)))
    else if row.banked then { s with r := s.r.setInactive id i v }
    else if id = P.pwmTripCfg then s.tripCfgWrite i v
    else if id = P.busChopCfg then s.chopCfgWrite i v
    else if id = P.pwmTestEn then s.testEnWrite i v
    else if id = P.posInCfg then s.posInCfgWrite i v
    else if id = P.posSrc ∨ id = P.posStart then (s.setReg id i v).formHall i
    else if id = P.pwmCmpa then s.testShadow i (fun x => { x with shA := v })
    else if id = P.pwmCmpb then s.testShadow i (fun x => { x with shB := v })
    else if id = P.pwmOvr then s.testShadow i (fun x => { x with shOvr := v })
    else if id = P.pwmUpdCommit then (if v = 1 then s.setCommit i else s)
    else if id = P.pwmIlMap then (s.setReg id i v).applyGens (List.range 12) s.nowF []
    else if id = P.adcGain then (s.setReg id i v).gainChanged i
    else if id = P.adcFcFilt then (s.setReg id i v).filtChanged i
    else if id = P.adcHkDec then { s.setReg id i v with hk := { s.hk with marks := 3 } }
    else if id = P.adcChkList ∨ id = P.adcChkSlot then (s.setReg id i v).setChecker i { s.checker i with idx := 0 }
    else if id = P.engRcTab then s.setRc (rcKey page i) v
    else if id = P.engRcCtl then
      (s.setReg id i (v % 4)).modDrv i (fun x => { x with foc := { x.foc with rcClear := x.foc.rcClear || bit v 2 } })
    else if id = P.engCapStop then (if v = 1 then s.capStop i else s)
    else if id = P.fltHealthMask then s.setReg id i (v ||| 1)
    else if id = P.fltSel then s.selectRec i v
    else if id = P.fltHostDec then s.hostDec (bits v 0 24) (bits v 24 2)
    else if id = P.hostRingCfg then (s.ringCfgWrite i v).1
    else if id = P.perfCnt then s.writeCount i v
    else if id = P.hostDoorbell then s.doorbell i v
    else if id = P.thermHostT then s.hostTWrite i v
    else if id = P.chkCtl then s.chkCtlWrite i v
    else if id = P.secKeyWr then s.keyWrite i v
    else if id = P.secLock then (if v = 1 then s.lock else s)
    else if id = P.secArbCommit then s.arbCommit v
    else if id = P.linkPortEn then s.portEn v
    else if id = P.pwrSupply ∨ id = P.pwrEAllow ∨ id = P.pwrECap then
      let s := s.settleEnergy.setReg id i v
      s.settleEnergy
    else if (kindOfMode id).isSome ∨ id = P.thermPsMode then s.modeWrite id i v
    else s.setReg id i v

/-! Pairs that wait for a boundary (R9, R10, R11, R113). -/

/-- The drive runs and its bridges switch, so that its `at sample` and `at reload` pairs wait (R113). -/
def State.takesLater (s : State) (d : Nat) : Bool :=
  s.pwr.mode == .full && (s.drv d).car.run && !s.stopped d && (s.fixedOvr d).isNone && !(s.bridges d).isEmpty

/-- Two staged items are writes of one pair, or swaps of one drive. -/
def samePair : Staged → Staged → Bool
  | .write a i p _, .write b j q _ => a == b && i == j && (a != P.engRcTab || p == q)
  | .swap d _, .swap e _ => d == e
  | _, _ => false

/-- Older waiting writes of a pair that governs now are dropped, since the later commit's value governs (R110). -/
def State.dropOlder (s : State) (x : Staged) : State :=
  { s with txn := { s.txn with waiting := s.txn.waiting.filter (fun w => !samePair w.item x) } }

/-- Coefficient banks change; with COPY the new inactive bank takes the new active bank's values (R304). -/
def State.swapBanks (s : State) (d : Nat) (copy : Bool) : State :=
  { s with r := s.r.swap d copy }

/-- The effect of a staged pair. -/
def State.takeStaged (s : State) : Staged → State
  | .write id i page v => s.govern id i page v
  | .swap d copy => s.swapBanks d copy

/-- Parameters whose write goes to the shadows of the update group at once (R149). -/
def isShadow (id : Nat) : Bool := id == P.pwmCmpa || id == P.pwmCmpb || id == P.pwmOvr || id == P.pwmUpdCommit

/-- A pair that must wait for a boundary of drive d, or where d is none for a drive to take its block. -/
def State.await (s : State) (d : Option Nat) (atReload : Bool) (x : Staged) : State :=
  let w : Waiting := { drive := d.getD 4, atReload := atReload, tick := s.epoch, item := x }
  { s with txn := { s.txn with waiting := s.txn.waiting ++ [w] } }

/-- A pair is applied on this tick: it governs at once, or waits as its Takes effect column gives. -/
def State.applyStaged (s : State) (x : Staged) : State :=
  match x with
  | .swap d copy => if s.takesLater d then s.await (some d) false x else s.swapBanks d copy
  | .write id i page v =>
    match paramRow id with
    | none => s
    | some row =>
      match row.effect with
      | .immediate => s.govern id i page v
      | .atCommit => s.govern id i page v
      | .atBoot =>
        if id = P.secBootPref then s.govern id i page v
        else { s with txn := { s.txn with bootPend := Smap.insert s.txn.bootPend (regKey id i) (v &&& row.mask) } }
      | e =>
        if isShadow id then s.govern id i page v
        else match s.r.ownerDrive row i page with
          | some d => if s.takesLater d then s.await (some d) (e == .atReload) x else (s.dropOlder x).govern id i page v
          | none => (s.dropOlder x).await none (e == .atReload) x

/-- The drive of a waiting pair: its own, or the drive that owns its block now (R11). -/
def State.waitsFor (s : State) (w : Waiting) : Option Nat :=
  if w.drive < 4 then some w.drive
  else match w.item with
    | .write id i page _ => (match paramRow id with | some row => s.r.ownerDrive row i page | none => none)
    | .swap d _ => some d

/-- Pairs of drive d that a test picks govern now, oldest first. -/
def State.takeWaiting (s : State) (d : Nat) (p : Waiting → Bool) : State :=
  let mine (w : Waiting) : Bool := s.waitsFor w == some d && p w
  let due := s.txn.waiting.filter mine
  let s := { s with txn := { s.txn with waiting := s.txn.waiting.filter (fun w => !mine w) } }
  due.foldl (fun s w => s.takeStaged w.item) s

/-- The waiting pairs due at a boundary of drive d: written before this tick (R10), and those `at reload` only
where a committed set has loaded (R9). -/
def State.takeDueWaiting (s : State) (d : Nat) (loaded : Bool) : State :=
  s.takeWaiting d (fun w => decide (w.tick < s.epoch) && (loaded || !w.atReload))

/-- A drive that no longer runs takes every pair that waits for it (R113). -/
def State.flushWaiting (s : State) (d : Nat) : State := s.takeWaiting d (fun w => decide (w.drive < 4))

/-- Drive d has taken the commits accepted before this tick (R114). -/
def State.commitTaken (s : State) (d : Nat) : State :=
  { s with txn := { s.txn with commits := s.txn.commits.map (fun c =>
      if bit c.drives d && !c.taken.any (fun (e, _) => e == d) && decide (c.accept < s.epoch) then
        { c with taken := c.taken ++ [(d, s.epoch)] } else c) } }

/-! Direct access (R41 to R43). -/

/-- A write of one word that an interface makes directly, by the checks of R524; a refused write changes
nothing. It is applied at once. -/
def State.directWrite (s : State) (k : Nat) (row : ParamRow) (i v : Nat) : State :=
  let page := s.rcPage k
  if !writable row i || !itemRange row v || s.stateCheck row i page != St.ok then s
  else s.applyStaged (.write row.id i page v)

/-- The row and instance of a direct access. -/
def directRow (id inst : Nat) : Option ParamRow :=
  match paramRow id with
  | some row => if instOk row inst then some row else none
  | none => none

/-- LOW_WORD_READ (R41). -/
def execLowWordRead (i : Iface) (id : Half) (inst : Byte) (s : State) : Out :=
  fin (
    match directRow id.toNat inst.toNat with
    | some row =>
      if s.serving && paramSize row == 8 then
        let (s, v) := s.lowRead (ifaceNo i) row inst.toNat
        s.setRdata (ifaceNo i) v
      else s
    | none => s)

/-- HIGH_WORD_READ (R41). -/
def execHighWordRead (i : Iface) (id : Half) (inst : Byte) (s : State) : Out :=
  fin (
    match directRow id.toNat inst.toNat with
    | some row =>
      if s.serving && paramSize row == 8 then
        let (s, v) := s.highRead (ifaceNo i) row inst.toNat
        s.setRdata (ifaceNo i) v
      else s
    | none => s)

/-- The host may write this 64-bit value word by word. -/
def State.wordWritable (s : State) (row : ParamRow) (inst : Nat) : Bool :=
  s.serving && paramSize row == 8 && row.effect == .immediate && writable row inst

/-- LOW_WORD_WRITE (R43): the word is held. -/
def execLowWordWrite (i : Iface) (id : Half) (inst : Byte) (v : Word) (s : State) : Out :=
  fin (
    match directRow id.toNat inst.toNat with
    | some row =>
      if s.wordWritable row inst.toNat then
        s.setSnap (ifaceNo i) { s.snap (ifaceNo i) with heldAddr := some (snapAddr id.toNat inst.toNat), heldLow := v.toNat }
      else s
    | none => s)

/-- HIGH_WORD_WRITE (R43): both words are written on this tick; without a held low word, over the live one. -/
def execHighWordWrite (i : Iface) (id : Half) (inst : Byte) (v : Word) (s : State) : Out :=
  fin (
    match directRow id.toNat inst.toNat with
    | some row =>
      if s.wordWritable row inst.toNat then
        let k := ifaceNo i
        let x := s.snap k
        if x.heldAddr = some (snapAddr id.toNat inst.toNat) then
          (s.setSnap k { x with heldAddr := none, heldLow := 0 }).directWrite k row inst.toNat (x.heldLow + v.toNat * 2 ^ 32)
        else
          (s.setBit P.timeSnapStat k 1 true).directWrite k row inst.toNat (s.view k row.id inst.toNat % 2 ^ 32 + v.toNat * 2 ^ 32)
      else s
    | none => s)

/-! PARAM_READ (R93 to R95, R524). -/

/-- One instance of an item of a PARAM_READ response. -/
def readItem (row : ParamRow) (inst v : Nat) : List Byte :=
  leBytes 2 row.id ++ leBytes 1 inst ++ leBytes 1 (paramSize row) ++ leBytes (paramSize row) v

/-- The instances of one item, appended to the response data. -/
def State.readInsts (s : State) (k : Nat) (row : ParamRow) : List Nat → List Byte → State × List Byte
  | [], acc => (s, acc)
  | i :: r, acc =>
    let (s, v) := s.readWhole k row i
    State.readInsts s k row r (acc ++ readItem row i v)

/-- The items of a PARAM_READ in order; `ix` counts them and `n` the bytes of payload so far. First pass: the
checks and the size test alone (R94, R95). -/
def State.readCheck (s : State) (ix n : Nat) : List Byte → Option (Nat × Nat)
  | a :: b :: i :: _ :: rest =>
    match paramRow (a.toNat + 256 * b.toNat) with
    | none => some (St.badParam, ix)
    | some row =>
      if s.recovery && row.id != P.sysId && row.id / 256 != 0x1C then some (St.locked, ix)
      else match instsOf row i.toNat with
        | none => some (St.badInst, ix)
        | some l =>
          let n := n + l.length * (4 + paramSize row)
          if row.id = P.secRng ∧ s.isLive K.trngFail 0 = true then some (St.badState, ix)
          else if 1004 < n then some (St.length, ix)
          else State.readCheck s (ix + 1) n rest
  | _ => none

/-- Second pass: the values. -/
def State.readItems (s : State) (k : Nat) (acc : List Byte) : List Byte → State × List Byte
  | a :: b :: i :: _ :: rest =>
    match paramRow (a.toNat + 256 * b.toNat) with
    | none => (s, acc)
    | some row =>
      let (s, acc) := s.readInsts k row ((instsOf row i.toNat).getD []) acc
      State.readItems s k acc rest
  | _ => (s, acc)

/-- PARAM_READ (R93 to R95). -/
def bodyParamRead (s : State) (c : Cmd) (pl : List Byte) : State × Reply :=
  if pl.length % 4 ≠ 0 then (s, .refuse St.length)
  else match s.readCheck 0 4 pl with
    | some (st, ix) => (s, .now st ix [])
    | none =>
      let (s, data) := s.readItems c.iface [] pl
      (s, .ok data)

def execParamRead (h : Hdr) (pl : List Byte) (s : State) : Out := runCommand h 0x0101 pl s bodyParamRead

/-- PING (R92, R96): the epoch. -/
def bodyPing (s : State) (_ : Cmd) (pl : List Byte) : State × Reply :=
  if pl.length ≠ 0 then (s, .refuse St.length) else (s, .ok (leBytes 8 s.epoch))

def execPing (h : Hdr) (pl : List Byte) (s : State) : Out := runCommand h 0x0100 pl s bodyPing

/-- CAP_STOP (R319). -/
def execCapStop (d : Fin 4) (s : State) : Out := fin (if s.serving then s.capStop d.val else s)

/-- RC_CLEAR (R310): the drive's tables are set to 0 at its next boundary. -/
def execRcClear (d : Fin 4) (s : State) : Out :=
  fin (if s.serving then s.modDrv d.val (fun x => { x with foc := { x.foc with rcClear := true } }) else s)

end Sys2Proof.Machine
end

