-- ==== Sys2Proof/Machine/Law.lean ====
section
/-! DEFINITION. The control law of one run: the chain of R264 from the ramp limiter to the compares, with the
compensation terms and the initial states (R261 to R280, R307 to R312). Everything here is a function of the
run, of the drive's control state and of the repetitive-controller tables. The order of the roundings is that of
the formulas as the manual writes them. -/

namespace Sys2Proof.Machine

open F32 (add sub mul div neg lt le clamp capped half two one)

/-! What a run reads. -/

/-- T_smp (R264). -/
def Run.tSmp (r : Run) : F32 := F32.ofRatio false r.per (200000000 * r.spp)
/-- A parameter of the drive at the run's boundary. -/
def Run.p (r : Run) (d id : Nat) : Nat := r.regs.get id d
def Run.pf (r : Run) (d id : Nat) : F32 := r.regs.f id d
/-- A uQ1.15 parameter. -/
def Run.pq (r : Run) (d id : Nat) : F32 := F32.ofRatio false (r.p d id) 32768
/-- A movable function runs in `host` mode in this sample, with its values (R129). -/
def Run.hostOf (r : Run) (k : Nat) : Option (Word × Word) := if bit r.fb k then none else Smap.get (fun _ => none) r.host k
/-- The held value of a function that fell back at this boundary (R130). -/
def Run.fellBack (r : Run) (k : Nat) : Option (Word × Word) := if bit r.fb k then Smap.get (fun _ => none) r.host k else none
/-- N of R262 as a float. -/
def Run.sets_ (r : Run) (d : Nat) : F32 := F32.ofNat (r.regs.nSets d)
/-- 1.5·p·N (R270). -/
def Run.gain15 (r : Run) (d : Nat) : F32 := mul (mul (F32.ofFrac 3 2) (F32.ofNat (r.p d P.posPolePairs))) (r.sets_ d)
def Run.speedMode (r : Run) (d : Nat) : Bool := r.p d P.focCtrl == 1
/-- FOC.TORQUE of the sample (R263). -/
def Run.torque (r : Run) (d : Nat) : F32 := r.sets.foldl (fun a x => add a (r.regs.setTorque d x.id_ x.iq)) 0#32

/-- Feed-forward terms of R275 for measured currents; 0 without DECOUPLE. -/
def Run.ff (r : Run) (d : Nat) (id_ iq : F32) : F32 × F32 :=
  if bit (r.p d P.focOpt) 0 then
    (neg (mul (mul r.omega (r.pf d P.focLq)) iq), mul r.omega (add (mul (r.pf d P.focLd) id_) (r.pf d P.focPsi)))
  else (0#32, 0#32)

/-! Initial states (R277). -/

/-- A vector turned by an angle. -/
def turned (d q : F32) (δ : Nat) : F32 × F32 := invPark d q δ

/-- Every set's integrators from a vector less its feed-forward. -/
def Run.presetSets (r : Run) (d : Nat) (f : FocSt) (v : SetSt → F32 × F32) : FocSt :=
  r.sets.foldl (fun f x =>
    let y := f.set x.key
    let (vd, vq) := v y
    let (fd, fq) := r.ff d x.id_ x.iq
    f.setSet x.key { y with xd := sub vd fd, xq := sub vq fq }) f

/-- The control state after the initialisation that the run's occasion asks for (R268, R277). -/
def Run.preset (r : Run) (d : Nat) (f : FocSt) : FocSt :=
  let T := r.torque d
  let ω := r.omega
  let start (x : F32) : F32 := if r.speedMode d then ω else x
  let ctrl := r.p d P.focCtrl
  match r.init with
  | 1 =>
    let f := r.presetSets d f (fun _ => (0#32, mul ω (r.pf d P.focPsi)))
    { f with xw := 0#32, xfw := 0#32, x := start 0#32, r := 0#32, ctrl := ctrl }
  | 2 =>
    let f := r.presetSets d f (fun y => turned y.vd y.vq r.rot)
    let (i, q) := turned f.idRef f.iqRef r.rot
    { f with xw := T, xfw := 0#32, x := start T, r := 0#32, ctrl := ctrl, idRef := i, iqRef := q }
  | 3 =>
    let f := r.sets.foldl (fun f x => f.setSet x.key { f.set x.key with xd := 0#32, xq := 0#32 }) f
    { f with xw := 0#32, xfw := 0#32, x := 0#32, r := 0#32, ctrl := ctrl }
  | 4 => r.sets.foldl (fun f x => f.setSet x.key { f.set x.key with xd := 0#32, xq := 0#32 }) f
  | _ =>
    if r.prog < 2 ∧ f.ctrl ≠ ctrl then { f with x := start T, r := 0#32, xw := T, ctrl := ctrl } else f

/-- k of R270 for a d-axis reference. -/
def Run.kTorque (r : Run) (d : Nat) (i : F32) : F32 :=
  let ψ := r.pf d P.focPsi
  let k := add ψ (mul (sub (r.pf d P.focLd) (r.pf d P.focLq)) i)
  let low := mul (F32.ofRatio false 1 10) ψ
  if lt k low then low else k

/-- The control state after the fallbacks of this boundary (R130, R277). -/
def Run.fallback (r : Run) (d : Nat) (f : FocSt) : FocSt :=
  if r.fb = 0 then f
  else
    let f := match r.fellBack 2 with
      | some (a, b) => r.presetSets d f (fun _ => (a, b))
      | none => f
    let f := match r.fellBack 3 with
      | some (a, b) => { f with xw := mul (mul (r.gain15 d) (r.kTorque d a)) b }
      | none => f
    let f := match r.fellBack 4 with
      | some (a, _) => { f with xfw := a }
      | none => f
    -- a fallback of any function, that of the angle among them, restarts the ramp's rate (R277)
    { f with r := 0#32 }

/-! Steps 3 to 5 (R265 to R270). -/

/-- One step of the ramp limiter: x and r (R266). -/
def rampStep (X x r rate jerk dt : F32) : F32 × F32 :=
  let e := sub X x
  let sgn (v : F32) : F32 := if F32.sign e = 0 then 0#32 else if F32.sign e < 0 then neg v else v
  let flat := F32.eq jerk 0#32
  let r1 :=
    if flat then sgn (F32.min rate (div (F32.abs e) dt))
    else
      let want := sgn (F32.min rate (F32.sqrt (mul (mul two jerk) (F32.abs e))))
      let j := mul jerk dt
      add r (clamp (sub want r) (neg j) j)
  let x1 := add x (mul r1 dt)
  if !flat && le (mul (sub X x1) e) 0#32 && le (F32.abs r1) (mul jerk dt) then (X, 0#32) else (x1, r1)

/-- X of R265, and 0 in the ramp of a stop (R283). -/
def Run.target (r : Run) (d : Nat) : F32 :=
  if r.toZero then 0#32
  else
    let lim := if r.speedMode d then r.pf d P.focWMax else r.pf d P.focTMax
    clamp (r.pf d P.focSet) (neg lim) lim

/-- RAMP of FOC.STAT: x ≠ X or r ≠ 0 (R288). -/
def Run.ramping (r : Run) (d : Nat) (f : FocSt) : Bool := !(F32.eq f.x (r.target d)) || !(F32.eq f.r 0#32)

/-- Steps 3 and 4: the ramp and T* (R266, R269, R311). -/
def Run.loops (r : Run) (d : Nat) (f : FocSt) : FocSt :=
  let X := r.target d
  let dt := r.tSmp
  let (x, rt) := rampStep X f.x f.r (r.pf d P.focRampRate) (r.pf d P.focRampJerk) dt
  let speed := r.speedMode d
  let tff := if r.comp = 2 ∧ speed = true then div (mul (r.pf d P.engFfJ) rt) (F32.ofNat (r.p d P.posPolePairs)) else 0#32
  let tMax := r.pf d P.focTMax
  let xin := if r.injOn && r.injPoint == 5 then add x r.inj else x
  let f := { f with x := x, r := rt }
  if speed then
    let e := sub xin r.omega
    let ti := r.pf d P.focTiLim
    let xw := clamp (add f.xw (mul (mul (r.pf d P.focKiW) dt) e)) (neg ti) ti
    { f with xw := xw, tstar := clamp (add (add (mul (r.pf d P.focKpW) e) xw) tff) (neg tMax) tMax }
  else { f with tstar := clamp (add x tff) (neg tMax) tMax }

/-! Steps 6 and 7 (R271 to R274, R286, R527). -/

/-- Bits of FOC.STAT that the law gives. -/
abbrev Flag.ilim : Nat := 1
abbrev Flag.glim : Nat := 2
abbrev Flag.vlim : Nat := 4
abbrev Flag.fw : Nat := 8
abbrev Flag.ramp : Nat := 32
abbrev Flag.lb : Nat := 64

/-- I_lim (R274). -/
def Run.iLim (r : Run) (d : Nat) : F32 :=
  mul (F32.min (r.pf d P.focIMax) r.iTherm) (if r.derate then r.pq d P.focDerateK else one)

/-- V_LIM,b (R278). -/
def Run.vLim (r : Run) (d : Nat) (vbus : F32) : F32 := div (mul (F32.ofRatio false (r.regs.mMax d) 32768) vbus) F32.sqrt3

/-- x_fw of R271. -/
def Run.fieldWeaken (r : Run) (d : Nat) (f : FocSt) : F32 :=
  let vl := match r.sets with
    | [] => 0#32
    | x :: xs => xs.foldl (fun a y => F32.min a (r.vLim d y.vbus)) (r.vLim d x.vbus)
  let u := r.sets.foldl (fun a x => let y := f.set x.key; F32.max a (magF y.vdU y.vqU)) 0#32
  let e := sub (mul (r.pq d P.focFwKv) vl) u
  let floor := F32.max (r.pf d P.focIdMin) (neg (r.iLim d))
  clamp (add f.xfw (mul (mul (r.pf d P.focFwKi) r.tSmp) e)) floor 0#32

/-- β of R272 in uQ0.32 of a turn. -/
def Run.advance (r : Run) (d : Nat) : Nat :=
  let u := clamp (div (mul (F32.ofNat 31) (F32.abs r.omega)) (r.pf d P.focPaWMax)) 0#32 (F32.ofNat 31)
  let i := (F32.floorInt u).toNat
  let e (i : Nat) : Nat := r.regs.get P.focPaTab (32 * d + i)
  if 31 ≤ i then e 31 * 65536
  else
    let b := add (F32.ofNat (e i)) (mul (sub u (F32.ofNat i)) (F32.ofInt ((e (i + 1) : Int) - e i)))
    (F32.toFixed b 16).toNat

/-- Step 6 with its host forms: references before step 7, x_fw, and the FW flag (R271 to R273). -/
def Run.step6 (r : Run) (d : Nat) (f : FocSt) : F32 × F32 × F32 × Bool :=
  let k := r.kTorque d f.idRef
  let cmd := div f.tstar (mul (r.gain15 d) k)
  let g := r.prog == 1
  let xfw := if g then r.fieldWeaken d f else f.xfw
  match r.hostOf 3, r.hostOf 4 with
  | some (a, b), _ => (if g then F32.min a xfw else a, b, xfw, g && lt xfw 0#32)
  | none, some (a, _) => (a, cmd, xfw, g && lt xfw 0#32)
  | none, none =>
    if g then (xfw, cmd, xfw, lt xfw 0#32)
    else
      let β := r.advance d
      (neg (mul (F32.abs cmd) (sinTurn β)), mul cmd (cosTurn β), xfw, β != 0)

/-- Step 7 (R274): the references and the flags LB, ILIM and GLIM. -/
def Run.limits (r : Run) (d : Nat) (i q : F32) : F32 × F32 × Nat :=
  let on := lt 0#32 r.iLb
  let i := if on then F32.min i (neg r.iLb) else i
  let l := r.iLim d
  let i := capped i l
  let room := F32.sqrt (F32.max (sub (mul l l) (mul i i)) 0#32)
  let ilim := lt room (F32.abs q)
  let q := if ilim then capped q room else q
  let pGen := F32.min (r.pf d P.focPGenMax) r.pBus
  let gen := lt (mul q r.omega) 0#32
  let m := div pGen (mul (mul (r.gain15 d) (r.pf d P.focPsi)) (F32.max (F32.abs r.omega) (r.pf d P.focStopSpeed)))
  let glim := gen && lt m (F32.abs q)
  let q := if glim then capped q m else q
  (i, q, (if on then Flag.lb else 0) + (if ilim then Flag.ilim else 0) + (if glim then Flag.glim else 0))

/-- The falling magnitudes of `soft_off` at this sample (R286), from the references of the sample before it. -/
def Run.softFall (r : Run) (d : Nat) (f : FocSt) : F32 × F32 :=
  let step := mul (mul (r.pf d P.focSoftRate) (F32.ofNat 1000)) r.tSmp
  let (a, b) := match f.softD with | some a => (a, f.softQ) | none => (F32.abs f.idRef, F32.abs f.iqRef)
  (F32.max (sub a step) 0#32, F32.max (sub b step) 0#32)

/-- References with the caps of a `soft_off` (R286). -/
def Run.softened (r : Run) (d : Nat) (f : FocSt) (i q : F32) : F32 × F32 :=
  if r.soft then let (sd, sq) := r.softFall d f; (capped i sd, capped q sq) else (i, q)

/-- The control state with the caps of this sample. -/
def Run.keepSoft (r : Run) (d : Nat) (f : FocSt) : FocSt :=
  if r.soft then let (sd, sq) := r.softFall d f; { f with softD := some sd, softQ := sq } else { f with softD := none, softQ := 0#32 }

/-- The open-loop frame at the next boundary (R249). -/
def Run.openLoopStep (r : Run) (d : Nat) (f : FocSt) : FocSt :=
  if r.openLoop then
    let end_ := mul (F32.ofRatio false (r.p d P.posOlWEnd) 1000) (r.pf d P.focWRated)
    let goal := if F32.signBit (r.pf d P.focSet) then neg end_ else end_
    let step := mul (r.pf d P.posOlAcc) r.tSmp
    { f with olTheta := angleAdd r.theta (radToTurn (mul r.omega r.tSmp)),
             olW := add r.omega (clamp (sub goal r.omega) (neg step) step) }
  else f

/-- Steps 3 to 7: the control state with the final references, and the flags. START takes its own references in their
place (R291), which a `soft_off` lets fall as those of the others (R286). -/
def Run.references (r : Run) (d : Nat) (f : FocSt) : FocSt × Nat :=
  if r.prog = 2 then
    let (i, q) := r.softened d f r.refD r.refQ
    ({ (r.openLoopStep d (r.keepSoft d f)) with idRef := i, iqRef := q }, 0)
  else
    let loopHost := (r.hostOf 3).isSome
    let f1 := if loopHost || r.lossBrake then f else r.loops d f
    let (i, q, xfw, fw) :=
      if r.lossBrake then (0#32, 0#32, f1.xfw, false)
      else if r.init = 2 then (f1.idRef, f1.iqRef, f1.xfw, false)
      else r.step6 d f1
    let i := if r.injOn && r.injPoint == 1 then add i r.inj else i
    let q := if r.injOn && r.injPoint == 2 then add q r.inj else q
    let (i, q) := r.softened d f1 i q
    let (i, q, fl) := r.limits d i q
    ({ (r.keepSoft d f1) with xfw := xfw, idRef := i, iqRef := q }, fl + (if fw then Flag.fw else 0))

/-! Steps 8 to 10 of one set (R275, R278, R307, R312). -/

/-- What a run gives for one set. -/
structure SetOut where
  key : Nat
  bridge : Nat
  /-- CMPA and CMPB of U, V and W. -/
  cmps : List (Nat × Nat) := []
  vd : F32 := 0#32
  vq : F32 := 0#32
  vα : F32 := 0#32
  vβ : F32 := 0#32
  m : F32 := 0#32
  /-- Compensation added to v_d and v_q (R317). -/
  cd : F32 := 0#32
  cq : F32 := 0#32
  /-- Sector 1 to 6. -/
  sector : Nat := 0
  limited : Bool := false
  shifted : Bool := false
  deriving DecidableEq, Repr

/-- The output angle θ_v,b (R279). -/
def Run.outAngle (r : Run) (d θb : Nat) : Nat :=
  if bit (r.p d P.focOpt) 1 then angleAdd θb (radToTurn (mul (mul (F32.ofFrac 3 2) r.omega) r.tSmp)) else θb

/-- The table index of R307. -/
def Run.rcIndex (r : Run) (d : Nat) : Nat :=
  let θ := match r.sets with | x :: _ => r.outAngle d x.θ | [] => 0
  let lead := r.p d P.engRcLead
  let n := θ * 256 / 2 ^ 32
  if F32.signBit r.omega && !F32.eq r.omega 0#32 then (n + 256 - lead) % 256 else (n + lead) % 256

/-- Entry `bin` of axis a (0 d, 1 q) of the drive's table. -/
def rcAt (rc : Smap Nat) (d a bin : Nat) : F32 := BitVec.ofNat 32 (Smap.get (fun _ => 0) rc ((2 * d + a) * 256 + bin % 256))

/-- The bus-voltage term of R312 for one set. -/
def Run.busTerm (r : Run) (d : Nat) (x : SetIn) (i q : F32) (θv : Nat) : F32 × F32 :=
  let (iu, iv, iw) := ofDq i q θv
  let b := if x.key < 16 then x.bridge else ((r.regs.bridges d).headD 0)
  let term (ph : Nat) (c : F32) : F32 :=
    let g := 3 * b + ph
    let dt := r.regs.get P.pwmDtRise g + r.regs.get P.pwmDtFall g
    let k := mul (mul (r.pq d P.engFfKv) x.vbus) (F32.ofRatio false dt (64 * r.per))
    mul k (clamp (div c (r.pf d P.engFfIband)) (neg one) one)
  toDq (term 0 iu) (term 1 iv) (term 2 iw) θv

/-- Step 10 for one vector: the limited vector, and whether it was reduced (R278). -/
def Run.limitV (r : Run) (d : Nat) (vl vd vq : F32) : F32 × F32 × Bool :=
  if bit (r.p d P.focOpt) 2 then
    let m := magF vd vq
    if lt vl m then
      let k := div vl m
      (mul vd k, mul vq k, true)
    else (vd, vq, false)
  else
    let d1 := capped vd vl
    let room := F32.sqrt (F32.max (sub (mul vl vl) (mul d1 d1)) 0#32)
    let q1 := if lt room (F32.abs vq) then capped vq room else vq
    (d1, q1, lt vl (F32.abs vd) || lt room (F32.abs vq))

/-! Steps 11 and 12 (R217, R218, R279, R280). -/

/-- Nearest integer, ties rounded up (R280). -/
def roundUp (x : F32) : Nat := if F32.finite x then ((F32.toUnits x * 2 + (2 ^ 149 : Nat)) / (2 ^ 150 : Nat)).toNat else 0

/-- Max, mid and min phase of sector s, 0 to 5 (R279). -/
def sectorPhases (s : Nat) : Nat × Nat × Nat :=
  match s with
  | 0 => (0, 1, 2) | 1 => (1, 0, 2) | 2 => (1, 2, 0) | 3 => (2, 1, 0) | 4 => (2, 0, 1) | _ => (0, 2, 1)

/-- Sector timing of R279 in fractions: sector 0 to 5, one-high and two-high vector times, and T0 = T7. -/
structure Timing where
  sector : Nat
  t1 : F32
  t2 : F32
  t0 : F32
  deriving DecidableEq, Repr

def Run.timing (r : Run) (m : F32) (vα vβ : F32) : Timing :=
  let γ := atan2Turn vβ vα
  let s := γ * 6 / 2 ^ 32
  let γs := (γ * 6 - s * 2 ^ 32) / 6
  let ts := F32.ofNat (32 * (r.per / 2))
  let mt := mul m ts
  let ta := mul mt (sinTurn ((turnFrac 1 6 + 2 ^ 32 - γs) % 2 ^ 32))
  let tb := mul mt (sinTurn γs)
  let t0 := div (sub (sub ts ta) tb) two
  if s % 2 = 0 then ⟨s, ta, tb, t0⟩ else ⟨s, tb, ta, t0⟩

/-- The shifts of the max and the min phase in fractions, earlier and later (R217, R218). -/
def Run.shifts (r : Run) (d : Nat) (t : Timing) : Int × Int :=
  let q := r.regs.tQ d
  let short (x : F32) : Option Nat := if lt x (F32.ofNat q) then some ((q : Int) - F32.floorInt x).toNat else none
  let s1 : Int := match short t.t1 with
    | some n => if le (F32.ofNat n) t.t0 then -(n : Int) else 0
    | none => 0
  let s3 : Int := match short t.t2 with
    | some n => if le (F32.ofNat (n + r.regs.tB d)) t.t0 then (n : Int) else 0
    | none => 0
  (s1, s3)

/-- A value of one phase among three. -/
def pick3 {α : Type} (i : Nat) (u v w : α) : α := if i = 0 then u else if i = 1 then v else w

/-- Duties of U, V and W (R279). -/
def Run.duties (r : Run) (t : Timing) : F32 × F32 × F32 :=
  let ts := F32.ofNat (32 * (r.per / 2))
  let dmax := sub one (div t.t0 ts)
  let dmid := div (add t.t2 t.t0) ts
  let dmin := div t.t0 ts
  let (a, b, _) := sectorPhases t.sector
  let of (i : Nat) : F32 := if i = a then dmax else if i = b then dmid else dmin
  (of 0, of 1, of 2)

/-- A compare moved by a shift. -/
def shifted (c : Nat) (s : Int) : Nat := ((c : Int) + s).toNat

/-- CMPA and CMPB of one phase with duty `dy`, shift `sh` and the CMPA in force (R280). -/
def Run.compares (r : Run) (dy : F32) (sh : Int) (inForce : Nat) : Nat × Nat :=
  let h := 32 * (r.per / 2)
  let k := 32 * r.per - h
  let a := roundUp (mul (sub one dy) (F32.ofNat h))
  let b := h + roundUp (mul dy (F32.ofNat k))
  if r.spp = 1 then (shifted a sh, shifted b sh)
  else if r.plansFirst then (shifted a sh, shifted (32 * r.per - a) sh)
  else (if F32.eq dy 0#32 then 0x1FFFFF else inForce, shifted b sh)

/-- Steps 8 to 12 of one set: its state and its outputs, with the final references in `f`. -/
def Run.setLaw (r : Run) (d : Nat) (rc : Smap Nat) (f : FocSt) (x : SetIn) : SetSt × SetOut :=
  let y := f.set x.key
  let dt := r.tSmp
  let θv := r.outAngle d x.θ
  let host := r.hostOf 2
  -- step 8
  let ed := sub f.idRef x.id_
  let eq := sub f.iqRef x.iq
  let vi := r.pf d P.focViLim
  let xd := if host.isSome then y.xd else capped (add y.xd (mul (mul (r.pf d P.focKiD) dt) ed)) vi
  let xq := if host.isSome then y.xq else capped (add y.xq (mul (mul (r.pf d P.focKiQ) dt) eq)) vi
  let (fd, fq) := r.ff d x.id_ x.iq
  let v1d := add (add (mul (r.pf d P.focKpD) ed) xd) fd
  let v1q := add (add (mul (r.pf d P.focKpQ) eq) xq) fq
  -- step 9
  let (cd, cq) : F32 × F32 :=
    if host.isSome then (0#32, 0#32)
    else match r.comp with
      | 1 => (rcAt rc d 0 (r.rcIndex d), rcAt rc d 1 (r.rcIndex d))
      | 2 => r.busTerm d x f.idRef f.iqRef θv
      | _ => (0#32, 0#32)
  let (ud, uq) : F32 × F32 := match host with | some (a, b) => (a, b) | none => (add v1d cd, add v1q cq)
  let vd := if r.injOn && r.injPoint == 3 then add ud r.inj else ud
  let vq := if r.injOn && r.injPoint == 4 then add uq r.inj else uq
  -- step 10
  let (vd, vq, lim) := r.limitV d (r.vLim d x.vbus) vd vq
  -- step 11
  let (vα, vβ) := invPark vd vq θv
  let m := div (mul (magF vd vq) F32.sqrt3) x.vbus
  let t := r.timing m vα vβ
  let (s1, s3) := r.shifts d t
  let (a, _, c) := sectorPhases t.sector
  let sh (i : Nat) : Int :=
    if r.plansFirst then (if i = a then s1 else if i = c then s3 else 0) else pick3 i y.shU y.shV y.shW
  let (du, dv, dw) := r.duties t
  let inForce (i : Nat) : Nat := if x.key < 16 then r.regs.get P.pwmCmpa (3 * x.bridge + i) else pick3 i y.cU y.cV y.cW
  let cmp (i : Nat) : Nat × Nat := r.compares (pick3 i du dv dw) (sh i) (inForce i)
  let moved := [0, 1, 2].any (fun i => sh i != 0)
  let st : SetSt := { xd := xd, xq := xq, id1 := x.id_, iq1 := x.iq, id2 := y.id1, iq2 := y.iq1, vdU := ud, vqU := uq,
                      vd := vd, vq := vq, shU := sh 0, shV := sh 1, shW := sh 2,
                      cU := if r.plansFirst then (cmp 0).1 else y.cU, cV := if r.plansFirst then (cmp 1).1 else y.cV,
                      cW := if r.plansFirst then (cmp 2).1 else y.cW }
  (st, { key := x.key, bridge := x.bridge, cmps := [cmp 0, cmp 1, cmp 2], vd := vd, vq := vq, vα := vα, vβ := vβ, m := m,
         cd := cd, cq := cq, sector := t.sector + 1, limited := lim, shifted := moved })

/-! The whole law. -/

/-- What a run computes: the control state, the flags of FOC.STAT, and the outputs of the sets. -/
structure LawOut where
  foc : FocSt
  flags : Nat
  outs : List SetOut
  deriving DecidableEq, Repr

/-- The history of R213 advances and nothing else: a run that holds a fixed override (R290). -/
def Run.history (r : Run) (f : FocSt) : FocSt :=
  r.sets.foldl (fun f x =>
    let y := f.set x.key
    f.setSet x.key { y with id1 := x.id_, iq1 := x.iq, id2 := y.id1, iq2 := y.iq1, shU := 0, shV := 0, shW := 0 }) f

/-- The law of one run (R264, R290, R291). -/
def Run.law (r : Run) (d : Nat) (f : FocSt) : LawOut :=
  match r.ovr with
  | some _ => { foc := { r.history f with limited := false }, flags := if r.ramping d f then Flag.ramp else 0, outs := [] }
  | none =>
    let (f, fl) := r.references d (r.fallback d (r.preset d f))
    let (f1, outs) := r.sets.foldl (fun (g, os) x =>
      let (y, o) := r.setLaw d r.rc f x
      (g.setSet x.key y, os ++ [o])) (f, [])
    let lim := outs.any (·.limited)
    let fl := fl + (if lim then Flag.vlim else 0) + (if r.ramping d f then Flag.ramp else 0)
    { foc := { f1 with limited := fl % 8 != 0 || bit fl 6 }, flags := fl, outs := outs }

/-- Every state and output of the law is a number (R299). -/
def LawOut.sound (o : LawOut) : Bool :=
  let fs := [o.foc.x, o.foc.r, o.foc.xw, o.foc.xfw, o.foc.idRef, o.foc.iqRef, o.foc.tstar, o.foc.olW]
  fs.all F32.finite
    && o.foc.sets.all (fun (_, y) => [y.xd, y.xq, y.id1, y.iq1, y.vdU, y.vqU, y.vd, y.vq].all F32.finite)
    && o.outs.all (fun z => [z.m, z.cd, z.cq, z.vα, z.vβ].all F32.finite)

/-! Learning (R308, R309). -/

/-- The update of one closed bin (R309). -/
def Run.rcUpdate (r : Run) (d : Nat) (rc : Smap Nat) (a bin : Nat) (mean : F32) : F32 :=
  let α := r.pq d P.engRcForget
  let c := r.pq d P.engRcLpf
  let lim := r.pf d P.engRcLim
  let w := add (mul α (rcAt rc d a bin)) (mul (r.pf d P.engRcKl) mean)
  capped (add (mul (sub one c) w) (mul (div c two) (add (rcAt rc d a (bin + 255)) (rcAt rc d a (bin + 1))))) lim

/-- Mean of the errors of an axis over the sets (R309). -/
def Run.meanErr (r : Run) (f : FocSt) (q : Bool) : F32 :=
  div (r.sets.foldl (fun a x => add a (if q then sub f.iqRef x.iq else sub f.idRef x.id_)) 0#32) (F32.ofNat (Nat.max 1 r.sets.length))

/-- A closed visit updates both axes of its bin. -/
def Run.closeVisit (r : Run) (d : Nat) (rc : Smap Nat) (v : Nat × Nat × F32 × F32) : Smap Nat :=
  let (bin, n, sd, sq) := v
  let put (rc : Smap Nat) (a : Nat) (e : F32) : Smap Nat :=
    Smap.set (fun _ => 0) rc ((2 * d + a) * 256 + bin) (r.rcUpdate d rc a bin (div e (F32.ofNat n))).toNat
  put (put rc 0 sd) 1 sq

end Sys2Proof.Machine
end

