-- ==== Sys2Proof/Machine/Runs.lean ====
section
/-! DEFINITION. Runs of the Orbit engine: lanes and dispatch, deadlines and overruns, what a finishing run
writes, eclipse decisions, learning and capture (R239 to R243, R289 to R299, R309, R317). -/

namespace Sys2Proof.Machine

open F32 (add sub mul div neg lt le clamp half two one)

/-- The run of a drive that is waiting or in progress. -/
def State.runOf (s : State) (d : Nat) : Option Run := (s.drv d).foc.run
def State.modFoc (s : State) (d : Nat) (f : FocSt → FocSt) : State := s.modDrv d (fun x => { x with foc := f x.foc })
def State.setRun (s : State) (d : Nat) (r : Option Run) : State := s.modFoc d (fun f => { f with run := r })

/-! Lanes (R289, R293). -/

def State.laneFree (s : State) (l : Nat) : Nat := Smap.get (fun _ => 0) s.lanes l
def State.setLane (s : State) (l c : Nat) : State := { s with lanes := Smap.set (fun _ => 0) s.lanes l c }

/-- The drive whose run holds lane l. -/
def State.onLane (s : State) (l : Nat) : Option Nat :=
  (List.range 4).find? (fun d => match s.runOf d with | some r => r.lane == l && r.start.isSome | none => false)

/-- Run order at one lane: the earlier deadline, and of equal ones the lower drive. -/
def earlier (a b : Nat × Nat) : Bool := a.1 < b.1 || (a.1 == b.1 && a.2 < b.2)

/-- Deadline and drive of the released run that lane l takes next. -/
def State.nextRun (s : State) (l : Nat) : Option (Nat × Nat) :=
  ((List.range 4).filterMap (fun d => match s.runOf d with
    | some r => if r.lane = l ∧ r.start.isNone then some (r.deadline, d) else none
    | none => none)).foldl (fun a x => match a with
      | some y => if earlier x y then some x else some y
      | none => some x) none

/-- The run of drive d starts on lane-cycle c; its wait is recorded (R293). -/
def State.startRun (s : State) (d c : Nat) : State :=
  match s.runOf d with
  | none => s
  | some r =>
    let w := Nat.min top16 (c - 2 * r.boundary)
    let s := s.setRun d (some { r with start := some c })
    (s.setReg P.engWaitLast d w).setReg P.engWaitMax d (Nat.max w (s.reg P.engWaitMax d))

/-- A free lane takes the released run with the earliest deadline; a run that started on this tick gives way to
a run released on the same tick with an earlier one (R293). -/
def State.dispatch (s : State) (l : Nat) : State :=
  if s.flt.blk.contains .eng then s
  else match s.onLane l, s.nextRun l with
  | none, some (_, d) => if s.laneFree l ≤ 2 * s.epoch + 1 then s.startRun d (Nat.max (s.laneFree l) (2 * s.epoch)) else s
  | some d, some (t, e) =>
    (match s.runOf d, s.runOf e with
     | some r, some q =>
       (match r.start with
        | some c =>
          if 2 * s.epoch ≤ c ∧ q.boundary = s.epoch ∧ earlier (t, e) (r.deadline, d) then
            (s.setRun d (some { r with start := none })).startRun e c
          else s
        | none => s)
     | _, _ => s)
  | _, none => s

/-- ENG_RUN_START (R293). -/
def execEngRunStart (l : Fin 2) (s : State) : Out :=
  fin (if s.pwr.mode = .full then s.dispatch l.val else s)

/-! Overruns (R296, R298, R299). -/

/-- An overrun of drive d with its stamp. -/
def State.overrun (s : State) (d stamp : Nat) : State :=
  let s := (s.bump P.engOvrCnt d top32).setBit P.engStat d 3 true
  let s := s.report K.engOvr d stamp
  let span := s.reg P.engOvrWin 0 * s.reg P.pwmPeriod d
  let h := ((s.drv d).foc.overruns ++ [stamp]).filter (fun t => decide (stamp < t + span))
  if s.reg P.engOvrN 0 ≤ h.length then (s.modFoc d (fun f => { f with overruns := [] })).report K.engOvrFault d s.epoch
  else s.modFoc d (fun f => { f with overruns := h })

/-- The run has passed its deadline: it is counted once (R296). -/
def State.missDeadline (s : State) (d : Nat) : State :=
  match s.runOf d with
  | none => s
  | some r =>
    if r.late ∨ s.epoch ≤ r.deadline then s
    else (s.setRun d (some { r with late := true })).overrun d (r.deadline + 1)

/-- ENG_DEADLINE_MISS (R296). -/
def execEngDeadlineMiss (d : Fin 4) (s : State) : Out := fin (if s.pwr.mode = .full then s.missDeadline d.val else s)

/-- A run that ends or is abandoned frees its lane from a lane-cycle on. -/
def State.endRun (s : State) (d c : Nat) : State :=
  match s.runOf d with
  | none => s
  | some r => (if r.start.isSome then s.setLane r.lane c else s).setRun d none

/-- A run is discarded at a lane-cycle: no state is updated, an initialisation of R277 is still to come, and it counts
as an overrun where the deadline has not counted it (R296, R299). -/
def State.discardRun (s : State) (d : Nat) (r : Run) (c : Nat) : State :=
  let s := (s.endRun d c).modFoc d (fun f => { f with init := if f.init = 0 then r.init else f.init })
  if r.late then s else s.overrun d (r.deadline + 1)

/-- A run is abandoned (R299). The windows of a sample whose members have not reported are counted without theirs (R214,
assumption log 108). -/
def State.abandonRun (s : State) (d : Nat) : State :=
  match s.runOf d with
  | none => s
  | some r => (if r.ready then s else s.countMiss d r.sets).discardRun d r (2 * s.epoch)

/-! Eclipse decisions (R221, R239 to R243). -/

/-- Eligible crossings (R239). -/
def eligible (n : Nat) : List Nat :=
  match n with
  | 1 => [0] | 2 => [0, 3] | 3 => [0, 2, 4] | 4 => [0, 1, 3, 4] | 5 => [0, 1, 2, 3, 4] | _ => [0, 1, 2, 3, 4, 5]

/-- Ticks from the boundary to the next eligible crossings, in order, with their numbers: each crossing in this turn
and the next (R240). -/
def crossingTimes (θb : Nat) (ω : F32) (ks : List Nat) : List (Nat × Nat) :=
  let fwd := !F32.signBit ω
  let all := ks.map (fun k =>
    let a := turnFrac k 6
    let gap := if fwd then (a + 2 ^ 32 - θb) % 2 ^ 32 else (θb + 2 ^ 32 - a) % 2 ^ 32
    [(gap, k), (gap + 2 ^ 32, k)])
  let ticks (g : Nat) : Nat := (F32.roundInt (mul (div (turnToRad g) (F32.abs ω)) (F32.ofNat 200000000))).toNat
  (all.flatten.mergeSort (fun x y => x.1 ≤ y.1)).map (fun (g, k) => (ticks g, k))

/-- The crossing whose window starts at the reload that begins period j: its number and instant (R239, R240). -/
def State.eclCandidate (s : State) (d : Nat) (r : Run) (θb : Nat) : Option (Nat × Nat) :=
  let len := r.p d P.posEclLen
  let lastEnd := (s.drv d).ecl.lastEnd
  (crossingTimes θb r.omega (eligible (r.p d P.posEclPerRev))).findSome? (fun (t, k) =>
    let tc := r.boundary + t
    let fits := if len = 1 then decide (r.next ≤ tc) && decide (tc < r.next + r.per)
      else decide (2 * r.next + r.per ≤ 2 * tc) && decide (2 * tc < 2 * r.next + 3 * r.per)
    let passed := decide (tc < lastEnd + r.p d P.posEclGap * r.per)
    if fits && !passed then some (k, tc) else none)

/-- I_ecl of R241. -/
def eclCurrent (r : Run) (f : FocSt) (tc : Nat) : F32 :=
  let dt := secsF ((tc - r.next) * 32)
  let δ := ((radToTurn (mul r.omega dt)) % (2 ^ 32 : Nat)).toNat
  F32.max (F32.abs f.idRef) (F32.abs (add (mul f.idRef (cosTurn δ)) (mul f.iqRef (sinTurn δ))))

/-- Windows are decided in this sample: source `eclipse`, no host angle, a speed of at least ECL_W_MIN, and from
OL_W_END upward while Hall events steer (R237, R247, R251). -/
def State.eclDecides (s : State) (d : Nat) (r : Run) : Bool :=
  let x := s.drv d
  let w (id : Nat) : F32 := mul (F32.ofRatio false (r.p d id) 1000) (r.pf d P.focWRated)
  let bottom := if r.p d P.posStart = 1 ∧ x.ecl.useHall = true then F32.max (w P.posEclWMin) (w P.posOlWEnd) else w P.posEclWMin
  r.p d P.posSrc == 2 && !bit (r.p d P.posAngMode) 0 && (x.phase == .running || x.phase == .openLoop)
    && le bottom (F32.abs r.omega)

/-- The eclipse pattern of an interval: compares of the floated phase's two neighbours (R221, R243). `vp` are the
phase voltages of the computed vector. None where the active vector would be shorter than T_Q. -/
def Run.eclPattern (r : Run) (d b phase : Nat) (vp : F32 × F32 × F32) (vbus : F32) (check : Bool) : Option (List (Nat × Nat × Nat)) :=
  let h := 32 * (r.per / 2)
  let i0 := if r.spp = 1 ∨ r.plansFirst = true then 0 else h
  let l := if r.spp = 1 then 32 * r.per else if r.plansFirst then h else 32 * r.per - h
  let v (i : Nat) : F32 := pick3 i vp.1 vp.2.1 vp.2.2
  let p := (phase + 1) % 3
  let q := (phase + 2) % 3
  let (hi, lo) := if le (v q) (v p) then (p, q) else (q, p)
  let act := roundUp (div (mul (F32.ofNat l) (sub (v hi) (v lo))) vbus)
  if check && decide (act < r.regs.tQ d) then none
  else
    -- both zero vectors are kept, the low one with the checker's slot; the high one holds a slot where there is room
    let zLow := (2 + r.regs.get P.adcChkSlot b) * 320 + 2 * r.regs.dtMax d
    let zHigh := Nat.max (r.regs.tB d) zLow
    let act := Nat.min act (l - zLow - r.regs.tB d)
    let low := Nat.max zLow (Nat.min ((l - act) / 2) (l - act - zHigh))
    let set (i : Nat) : Nat × Nat × Nat :=
      if i = phase then (0x1FFFFF, 0x1FFFFF, 1)
      else if i = hi then (i0 + low, 0x1FFFFF, 0)
      else (i0 + low + act, 0x1FFFFF, 0)
    some [set 0, set 1, set 2]

/-- Step 13 of R264 for a run in time: the drive's lowest set, floated or not. -/
def State.eclPlan (s : State) (d : Nat) (r : Run) (f : FocSt) (o : SetOut) (x : SetIn) : State × Option (List (Nat × Nat × Nat)) :=
  let vp := invClarke o.vα o.vβ
  match (s.drv d).ecl.win with
  | some w =>
    if w.planned < w.total then
      let s := s.modDrv d (fun y => { y with ecl := { y.ecl with win := some { w with planned := w.planned + 1 } } })
      (s, r.eclPattern d o.bridge (eclPhase w.k - 1) vp x.vbus false)
    else (s, none)
  | none =>
    if r.plansFirst = false ∨ s.eclDecides d r = false then (s, none)
    else match s.eclCandidate d r x.θ with
      | none => (s, none)
      | some (k, tc) =>
        let lim := mul (F32.ofRatio false (r.p d P.posEclIMax) 1000) (r.pf d P.focIRated)
        if lt lim (eclCurrent r f tc) then (s.eclSkip d 1 k, none)
        else match r.eclPattern d o.bridge (eclPhase k - 1) vp x.vbus true with
          | none => (s.eclSkip d 2 k, none)
          | some pat =>
            let w : EclWin := { k := k, start := r.next, total := r.p d P.posEclLen * r.spp, planned := 1 }
            (s.modDrv d (fun y => { y with ecl := { y.ecl with win := some w } }), some pat)

/-- A sample of a window whose set does not load counts towards its intervals: the float set repeats (R246). -/
def State.eclMissed (s : State) (d : Nat) : State :=
  s.modDrv d (fun y => match y.ecl.win with
    | some w => if w.planned < w.total then { y with ecl := { y.ecl with win := some { w with planned := w.planned + 1 } } } else y
    | none => y)

/-- An overrun run: a window in progress repeats its float; a decision of this run is abandoned and counted (R242,
R246, R296). -/
def State.eclLate (s : State) (d : Nat) (r : Run) (f : FocSt) (outs : List SetOut) : State :=
  match (s.drv d).ecl.win, outs.head?, r.sets.head? with
  | some _, _, _ => s.eclMissed d
  | none, some o, some x =>
    -- the decision as it would have been made: only a permitted window is an abandoned one
    let (t, pat) := s.eclPlan d r f o x
    (match pat, t.drv d |>.ecl.win with
     | some _, some w => s.eclSkip d 3 w.k
     | _, _ => t)
  | _, _, _ => s

/-! Capture (R316, R317). -/

/-- Value of a captured signal (R316). -/
def Run.signal (r : Run) (o : LawOut) (cyc code set : Nat) : F32 :=
  let x := r.sets[set]?.getD { key := 0, bridge := 0 }
  let z := o.outs[set]?.getD { key := 0, bridge := 0 }
  match code with
  | 0 => x.id_ | 1 => x.iq | 2 => o.foc.idRef | 3 => o.foc.iqRef | 4 => z.vd | 5 => z.vq
  | 6 => F32.ofRatio false r.theta (2 ^ 32) | 7 => r.omega | 8 => x.vbus | 9 => if r.injOn then r.inj else 0#32
  | 10 => o.foc.tstar | 11 => o.foc.xfw | 12 => z.cd | 13 => z.cq | 14 => o.foc.x | 15 => z.m
  | 16 => x.iu | 17 => x.iv | 18 => x.iw | 19 => F32.ofNat cyc
  | _ => 0#32

/-- The 32-byte record of one run (R317). -/
def Run.record (r : Run) (o : LawOut) (c : Capture) (cyc status : Nat) (late learn : Bool) : List Byte :=
  let sig (b : Nat) : List Byte := leBytes 4 (if b = 0xFF then 0 else (r.signal o cyc (b % 64) (b / 64)).toNat)
  leBytes 8 r.boundary ++ leBytes 2 c.seq
    ++ leBytes 1 (late.toNat + c.skip.toNat * 2 + r.injOn.toNat * 4 + r.comp * 8 + learn.toNat * 32)
    ++ leBytes 1 status ++ (c.sigs.map sig).flatten ++ zeros 4

/-- A run from the capture's first boundary on records its signals, one run in every DECIM (R316, R317). -/
def State.captureRun (s : State) (d : Nat) (r : Run) (o : LawOut) (cyc : Nat) (late learn : Bool) : State :=
  match (s.drv d).foc.cap with
  | none => s
  | some c =>
    if !c.active || c.kind != 0 || decide (r.boundary < c.since) then s
    else
      let n := c.runs + 1
      let due := c.runs % c.decim == 0
      let s := s.modFoc d (fun f => { f with cap := some { c with runs := n } })
      if due then
        let status := match r.sets.head? with | some x => x.status | none => Stat.none
        s.captureRecord d (r.record o c cyc status late learn) r.boundary
      else s

/-! What a finishing run writes (R295, R296). -/

/-- Words of the drive's registers from the law. -/
def State.lawRegs (s : State) (d : Nat) (r : Run) (o : LawOut) : State :=
  let pair (a b : F32) : Nat := a.toNat + b.toNat * 2 ^ 32
  let sector := match o.outs with | z :: _ => z.sector | [] => 0
  let s := (s.setF P.focTorque d (r.torque d)).setReg P.focStat d (o.flags + sector * 1024)
  let s := s.each (r.sets.filter (·.key < 16)) (fun s x => s.setReg P.focIDq x.bridge (pair x.id_ x.iq))
  if r.ovr.isSome then s
  else
    let s := (s.setF P.focRampX d o.foc.x).setReg P.focRefDq d (pair o.foc.idRef o.foc.iqRef)
    let s := s.each (o.outs.filter (·.key < 16)) (fun s z =>
      (s.setReg P.focVDq z.bridge (pair z.vd z.vq)).setReg P.focM z.bridge (clampInt 0 65535 (F32.toFixed z.m 15)).toNat)
    let cnt (s : State) (on : Bool) (id : Nat) : State := if on then s.bump id d top32 else s
    let s := cnt s (bit o.flags 0) P.focIlimCnt
    let s := cnt s (bit o.flags 1) P.focGlimCnt
    cnt s (bit o.flags 2) P.shuntMlimCnt

/-- The compare sets and overrides of the own bridges go to the shadows, and the commit flag is set (R147, R264,
R290). -/
def State.writeShadows (s : State) (d : Nat) (sets : List (Nat × List (Nat × Nat × Nat))) : State :=
  (s.shadowWrite d (fun s => s.each sets (fun s (b, l) =>
    s.each [0, 1, 2] (fun s i =>
      match l[i]? with
      | some (a, b', o) => s.modGen (3 * b + i) (fun x => { x with shA := a, shB := b', shOvr := o })
      | none => s)))).setCommit d

/-- One block of a DUTY frame (R461). -/
def dutyBlock (dev b : Nat) (comp : Bool) (l : List (Nat × Nat × Nat)) : List Byte :=
  leBytes 1 dev ++ leBytes 1 b ++ leBytes 1 comp.toNat ++ zeros 1
    ++ (l.map (fun (a, c, o) => leBytes 4 (a + o * 2 ^ 21) ++ leBytes 4 c)).flatten

/-- The DUTY broadcast of a run in time (R461). -/
def State.sendDuty (s : State) (d : Nat) (r : Run) (blocks : List (List Byte)) : State :=
  if s.role d ≠ 2 then s
  else s.broadcast 0x11 (leBytes 4 r.next ++ leBytes 1 d ++ leBytes 1 (s.drv d).asc.toNat ++ leBytes 1 blocks.length ++ zeros 1 ++ blocks.flatten)

/-- Every lent bridge of a home drive: its key, device and bridge. -/
def State.lentSets (s : State) (d : Nat) : List (Nat × Nat × Nat) :=
  if s.role d ≠ 2 then []
  else ((s.gangEntries d).map (fun j => (s.gangBridges j).map (fun b => (16 + 4 * j + b, s.gangDev j, b)))).flatten

/-- Outputs of a run in time: shadows, flags of the interval planned, DUTY (R295, R461). -/
def State.runOutputs (s : State) (d : Nat) (r : Run) (o : LawOut) (ovr : Option Nat) : State :=
  let s := s.setBit P.engStat d 3 false
  if r.test || s.reg P.pwmTestEn d == 1 then s
  else match ovr with
    | some v =>
      let keep (g : Nat) : Nat × Nat × Nat := ((s.gen g).shA, (s.gen g).shB, v)
      let s1 := s.writeShadows d ((s.bridges d).map (fun b => (b, (gensOfBridge b).map keep)))
      let s1 := (s1.modFoc d (fun f => { f with compNext := 0, shNext := 0, eclNext := false })).eclComplete d
      s1.sendDuty d r ((s.lentSets d).map (fun (_, dev, b) => dutyBlock dev b false [(0x1FFFFF, 0x1FFFFF, v), (0x1FFFFF, 0x1FFFFF, v), (0x1FFFFF, 0x1FFFFF, v)]))
    | none =>
      let (s, pat) := match o.outs, r.sets with
        | z :: _, x :: _ => if r.p d P.posSrc = 2 ∧ z.key < 16 then s.eclPlan d r o.foc z x else (s, none)
        | _, _ => (s, none)
      let plain (z : SetOut) : List (Nat × Nat × Nat) := z.cmps.map (fun (a, b) => (a, b, 0))
      let own := o.outs.filter (·.key < 16)
      let sets := (own.zipIdx).map (fun (z, i) => (z.bridge, match i, pat with | 0, some p => p | _, _ => plain z))
      let late2 := r.spp == 2 && !r.plansFirst
      -- the eclipse pattern of the lowest bridge is not shifted (R221)
      let moved := (o.outs.drop (if pat.isSome then 1 else 0)).filter (·.shifted)
      let mask (p : Bool) : Nat := moved.foldl (fun m z => if p && decide (z.key < 16) then putBit m z.bridge true else m) 0
      let s1 := s.writeShadows d sets
      let s1 := if r.plansFirst && !moved.isEmpty then s1.bump P.shuntShiftCnt d top32 else s1
      let s1 := (s1.modFoc d (fun f => { f with compNext := mask late2, shNext := mask true, eclNext := pat.isSome })).eclComplete d
      s1.sendDuty d r ((s.lentSets d).filterMap (fun (key, dev, b) =>
        (o.outs.find? (fun z => z.key == key)).map (fun z => dutyBlock dev b (late2 && z.shifted) (plain z))))

/-- Learning in this sample: the tables, the open visit and the bins updated (R308, R309). -/
def State.learn (s : State) (d : Nat) (r : Run) (f : FocSt) (late : Bool) : State × Bool :=
  let ok := r.mayLearn && !late && f.rampZero.isSome && r.ovr.isNone && r.sets.all (fun x => x.status == Stat.measured || x.status == Stat.eclipse)
  let s := s.setBit P.engStat d 6 ok
  let v := (s.drv d).foc.visit
  let close (s : State) : State :=
    match v with
    | some v => ({ s with rcTab := r.closeVisit d s.rcTab v }).bumpBy P.engRcUpdCnt d top32 2
    | none => s
  let setVisit (s : State) (v : Option (Nat × Nat × F32 × F32)) : State := s.modFoc d (fun g => { g with visit := v })
  if ok then
    let i := r.theta * 256 / 2 ^ 32
    let ed := r.meanErr f false
    let eq := r.meanErr f true
    match v with
    | some (bin, n, a, b) => if bin = i then (setVisit s (some (bin, n + 1, add a ed, add b eq)), ok)
      else (setVisit (close s) (some (i, 1, ed, eq)), ok)
    | none => (setVisit s (some (i, 1, ed, eq)), ok)
  else if late || r.comp != 1 then (setVisit s none, ok)
  else (setVisit (close s) none, ok)

/-- First lane-cycle after the run's last one; none while its input stage waits (R291, R292). -/
def Run.endCycle (r : Run) : Option Nat :=
  match r.start with
  | some c => if r.ready then some (Nat.max c (2 * r.readyAt) + r.cost) else none
  | none => none

/-- The run of drive d has had its last lane-cycle, `e` being the next one. -/
def State.finishRun (s : State) (d : Nat) (r : Run) (e : Nat) : State :=
  let s := s.missDeadline d
  let late := r.late || decide (r.deadline < s.epoch)
  let cyc := e - (r.start.getD e)
  let o := r.law d (s.drv d).foc
  if !o.sound then (s.report K.engNan d s.epoch).discardRun d { r with late := late } e
  else
    let s := s.endRun d e
    let s := (s.setReg P.engCycLast d (Nat.min top16 cyc)).setReg P.engCycMax d (Nat.max (Nat.min top16 cyc) (s.reg P.engCycMax d))
    let s := s.setReg P.engRunCnt d (satInc (2 ^ 64 - 1) (s.reg P.engRunCnt d))
    let f := { o.foc with run := none, rampZero := if bit o.flags 5 then none else some (o.foc.rampZero.getD s.epoch) }
    let s := s.modDrv d (fun x => { x with foc := f, asc := F32.lt (r.regs.f P.focAscSpeed d) (F32.abs r.estimate) })
    let s := s.lawRegs d r o
    let (s, learn) := s.learn d r f late
    let s := s.captureRun d r o cyc late learn
    let softEnd := r.soft && r.ovr.isNone && F32.eq o.foc.idRef 0#32 && F32.eq o.foc.iqRef 0#32
      && !s.fasterThan d (s.f P.focAscSpeed d)
    let s :=
      if late then (if r.ovr.isNone ∧ r.p d P.posSrc = 2 then s.eclLate d r o.foc o.outs else s)
      else s.runOutputs d r o (if softEnd then some 1 else r.ovr)
    if softEnd && (s.drv d).stop.soft.isSome then (s.toStopped d).gangStop d else s

/-- ENG_RUN_FINISH (R295): the run on lane l finishes on the tick of its last lane-cycle. -/
def execEngRunFinish (l : Fin 2) (s : State) : Out :=
  fin (
    match s.onLane l.val with
    | none => s
    | some d =>
      match s.runOf d with
      | none => s
      | some r =>
        match r.endCycle with
        | some e => if s.pwr.mode = .full ∧ s.flt.blk.contains .eng = false ∧ (e - 1) / 2 ≤ s.epoch then s.finishRun d r e else s
        | none => s)

end Sys2Proof.Machine
end

