-- ==== Sys2Proof/Machine/Boundary.lean ====
section
/-! DEFINITION. The reload point: the order of R23 at a sample boundary of a drive, the rules of the drive states
that act there, and the release of the run (R22 to R25, R210 to R215, R242 to R251, R283 to R287, R290 to R297,
R306, R313 to R316; for a member drive R459 and R461). -/

namespace Sys2Proof.Machine

open F32 (add sub mul div neg lt le clamp one)

/-! The interval that ends (R210 to R214). -/

/-- The windows of the interval: those due are delivered, and the rest are too late for it (R26). -/
def State.closeInterval (s : State) (d : Nat) : State :=
  s.each (s.bridges d) (fun s b =>
    let s := s.deliverDue b 64
    let p := s.picker b
    s.setPicker b { p with was := s.intervalFlags d b, closed := p.closed.map (fun w => { w with tooLate := true }) })

/-- The floated phase of a drive's eclipse interval in force. -/
def State.eclFloat (s : State) (d b : Nat) : Option Nat :=
  if (s.drv d).foc.eclInt && s.lowBridge d == b then (List.range 3).find? (fun i => s.reg P.pwmOvr (3 * b + i) == 1) else none

/-- VBUS_b in V (R278); 0 before the first valid sample. -/
def State.vbusOf (s : State) (b : Nat) : F32 := codeVolts ((s.checker b).vbus.getD 0)

/-- What each own bridge gives to the sample: status and measured phase currents (R211, R212). -/
def State.rawSets (s : State) (d : Nat) : List SetIn :=
  (s.bridges d).map (fun b =>
    let (st, u, v, w) := s.reconstruct b (s.eclFloat d b) (bit (s.drv d).foc.compInt b)
    { key := b, bridge := b, status := st, iu := u, iv := v, iw := w, vbus := s.vbusOf b })

/-- The windows of the interval are used up, or discarded with it (R215). -/
def State.dropWindows (s : State) (d : Nat) : State :=
  s.each (s.bridges d) (fun s b => s.setPicker b { s.picker b with delivered := [] })

/-- SHUNT.STAT and SHUNT.I_PHASE of the sample (R213, R225). -/
def State.putCurrents (s : State) (l : List SetIn) : State :=
  s.each l (fun s x =>
    (((s.setReg P.shuntStat x.bridge x.status).setF P.shuntIPhase (3 * x.bridge) x.iu).setF P.shuntIPhase (3 * x.bridge + 1) x.iv).setF
      P.shuntIPhase (3 * x.bridge + 2) x.iw)

/-- What heated the switches of each half-bridge in the interval (R375 to R377): the currents and voltage follow. -/
def State.heatKinds (s : State) (d : Nat) : List (Nat × LossKind) := (s.gensOf d).map (fun g => (g, s.lossKind d g 0#32 0#32))

/-- The loss accumulators take the interval with the phase currents at hand. -/
def State.heat (s : State) (l : List (Nat × LossKind)) : State :=
  s.each l (fun s (g, k) => s.lossUpdate g (match k with
    | .switching _ _ => .switching (s.f P.shuntIPhase g) (s.vbusOf (g / 3))
    | k => k))

/-! The load (steps 1 and 2 of R23). -/

/-- The checker requests of an eclipse interval that starts now: the low zero before the first rising edge, and the
high zero after the second (R243). -/
def State.pushEclReqs (s : State) (d : Nat) : State :=
  let x := s.drv d
  let b := s.lowBridge d
  match s.eclFloat d b with
  | none => s
  | some ph =>
    if x.ecl.win.isNone then s
    else
      let base := x.car.cnt * 32
      let stop := if x.car.spp = 2 ∧ x.car.cnt = 0 then x.car.half * 32 else x.car.len * 32
      let cs := ([0, 1, 2].filter (fun i => i != ph)).map (fun i => s.reg P.pwmCmpa (3 * b + i))
      let a := Nat.min (Nat.max base (cs.foldl Nat.min stop)) stop
      let z := Nat.min (Nat.max base (cs.foldl Nat.max 0)) stop
      let at_ (f : Nat) : Nat := s.epoch + (f - base) / 32
      let reqs : List EclReq := [⟨d, ph, true, s.epoch, at_ a⟩, ⟨d, ph, false, at_ z, at_ stop⟩]
      let c := s.checker b
      s.setChecker b { c with reqs := c.reqs ++ reqs }

/-- Step 1 of R23 with what depends on it: the flags of the interval, the eclipse window, the gates, and the tick from
which a fixed override is in force. -/
def State.reload (s : State) (d : Nat) : State × Bool :=
  let was := s.requested d
  let (s, loaded) := s.loadSet d
  let s := s.modDrv d (fun x =>
    let f := x.foc
    { x with car := { x.car with lastReload := some s.epoch },
             foc := if loaded then { f with compInt := f.compNext, shInt := f.shNext, eclInt := f.eclNext, boundary := s.epoch }
                    else { f with boundary := s.epoch } })
  let s := s.eclReload d loaded (s.drv d).foc.eclInt
  let s := (s.pushEclReqs d).reloadGates d was
  let s := match s.fixedOvr d with
    | some o =>
      if (s.drv d).inForce.isNone && (s.gensOf d).all (fun g => s.reg P.pwmOvr g == o) then
        s.modDrv d (fun x => { x with inForce := some s.epoch })
      else s
    | none => s
  (s, loaded)

/-! Step 3 of R23. -/

/-- A pending ENG_SWAP lands, and its response is written (R304). -/
def State.landSwap (s : State) (d : Nat) : State :=
  match (s.drv d).foc.swap with
  | none => s
  | some (copy, cmd) =>
    let s := (s.swapBanks d copy).modFoc d (fun f => { f with swap := none })
    match cmd with
    | some c => s.respond c St.ok 0xFFFF (leBytes 8 s.epoch ++ leBytes 1 (s.reg P.engBank d % 2))
    | none => s

/-- ENG.RC_CTL.CLEAR: the drive's tables become 0 (R310). -/
def State.clearTables (s : State) (d : Nat) : State :=
  if (s.drv d).foc.rcClear then
    ({ s with rcTab := s.rcTab.filter (fun (k, _) => k / 512 != d) }).modFoc d (fun f => { f with rcClear := false })
  else s

/-- Pairs, commits, swaps and clears that take effect at this boundary. -/
def State.takeEffects (s : State) (d : Nat) (loaded : Bool) : State :=
  ((((s.takeDueWaiting d loaded).commitTaken d).landSwap d).clearTables d)

/-! Rules of the drive states at a boundary. -/

/-- ω lies below ECL_W_MIN, with source `eclipse`; the tick since which it does (R247). -/
def State.watchLow (s : State) (d : Nat) : State :=
  let low := s.reg P.posSrc d == 2 && lt (F32.abs (s.drv d).trk.omega) (s.ratedW d (s.reg P.posEclWMin d))
  s.modDrv d (fun x => { x with ecl := { x.ecl with lowSince := if low then some (x.ecl.lowSince.getD s.epoch) else none } })

/-- The condition of R247 holds. -/
def State.tooSlow (s : State) (d : Nat) : Bool :=
  match (s.drv d).ecl.lowSince with
  | some t => decide (t + msTicks (s.reg P.posZeroTmo d) ≤ s.epoch)
  | none => false

/-- The last OL_HANDOVER decided windows have all yielded crossings (R250). -/
def State.okWindows (s : State) (d : Nat) : Bool := decide (s.reg P.posOlHandover d ≤ (s.drv d).ecl.okRun)

/-- Handover from the open-loop frame is due (R250). -/
def State.handsOver (s : State) (d : Nat) : Bool :=
  let x := s.drv d
  let w := x.foc.olW
  let tol := mul (F32.ofRatio false (s.reg P.posOlWTol d) 100) (F32.abs w)
  x.phase == .openLoop && le (s.ratedW d (s.reg P.posOlWEnd d)) (F32.abs w) && s.okWindows d
    && le (F32.abs (sub x.trk.omega w)) tol

/-- Ends of the phases of a stop and of `soft_off` at a boundary (R283, R284, R287). -/
def State.stopRules (s : State) (d : Nat) : State :=
  let x := s.drv d
  let slow := !s.fasterThan d (s.f P.focStopSpeed d)
  if x.stop.soft.isSome && s.fasterThan d (s.f P.focAscSpeed d) then (s.enterShort d)
  else if x.phase = .stopping ∧ x.stop.ph = .ramp ∧ x.stop.soft.isNone then
    (if F32.eq x.foc.x 0#32 || (s.reg P.focCtrl d == 1 && slow) || s.tooSlow d then s.shortOrOff d else s)
  else if x.phase = .stopping ∧ x.stop.ph = .short ∧ x.stop.listen = false ∧ s.shortTracked d = true ∧ s.role d ≠ 3 ∧ slow = true then
    s.toStopped d
  else s

/-- Handover, and the ends of a start at a boundary (R247, R250, R251, R258). -/
def State.startRules (s : State) (d : Nat) : State :=
  let s :=
    if (s.drv d).stop.byAction then s
    else if s.handsOver d then s.enterRunning d (s.drv d).start.decision 2
    else if (s.drv d).phase = .running ∧ s.tooSlow d = true then
      (if s.reg P.posStart d = 1 then
        s.modDrv d (fun x => { x with ecl := { x.ecl with useHall := true, okRun := 0, lowSince := none } })
       else
        (s.setPhase d .openLoop).modDrv d (fun x => { x with
          foc := { x.foc with olTheta := s.angleAt d s.nowF x.trk.omega, olW := x.trk.omega }, ecl := { x.ecl with okRun := 0, lowSince := none } }))
    else if (s.drv d).phase = .running ∧ s.reg P.posSrc d = 2 ∧ s.reg P.posStart d = 1 ∧ s.okWindows d = true then
      s.modDrv d (fun x => { x with ecl := { x.ecl with useHall := false } })
    else s
  if (s.drv d).phase = .running ∧ (s.drv d).start.pendRun = true then s.endStart d St.ok s.epoch 0 else s

/-! Injection and capture (R314 to R316). -/

/-- An instant lies at or after the tick whose low word is given (R44, R314). -/
def reached32 (p t : Nat) : Bool := decide (0 ≤ toSigned 32 ((p % 2 ^ 32 + 2 ^ 32 - t % 2 ^ 32) % 2 ^ 32))

/-- Stages of the feedback of an N-bit register (R314). -/
def prbsTaps (n : Nat) : List Nat :=
  match n with
  | 7 => [7, 6] | 8 => [8, 6, 5, 4] | 9 => [9, 5] | 10 => [10, 7] | 11 => [11, 9] | 12 => [12, 11, 10, 4]
  | 13 => [13, 12, 11, 8] | 14 => [14, 13, 12, 2] | _ => [15, 14]

/-- One advance of the register: stage 1 is bit 0, and takes the sum of the tapped stages. -/
def prbsStep (n v : Nat) : Nat :=
  (v * 2 + (prbsTaps n).foldl (fun a k => (a + (bit v (k - 1)).toNat) % 2) 0) % 2 ^ n

/-- A number of turns as an angle. -/
def turnsOf (x : F32) : Nat := if F32.finite x then ((F32.toUnits x * (2 ^ 32 : Nat) / (2 ^ 149 : Nat)) % (2 ^ 32 : Nat)).toNat else 0

/-- The value at sample k (R314). -/
def InjSet.value (i : InjSet) (k lfsr : Nat) (tSmp : F32) : F32 :=
  let t := mul (F32.ofNat k) tSmp
  match i.wave with
  | 0 => mul i.amp (sinTurn (turnsOf (mul i.f0 t)))
  | 1 =>
    let td := mul (F32.ofNat i.dur) tSmp
    mul i.amp (sinTurn (turnsOf (add (mul i.f0 t) (div (mul (mul (sub i.f1 i.f0) t) t) (mul F32.two td)))))
  | _ => if bit lfsr (i.prbsN - 1) then i.amp else neg i.amp

/-- The injection ends: INJ_DONE, and RC_HOLD counts (R306, R315). -/
def State.injEnd (s : State) (d : Nat) : State :=
  let i := (s.drv d).foc.inj
  (s.event .other 0x5510 0 d s.epoch (leBytes 8 i.last ++ leBytes 4 i.k)).modFoc d (fun f =>
    { f with inj := { f.inj with act := none, k := 0 }, holdFrom := s.epoch })

/-- The active injection has had its DUR samples (R315). -/
def InjSt.full (i : InjSt) : Bool := match i.act with | some p => p.dur != 0 && decide (p.dur ≤ i.k) | none => false

/-- The injection at a boundary: what is injected in this sample, with its point; whether one starts here. -/
def State.injBoundary (s : State) (d : Nat) : State × Option (Nat × F32) × Bool :=
  -- an injection that has had its DUR samples ends before another one can take its place
  let s := if (s.drv d).foc.inj.full then s.injEnd d else s
  let i := (s.drv d).foc.inj
  if (s.drv d).phase ≠ .running then
    let s := if i.act.isSome then s.injEnd d else s
    (s.modFoc d (fun f => { f with inj := { f.inj with pend := none } }), none, false)
  else
    let (s, started) : State × Bool :=
      match i.pend with
      | some p =>
        if p.at_ && !reached32 s.epoch p.start then (s, false)
        else if p.point = 0 then
          let s := if i.act.isSome then s.injEnd d else s
          (s.modFoc d (fun f => { f with inj := { f.inj with pend := none } }), false)
        else (s.modFoc d (fun f => { f with inj := { f.inj with pend := none, act := some p, k := 0, lfsr := 2 ^ p.prbsN - 1 } }), true)
      | none => (s, false)
    let i := (s.drv d).foc.inj
    match i.act with
    | none => (s, none, started)
    | some p =>
      let lfsr := if i.k ≠ 0 ∧ i.k % p.prbsDiv = 0 then prbsStep p.prbsN i.lfsr else i.lfsr
      let c := (s.drv d).car
      let v := p.value i.k lfsr (F32.ofRatio false c.per (200000000 * c.spp))
      (s.modFoc d (fun f => { f with inj := { f.inj with k := i.k + 1, lfsr := lfsr, last := s.epoch } }), some (p.point, v), started)

/-- An armed capture starts at this boundary (R316). -/
def State.captureBoundary (s : State) (d : Nat) (injStarts : Bool) : State :=
  match (s.drv d).foc.cap with
  | some c =>
    if c.active || c.ended.isSome then s
    else if c.trig = 0 ∨ (c.trig = 1 ∧ injStarts = true) ∨ (c.trig = 2 ∧ reached32 s.epoch c.start = true) then
      s.modFoc d (fun f => { f with cap := some { c with active := true, since := s.epoch, runs := 0 } })
    else s
  | none => s

/-! Host values and reports (R125 to R130). -/

/-- The tracker at this boundary: a host entry steers it, or it is carried forward (R235, R237). -/
def State.angleBoundary (s : State) (d : Nat) (u : HaUsed) (skipped : Bool) : State × Bool :=
  if s.hostMode P.posAngMode d && !skipped then
    let hw := (BitVec.ofNat 32 (s.angleAt d s.nowF (s.drv d).trk.omega), (s.drv d).trk.omega)
    let (s, v, fb) := s.hostValue d 1 u hw
    let s := match v, Smap.get (fun _ => none) u 1 with
      | some (a, b), some _ => s.hostAngle d a.toNat b
      | _, _ => s
    (s.trackBoundary d, fb)
  else (s.trackBoundary d, false)

/-- Host values of the given KINDs, and the mask of those that fell back (R129, R130). -/
def State.hostValues (s : State) (d : Nat) (u : HaUsed) (ks : List Nat) : State × Smap (Option (Word × Word)) × Nat :=
  ks.foldl (fun (s, m, fb) k =>
    let f := (s.drv d).foc
    let y := f.set (s.lowBridge d)
    let hw : Word × Word := if k = 2 then (y.vd, y.vq) else (f.idRef, if k = 3 then f.iqRef else 0#32)
    let (s, v, back) := s.hostValue d k u hw
    match v with
    | some p => (s, Smap.set (fun _ => none) m k (some p), if back then putBit fb k true else fb)
    | none => (s, m, fb)) (s, [], 0)

/-- Tick of the drive's next boundary as scheduled now (R127, R295). -/
def Carrier.nextReload (c : Carrier) (now : Nat) : Nat :=
  if c.spp = 2 ∧ c.cnt = 0 then now + c.half else now + (c.len - c.cnt)

/-- Report entries of the sample on the drive's `to_host` rings (R127). -/
def State.haReport (s : State) (d : Nat) (idq : Word × Word) : State :=
  let x := s.drv d
  let b := s.lowBridge d
  let rings := (List.range' 8 8).filter (fun r => s.ringOut r && s.haDrive r == d)
  let next := x.car.nextReload s.epoch
  s.each rings (fun s r =>
    let out := bits (s.reg P.hostHaBind r) 3 2
    let v := s.reg P.focVDq b
    let (k, lo, hi) : Nat × Nat × Nat :=
      if out = 0 then (0x81, idq.1.toNat, idq.2.toNat)
      else if out = 1 then (0x82, s.reg P.posAngle d, x.trk.omega.toNat)
      else if out = 2 then (0x83, v % 2 ^ 32, v / 2 ^ 32)
      else (0x84, (s.vbusOf b).toNat, x.trk.omega.toNat)
    let n := (s.ring r).seqOut
    let entry := leBytes 4 next ++ leBytes 1 k ++ leBytes 1 d ++ leBytes 2 n ++ leBytes 4 lo ++ leBytes 4 hi
    let count (s : State) : State := s.setRing r { s.ring r with seqOut := (n + 1) % 2 ^ 16 }
    -- with SRC = 1 the entry leaves for NODE as an HA frame (R456)
    if bit (s.reg P.hostHaBind r) 2 then
      count (s.sendTo 0x20 (bits (s.reg P.hostHaBind r) 8 8) false (leBytes 1 r ++ zeros 3 ++ entry))
    else if s.ringFree r = 0 then s.bump P.hostRingDrop r top32
    else count (s.putRecord r entry))

/-! The release of the run (step 4 of R23). -/

/-- Compensation mode at this boundary (R306). -/
def State.compMode (s : State) (d : Nat) (start injecting : Bool) : Nat :=
  let x := s.drv d
  let hold := msTicks (s.reg P.engRcHold d)
  if s.hostMode P.focCurMode d then 0
  else if bit (s.reg P.engRcCtl d) 0 = false then 2
  else if start || (match x.runAt with | some t => decide (s.epoch < t + hold) | none => false) then 2
  else if injecting || s.action d != 0 || x.stop.soft.isSome || x.phase == .stopping || decide (x.foc.holdFrom ≠ 0 ∧ s.epoch < x.foc.holdFrom + hold) then 2
  else 1

/-- START's frame at this boundary and its references (R248, R249). -/
def State.startFrame (s : State) (d : Nat) : Nat × F32 × F32 × F32 :=
  let x := s.drv d
  let rated (n : Nat) : F32 := mul (F32.ofRatio false n 1000) (s.f P.focIRated d)
  if x.phase = .align then
    let t := s.epoch - x.since
    let q := msTicks (s.reg P.posAlignT d)
    let k := if q ≤ 4 * t then one else F32.ofRatio false (4 * t) q
    (turn16 (s.reg P.posAlignAng d), 0#32, mul k (rated (s.reg P.posAlignI d)), 0#32)
  else (x.foc.olTheta, x.foc.olW, 0#32, rated (s.reg P.posOlI d))



/-- The run of this boundary (R290, R294, R295). -/
def State.makeRun (s : State) (d : Nat) (raw : List SetIn) (inj : Option (Nat × F32)) (host : Smap (Option (Word × Word))) (fb : Nat) : Run :=
  let x := s.drv d
  let c := x.car
  let start := x.phase == .align || x.phase == .openLoop
  let (θs, ωs, rd, rq) := s.startFrame d
  let θ := if start then θs else s.reg P.posAngle d
  let ω := if start then ωs else x.trk.omega
  let sets := raw.map (fun y => SetIn.fill y (x.foc.set y.key) (s.r.fullScale y.bridge) (s.r.setAngle y.key y.bridge θ))
  let comp := s.compMode d start inj.isSome
  let next := c.nextReload s.epoch
  let waits := s.role d == 2 && x.start.gangOn && !(s.members d).isEmpty
  let mayLearn := comp == 1 && !s.hostMode P.engRcMode d && le (s.ratedW d (s.reg P.engRcSpeedMin d)) (F32.abs ω)
    && (match x.foc.rampZero with | some t => decide (t + msTicks (s.reg P.engRcSettle d) ≤ s.epoch) | none => false)
    && !x.foc.limited
  { boundary := s.epoch, next := next, per := c.per, spp := c.spp, deadline := next - s.r.loadMargin d,
    prog := if start then 2 else if s.r.nSets d ≤ 1 then 0 else 1,
    regs := s.r, theta := θ, omega := ω, sets := sets, comp := comp,
    injOn := inj.isSome, inj := (inj.map (·.2)).getD 0#32, injPoint := (inj.map (·.1)).getD 0, host := host, fb := fb,
    init := x.foc.init, rot := (x.foc.olTheta + 2 ^ 32 - s.reg P.posAngle d) % 2 ^ 32,
    plansFirst := c.spp == 1 || c.cnt != 0, ovr := s.fixedOvr d, test := s.reg P.pwmTestEn d == 1,
    toZero := x.stop.ph == StopPh.ramp, soft := x.stop.soft.isSome, derate := s.derated d, lossBrake := x.phase == .lossBrake,
    iTherm := s.iTherm d, pBus := s.f P.busPBus d, iLb := s.f P.busILb d, refD := rd, refQ := rq,
    openLoop := x.phase == .openLoop, estimate := x.trk.omega, rc := s.rcTab.filter (fun (k, _) => k / 512 == d), mayLearn := mayLearn,
    cost := if start then 1000 + (if s.reg P.posSrc d = 2 then 120 else 0) else s.r.focCost d,
    lane := s.reg P.engLane d, ready := !waits }

/-- The run is released to its lane; ENG.STAT shows it (R290, R293). -/
def State.releaseRun (s : State) (d : Nat) (r : Run) : State :=
  let v := s.reg P.engStat d
  let st := (v &&& 0x48) + (r.prog + 1) + r.lane * 4 + r.comp * 16 + r.injOn.toNat * 128
  let s := (s.setReg P.engStat d st).modFoc d (fun f => { f with run := some r, init := 0 })
  s.dispatch r.lane

/-! The boundary of a drive that computes. -/

/-- A skipped sample: the previous run has not finished (R211, R215, R246, R297). -/
def State.skipSample (s : State) (d : Nat) (raw : List SetIn) (heat : List (Nat × LossKind)) : State :=
  let s := (s.missDeadline d).bump P.engSkipCnt d top32
  let s := s.each raw (fun s x => s.setReg P.shuntStat x.bridge x.status)
  let s := (s.dropWindows d).heat heat
  let (s, u) := s.takeEntries d s.epoch true
  let (s, _) := s.angleBoundary d u true
  let s := s.takeAction d
  let (s, _, started) := s.injBoundary d
  let s := s.captureBoundary d started
  let s := s.modFoc d (fun f => { f with cap := f.cap.map (fun c => { c with skip := c.skip || c.active }) })
  let s := s.eclMissed d
  let idq := match s.runOf d with
    | some r => (match r.sets.head? with | some x => (x.id_, x.iq) | none => (0#32, 0#32))
    | none => (0#32, 0#32)
  s.haReport d idq

/-- A sample with a run. -/
def State.runSample (s : State) (d : Nat) (raw : List SetIn) (heat : List (Nat × LossKind)) : State :=
  let s := s.dropWindows d
  let (s, u) := s.takeEntries d s.epoch false
  let (s, fbA) := s.angleBoundary d u false
  let s := (s.watchLow d).takeAction d
  let s := (s.stopRules d).startRules d
  let (s, inj, started) := s.injBoundary d
  let s := s.captureBoundary d started
  let start := (s.drv d).phase == .align || (s.drv d).phase == .openLoop
  let ks := if (s.fixedOvr d).isSome then [] else if start then [2] else [2, 3, 4]
  -- each function in `host` mode counts its late samples, whether this run uses its value or not (R129)
  let (s, host, fb) := s.hostValues d u [2, 3, 4]
  let host := host.filter (fun p => ks.contains p.1)
  let fb := putBit fb 1 fbA
  let s := if fb ≠ 0 then s.modFoc d (fun f => { f with holdFrom := s.epoch }) else s
  let r := s.makeRun d raw inj host fb
  let s := (s.putCurrents r.sets).heat heat
  let s := if r.ready then s.countMiss d r.sets else s
  let s := s.haReport d (match r.sets.head? with | some x => (x.id_, x.iq) | none => (0#32, 0#32))
  (s.releaseRun d r).gangStop d

/-! The boundary of a member drive (R459, R461, R462). -/

/-- The two records of one lent bridge in a REPORT (R459): the combined value of each named phase. -/
def State.reportRecords (s : State) (b : Nat) : List Byte :=
  let ws := (s.picker b).delivered
  let all := [0, 1, 2].filterMap (fun i => (s.combine b i ws).map (fun v => (i, v)))
  -- of three named phases, the one with the fewest samples is left out (R212)
  let fewest := all.foldl (fun a (x : Nat × F32 × Nat × Nat) => match a with
    | some (y : Nat × F32 × Nat × Nat) => if x.2.2.1 < y.2.2.1 ∨ (x.2.2.1 = y.2.2.1 ∧ x.2.2.2 < y.2.2.2) then some x else some y
    | none => some x) none
  let two := if all.length = 3 then all.filter (fun x => match fewest with | some y => x.1 != y.1 | none => true) else all
  let one_ (x : Option (Nat × F32 × Nat × Nat)) : List Byte :=
    match x with
    | some (i, v, n, t) =>
      -- the flags are those of the last window combined (assumption log 109)
      let w := (namedBy i ws).find? (fun w => w.close == t)
      leBytes 8 (t / 32) ++ leBytes 4 v.toNat ++ leBytes 1 (2 ^ (2 - i)) ++ leBytes 1 (Nat.min n 255)
        ++ leBytes 1 ((w.map Window.flags).getD 1) ++ leBytes 1 ((w.map (fun w => w.bridgeByte b)).getD b)
    | none => zeros 16
  one_ two[0]? ++ one_ two[1]?

/-- The REPORT of a member drive at this boundary (R459). -/
def State.memberReport (s : State) (d : Nat) (raw : List SetIn) (recs : List (Nat × List Byte)) : State :=
  let n := s.reg P.busGroup (s.lowBridge d)
  let g := s.grp n
  let act := s.action d
  let low := (s.bridges d).foldl (fun a b => F32.min a ((Smap.get (fun _ => none) s.therm.fb b).getD one)) one
  let chop := [0, 1].any (fun c => s.chopGroup c == n && s.chopFail c)
  let blocks := raw.map (fun x =>
    leBytes 1 x.bridge ++ leBytes 1 x.status ++ zeros 2 ++ leBytes 4 x.vbus.toNat
      ++ (match recs.find? (fun p => p.1 == x.bridge) with | some p => p.2 | none => zeros 32))
  let home := s.reg P.linkHome d
  s.sendTo 0x10 (bits home 0 8) false
    (leBytes 4 s.epoch ++ leBytes 1 (bits home 8 2) ++ leBytes 1 (act + g.ov4Latch.toNat * 4 + chop.toNat * 8)
      ++ leBytes 2 (F32.toFixed low 15).toNat ++ leBytes 4 (match g.hi with | some h => (codeVolts h).toNat | none => 0) ++ zeros 4
      ++ blocks.flatten)

/-- A reload point without a DUTY since the last counts, up to LINK.DUTY_MAX (R461). -/
def State.dutyWatch (s : State) (d : Nat) : State :=
  if (s.drv d).phase = .stopped then s
  else
    let got := Smap.get (fun _ => false) s.link.dutyIn d
    let n := if got then 0 else Smap.get (fun _ => 0) s.link.dutyRun d + 1
    let hit := decide (s.reg P.linkDutyMax 0 ≤ n)
    let s := { s with link := { s.link with dutyIn := Smap.set (fun _ => false) s.link.dutyIn d false,
                                            dutyRun := Smap.set (fun _ => 0) s.link.dutyRun d (if hit then 0 else n) } }
    if hit then s.report K.linkLate d s.epoch else s

/-- A fixed override of the member drive's state goes to the shadows, where neither the set in force nor a committed
one carries it: it governs from the next reload point (R147, R149, R462). -/
def State.memberOverride (s : State) (d : Nat) : State :=
  match s.fixedOvr d with
  | some o =>
    let next (g : Nat) : Nat := if (s.drv d).car.commit then (s.gen g).shOvr else s.reg P.pwmOvr g
    if s.reg P.pwmTestEn d = 1 ∨ (s.gensOf d).all (fun g => next g == o) = true then s
    else (s.shadowWrite d (fun s => s.each (s.gensOf d) (fun s g => s.modGen g (fun x => { x with shOvr := o })))).setCommit d
  | none => s

/-- A member runs no program that replaces the currents of a `carried` or `predicted` bridge: its last ones stay
(R213, assumption log 110). -/
def State.heldCurrents (s : State) (l : List SetIn) : List SetIn :=
  l.map (fun x =>
    if x.status = Stat.carried ∨ x.status = Stat.predicted then
      { x with iu := s.f P.shuntIPhase (3 * x.bridge), iv := s.f P.shuntIPhase (3 * x.bridge + 1),
               iw := s.f P.shuntIPhase (3 * x.bridge + 2) }
    else x)

/-- The reload point of a member drive. -/
def State.memberBoundary (s : State) (d : Nat) : State :=
  let s := s.closeInterval d
  let raw := s.rawSets d
  let recs := (s.bridges d).map (fun b => (b, s.reportRecords b))
  let heat := s.heatKinds d
  let (s, loaded) := s.reload d
  let s := ((s.takeDueWaiting d loaded).commitTaken d).dropWindows d
  let s := (s.putCurrents (s.heldCurrents raw)).heat heat
  let s := ((s.takeAction d).dutyWatch d).memberOverride d
  if (s.drv d).phase = .stopped then s else s.memberReport d raw recs

/-- The reload point of a computing drive. -/
def State.homeBoundary (s : State) (d : Nat) : State :=
  let s := s.closeInterval d
  let raw := s.rawSets d
  let heat := s.heatKinds d
  let (s, loaded) := s.reload d
  let s := s.takeEffects d loaded
  -- each sample with I_LB > 0 counts (R362)
  let s := if lt 0#32 (s.f P.busILb d) then s.bump P.busLbCnt d top32 else s
  if (s.runOf d).isSome then s.skipSample d raw heat else s.runSample d raw heat

/-- RELOAD_POINT (R22, R23). -/
def execReloadPoint (d : Fin 4) (s : State) : Out :=
  fin (
    if !s.atReloadPoint d.val then s
    else if s.role d.val = 3 then s.memberBoundary d.val
    else if s.computes d.val then s.homeBoundary d.val
    else s)

end Sys2Proof.Machine
end

