-- ==== Sys2Proof/Machine/Engine.lean ====
section
/-! DEFINITION. The engine's commands: transit capture and test injection (R313, R316). -/

namespace Sys2Proof.Machine

/-- CAPTURE_ARM (R316). -/
def bodyCaptureArm (s : State) (c : Cmd) (pl : List Byte) : State × Reply :=
  let d := c.inst
  let kind := fieldAt pl 0 1
  let n := s.r.nSets d
  let sigs := [4, 5, 6, 7].map (fun i => fieldAt pl i 1)
  let badSig (v : Nat) : Bool := v != 0xFF && (decide (19 < v % 64) || decide (n ≤ v / 64))
  if 3 < d then (s, .refuse St.badInst)
  else if pl.length ≠ 16 then (s, .refuse St.length)
  else if !s.computes d || !s.ringOut (18 + d) || s.ringEsize (18 + d) == 16 then (s, .refuse St.badState)
  else if 1 < kind ∨ 2 < fieldAt pl 1 1 ∨ fieldAt pl 8 2 = 0
      ∨ sigs.any badSig = true ∨ (kind = 0 ∧ fieldAt pl 2 1 = 0) ∨ (kind = 1 ∧ n ≤ fieldAt pl 3 1) then (s, .refuse St.range)
  else
    let cap : Capture :=
      { cmd := c, kind := kind, trig := fieldAt pl 1 1, decim := fieldAt pl 2 1, set := fieldAt pl 3 1, sigs := sigs,
        count := fieldAt pl 8 2, start := fieldAt pl 12 4 }
    (s.modDrv d (fun x => { x with foc := { x.foc with cap := some cap } }), .deferred)

def execCaptureArm (h : Hdr) (pl : List Byte) (s : State) : Out := runCommand h 0x1502 pl s bodyCaptureArm

/-- Limit of |AMP| by POINT (R313). -/
def State.injLimit (s : State) (d point : Nat) : F32 :=
  if point = 1 ∨ point = 2 then s.f P.focIMax d
  else if point = 3 ∨ point = 4 then F32.ofNat 100
  else s.f P.focWMax d

/-- A frequency of an injection lies between 0 and half the drive's sample rate (R313). -/
def State.injFreqOk (s : State) (d : Nat) (f : F32) : Bool :=
  F32.le 0#32 f && F32.le f (F32.ofRatio false (100000000 * s.reg P.engSpp d) (s.reg P.pwmPeriod d))

/-- INJECT_SET (R313). -/
def bodyInjectSet (s : State) (c : Cmd) (pl : List Byte) : State × Reply :=
  let d := c.inst
  let point := fieldAt pl 0 1
  let w (i : Nat) : F32 := BitVec.ofNat 32 (fieldAt pl i 4)
  let wave := fieldAt pl 1 1
  let dur := fieldAt pl 20 4
  if 3 < d then (s, .refuse St.badInst)
  else if pl.length ≠ 28 then (s, .refuse St.length)
  else if (s.drv d).phase ≠ .running ∨ (point = 5 ∧ s.reg P.focCtrl d = 0) then (s, .refuse St.badState)
  else if 5 < point ∨ 2 < wave ∨ (point ≠ 0 ∧ F32.le (F32.abs (w 8)) (s.injLimit d point) = false)
      ∨ s.injFreqOk d (w 12) = false ∨ s.injFreqOk d (w 16) = false
      ∨ fieldAt pl 4 1 < 7 ∨ 15 < fieldAt pl 4 1 ∨ fieldAt pl 5 1 = 0 ∨ (wave = 1 ∧ dur = 0) then (s, .refuse St.range)
  else
    let i : InjSet :=
      { point := point, wave := wave, at_ := bit (fieldAt pl 2 1) 0, prbsN := fieldAt pl 4 1, prbsDiv := fieldAt pl 5 1,
        amp := w 8, f0 := w 12, f1 := w 16, dur := dur, start := fieldAt pl 24 4 }
    (s.modDrv d (fun x => { x with foc := { x.foc with inj := { x.foc.inj with pend := some i } } }), .ok [])

def execInjectSet (h : Hdr) (pl : List Byte) (s : State) : Out := runCommand h 0x1503 pl s bodyInjectSet

end Sys2Proof.Machine
end

