-- ==== Sys2Proof/Machine/Validate.lean ====
section
/-! DEFINITION. Commit validation: the checks of R111 over the configuration with its staged writes laid over it
(R110, R120, R154, R192, R201, R219, R222, R227, R247, R281, R300, R301, R324, R327, R340, R358, R360, R381, R402, R424,
R417, R457, R463, R501, R505, R528). -/

namespace Sys2Proof.Machine

/-! The laid configuration (R110). -/

/-- The order in which a commit's pairs are applied: writes in staging order, then swaps (R113, R115). -/
def Staged.isSwap : Staged → Bool | .swap _ _ => true | _ => false
def applyOrder (l : List Staged) : List Staged := l.filter (fun x => !x.isSwap) ++ l.filter Staged.isSwap

/-- One pair laid over a register file. Table entries are held elsewhere, and ENG.RC_CTL.CLEAR is not kept. -/
def Regs.lay (r : Regs) : Staged → Regs
  | .write id i _ v =>
    match paramRow id with
    | some row =>
      let v := v &&& row.mask
      if id = P.engRcTab then r
      else if id = P.engRcCtl then r.set id i (v % 4)
      else if id = P.hostRingCfg ∧ cfgEn (r.get id i) = true then r.set id i (putBit (r.get id i) 31 (bit v 31))
      else if row.banked then r.setInactive id i v else r.set id i v
    | none => r
  | .swap d copy => r.swap d copy

/-- The running configuration with the pairs that accepted commits have left waiting, and then the staged pairs,
laid over it. -/
def State.laid (s : State) (l : List Staged) : Regs :=
  (applyOrder l).foldl Regs.lay ((s.txn.waiting.map (·.item)).foldl Regs.lay s.r)

/-- One offence: the drive under which it is found (4 where no drive owns the parameter), its place among that
drive's instances, the status, and the parameter named (R111), with its page for ENG.RC_TAB (R528). -/
structure Viol where
  drive : Nat
  sub : Nat
  status : Nat
  id : Nat
  inst : Nat
  page : Nat := 0
  deriving DecidableEq, Repr

/-- The first offence in the order of R111: drives in order, and within a drive instances in ascending order; among
equals the one that the chapters state first. -/
def firstViol (l : List Viol) : Option Viol :=
  l.foldl (fun m v => match m with
    | some w => if v.drive < w.drive ∨ (v.drive = w.drive ∧ v.sub < w.sub) then some v else some w
    | none => some v) none

/-- An offence of drive d, found where the condition holds. -/
def offence (c : Bool) (d sub status id inst : Nat) (page : Nat := 0) : List Viol :=
  if c then [⟨d, sub, status, id, inst, page⟩] else []

/-- The drive under which a bridge's parameters are examined. -/
def Regs.under (r : Regs) (b : Nat) : Nat := (r.ownerOf b).getD 4

/-! Check 1. -/

/-- The drives that a staged pair needs stopped, in the running configuration and in the laid one (R20, R136, R152,
R154, R300 and the Access columns). -/
def Regs.needStopped (run laid : Regs) (id i : Nat) : List Nat :=
  match paramRow id with
  | none => []
  | some row =>
    let changed := run.get id i != laid.get id i
    let both (f : Regs → Option Nat) : List Nat := (f run).toList ++ (f laid).toList
    let owners (bs : List Nat) : List Nat := (bs.map (fun b => both (fun r => r.ownerOf b))).flatten
    if id = P.sysDrvMap then (if changed then [i] else [])
    else if id = P.pwmSyncMode then (if changed then [i] else [])
    else if id = P.pwmSyncSrc ∨ id = P.pwmSyncPeriod then
      (if changed then [0, 1, 2, 3].filter (fun d => run.get P.pwmSyncMode d == 1 || laid.get P.pwmSyncMode d == 1) else [])
    else match row.stop with
      | .drive => [i]
      | .owner => owners [i]
      | .die => owners (dieBridges (i - 1))
      | .ilGroup => owners ((setBits 12 (run.get id i ||| laid.get id i)).map (· / 3))
      | .home => both (fun r => r.ownerDrive row i 0)
      | _ => []

def State.check1 (s : State) (laid : Regs) (l : List Staged) : List Viol :=
  (l.map (fun x => match x with
    | .write id i page _ =>
      if id = P.engRcTab then offence (bit (s.reg P.engStat (page / 8)) 6) (page / 8) i St.badState id i page
      else ((s.r.needStopped laid id i).map (fun d => offence (!s.stopped d) d i St.driveRunning id i)).flatten
    | .swap _ _ => [])).flatten

/-! Checks 2 to 7. -/

/-- The bridge sets that a drive may own (R19). -/
def mapOk (d brs : Nat) : Bool :=
  (match d with | 0 => [1, 3, 15] | 1 => [2] | 2 => [4, 12] | _ => [8]).contains brs

def Regs.check2 (r : Regs) : List Viol :=
  ([0, 1, 2, 3].map (fun d =>
    let shared := (r.bridges d).any (fun b => [0, 1, 2, 3].any (fun e => e != d && (r.bridges e).contains b))
    offence (r.role d != 0 && (shared || !mapOk d (bridgesOf (r.get P.sysDrvMap d)))) d d St.range P.sysDrvMap d)).flatten

/-- Some but not all of a group lies in a set of generators. -/
def splits (group set_ : Nat) : Bool := group &&& set_ != 0 && group &&& set_ != group

def Regs.check3 (r : Regs) : List Viol :=
  ((List.range 12).map (fun g =>
    let m := r.get P.pwmIlMap g
    let mem := setBits 12 m
    let bad := !bit m g || mem.any (fun h => r.get P.pwmIlMap h != m)
      || mem.any (fun h => r.under (h / 3) != r.under (g / 3) || h % 3 != g % 3)
      || !List.contains [1, 2, 4] mem.length
      || (List.range 8).any (fun t => bit (r.get P.pwmTripCfg t) 0 && splits m (r.get P.pwmTripMap t))
      || splits m (r.get P.pwmGuardSet 0 % 4096)
    offence bad (r.under (g / 3)) g St.interlock P.pwmIlMap g)).flatten

def Regs.check4 (r : Regs) : List Viol :=
  ((List.range 12).map (fun g =>
    let m := r.get P.gateDtMin (g / 3)
    let d := r.under (g / 3)
    offence (decide (r.get P.pwmDtRise g < m)) d g St.deadTime P.pwmDtRise g
      ++ offence (decide (r.get P.pwmDtFall g < m)) d g St.deadTime P.pwmDtFall g)).flatten

def Regs.check5 (r : Regs) : List Viol :=
  ([0, 1, 2, 3].map (fun d =>
    let fast := r.role d != 0 && decide (r.get P.pwmPeriod d < 2000 * r.get P.engSpp d)
    offence (fast || (r.computes d && !r.laneFits d)) d d St.combination P.engSpp d)).flatten

def Regs.check6 (r : Regs) : List Viol :=
  ([0, 1, 2, 3].map (fun d =>
    let tight (b : Nat) : Bool :=
      decide (r.ts d < r.tQ d + r.tB d + (2 + r.get P.adcChkSlot b) * 320 + 2 * r.dtMax d)
    offence (r.role d != 0 && r.get P.posSrc d == 2 && (r.role d == 3 || (r.bridges d).any tight)) d d
      St.combination P.posSrc d)).flatten

/-- An enabled `to_device` ring in 8 to 15 is bound to the drive (R120). -/
def Regs.haBound (r : Regs) (d : Nat) : Bool :=
  (List.range' 8 8).any (fun q =>
    cfgEn (r.get P.hostRingCfg q) && !cfgDir (r.get P.hostRingCfg q) && bits (r.get P.hostHaBind q) 0 2 == d)

def Regs.check7 (r : Regs) : List Viol :=
  ([0, 1, 2, 3].map (fun d =>
    let host (id : Nat) : Bool := bit (r.get id d) 0
    let free := !r.haBound d
    let bad (c : Bool) (id : Nat) : List Viol := offence c d d St.combination id d
    let src := r.get P.posSrc d == 3
    bad ((free && host P.posAngMode) || (src && (!host P.posAngMode || bit (r.get P.posAngMode d) 1))) P.posAngMode
      ++ bad (host P.focCurMode && (free || host P.focLoopMode || host P.focFwMode)) P.focCurMode
      ++ bad (host P.focLoopMode && (free || host P.focFwMode)) P.focLoopMode
      ++ bad (host P.focFwMode && free) P.focFwMode
      ++ bad (host P.engRcMode && free) P.engRcMode)).flatten

/-! Check 8, chapter by chapter. -/

/-- R31 and R60: the CAN FD data rate on the RC oscillator, and the watched bridges. -/
def Regs.checkPower (r : Regs) (xtal : Bool) : List Viol :=
  offence (!xtal && decide (1 < r.get P.hostCanData 0)) 4 0 St.range P.hostCanData 0
    ++ offence ((setBits 4 (r.get P.pwrMwBridges 0)).any (fun b => !([0, 1, 2, 3].any (fun d => r.computes d && (r.bridges d).contains b))))
        4 0 St.range P.pwrMwBridges 0

/-- R154: `lock` mode, and the chain's delays. -/
def Regs.checkSync (r : Regs) : List Viol :=
  let sp := r.get P.pwmSyncPeriod 0
  ([0, 1, 2, 3].map (fun d =>
    let p := r.get P.pwmPeriod d
    offence (r.get P.pwmSyncMode d == 1 && (sp % p != 0 || decide (8 < sp / p) || decide (sp / p < 1) || decide (65527 < p) || r.role d == 3))
      d d St.range P.pwmSyncMode d)).flatten
  ++ ([0, 1, 2, 3].map (fun b => offence (decide (sp ≤ r.get P.pwmSyncDly b)) 4 b St.range P.pwmSyncDly b)).flatten

/-- The codes of a checker list up to its end; code 1 is VBUS (R192). -/
def chkEntries (v : Nat) : List Nat := ((List.range 8).map (fun n => bits v (4 * n) 4)).takeWhile (· != 15)

/-- R192 and R201: the checker's list, and the housekeeping period. -/
def Regs.checkConverters (r : Regs) : List Viol :=
  ([0, 1, 2, 3].map (fun b =>
    let l := chkEntries (r.get P.adcChkList b)
    offence (!l.contains 1 || l.any (fun c => c == 0 || decide (5 < c))) (r.under b) b St.range P.adcChkList b)).flatten
  ++ (let n := ((List.range 32).filter (fun i => r.get P.adcHkList i != 0xFF)).length
      offence (decide (r.get P.adcHkPeriod 0 * 1000 < n * (2 + 3 * 2 ^ (4 + r.get P.adcHkDec 0)))) 4 0 St.range P.adcHkPeriod 0)

/-- R219: M_MAX below 0.5. -/
def Regs.checkShunt (r : Regs) : List Viol :=
  ([0, 1, 2, 3].map (fun d => offence (r.role d != 0 && decide (r.mMax d < 16384)) d d St.range P.shuntTSettle d)).flatten

/-- The tracker's gains (R234) and the eclipse speeds (R247). -/
def Regs.checkPosition (r : Regs) : List Viol :=
  ([0, 1, 2, 3].map (fun d =>
    -- KW in 1/16384 and KA in 1/32768
    offence (decide (65536 ≤ r.get P.posTrkKw d + r.get P.posTrkKa d)) d d St.range P.posTrkKw d
      ++ offence (r.get P.posSrc d == 2 && (decide (r.get P.posFlyMin d < r.get P.posEclWMin d) || decide (r.get P.posOlWEnd d ≤ r.get P.posEclWMin d)))
          d d St.range P.posFlyMin d)).flatten

/-- R281, and the staged set-points and table entries whose ranges name a limit (R105, R528). -/
def Regs.checkControl (r : Regs) (l : List Staged) : List Viol :=
  ([0, 1, 2, 3].map (fun d =>
    offence (F32.lt (r.f P.focAscSpeed d) (r.f P.focStopSpeed d)) d d St.range P.focStopSpeed d
      ++ offence (F32.lt (r.f P.focIdMin d) (F32.neg (r.f P.focIMax d))) d d St.range P.focIdMin d)).flatten
  ++ (l.map (fun x => match x with
    | .write id i page v =>
      let v := BitVec.ofNat 32 v
      if id = P.focSet then
        offence (!F32.le (F32.abs v) (r.f (if r.get P.focCtrl i = 1 then P.focWMax else P.focTMax) i)) i i St.range id i
      else if id = P.engRcTab then
        offence (!F32.le (F32.abs v) (r.f P.engRcLim (page / 8))) (page / 8) i St.range id i page
      else []
    | .swap _ _ => [])).flatten

/-- QF of a driver die in µA, as a numerator and a denominator (R327); `per d` is the period of drive d. -/
def Regs.gateCharge (r : Regs) (per : Nat → Nat) (j : Nat) : Frac :=
  (dieBridges j).foldl (fun (n, q) b => match r.ownerOf b with
    | some d => (n * per d + 6 * r.get P.gateQg b * 200000 * q, q * per d)
    | none => (n, q)) (0, 1)

/-- R327, R336 and R340: gate charge, desaturation thresholds, two-step turn-off. -/
def Regs.checkGate (r : Regs) (per : Nat → Nat) : List Viol :=
  ([0, 1, 2, 3].map (fun b =>
    let c := r.get P.gateDesatCfg b
    let k := r.get P.gateSoftCfg b
    offence (decide (25 < bits c 0 5) || decide (25 < bits c 5 5)) (r.under b) b St.range P.gateDesatCfg b
      ++ offence (decide (8 < bits k 0 4) || decide (18 < bits k 4 5)) (r.under b) b St.range P.gateSoftCfg b)).flatten
  ++ ([0, 1].map (fun j =>
    let (n, q) := r.gateCharge per j
    match (dieBridges j).find? (fun b => (r.ownerOf b).isSome) with
    | some b => offence (decide (220000 * q < n)) (r.under b) b St.range P.gateQg b
    | none => [])).flatten

/-- The thresholds of a group in the order of R360, in 0.1 V, with their parameters. -/
def Regs.busLevels (r : Regs) (n : Nat) : List (Nat × Nat) :=
  [(P.busUv2, r.get P.busUv2 n), (P.busUv1, r.get P.busUv1 n), (P.busOv1, r.get P.busOv1 n), (P.busOv2, r.get P.busOv2 n),
   (P.busOv3, r.get P.busOv3 n), (P.busOv4, 5 * r.get P.busOv4 n)]

/-- The upper threshold of the first adjacent pair that fails (R360). -/
def badLevel (hyst : Nat) : List (Nat × Nat) → Option Nat
  | (_, a) :: (id, b) :: l => if b ≤ a ∨ b - a < hyst then some id else badLevel hyst ((id, b) :: l)
  | _ => none

/-- R358 and R360: groups and thresholds. -/
def Regs.checkBus (r : Regs) : List Viol :=
  ([0, 1, 2, 3].map (fun d =>
    match r.bridges d with
    | b :: l => (match l.find? (fun x => r.get P.busGroup x != r.get P.busGroup b) with
        | some x => offence true d x St.range P.busGroup x
        | none => [])
    | [] => [])).flatten
  ++ ([0, 1].map (fun c =>
    let v := r.get P.busChopCfg c
    offence (bit v 0 && [0, 1, 2, 3].all (fun b => r.get P.busGroup b != bits v 1 2)) 4 c St.range P.busChopCfg c)).flatten
  ++ ([0, 1, 2, 3].map (fun n =>
    match badLevel (r.get P.busHyst n) (r.busLevels n) with
    | some id => offence true 4 n St.range id n
    | none => [])).flatten

/-- R381: a level of a set of three offends: it does not lie above the one below it, or its fall point does not. Level
in sQ9.7, hysteresis in 0.1 K. -/
def levelBad (lower level : Nat) : Bool :=
  let t (v : Nat) : Int := toSigned 16 (bits v 0 16)
  decide (10 * t level - 128 * (bits level 16 8 : Nat) ≤ 10 * t lower)

def Regs.checkThermal (r : Regs) : List Viol :=
  let three (id base place : Nat) : List Viol :=
    offence (levelBad (r.get id base) (r.get id (base + 1))) 4 (place + 1) St.range id (base + 1)
      ++ offence (levelBad (r.get id (base + 1)) (r.get id (base + 2))) 4 (place + 2) St.range id (base + 2)
  three P.thermDieLvl 0 0 ++ ([0, 1, 2, 3].map (fun b => three P.thermPsLvl (3 * b) (3 + 3 * b))).flatten

/-- R402 and R417: the reactions, and the journal stream's ring. -/
def Regs.checkFaults (r : Regs) : List Viol :=
  (sourceTable.map (fun k =>
    let v := r.get P.fltReact k.kind
    let act := bits v 6 2
    let bad := match k.cls with
      | .a => !bit v 5 || (act != 1 && act != 2)
      | .d => bit v 2 || bit v 3 || bit v 4 || bit v 5 || (act != 0 && act != 3)
      | _ => false
    let noUnit := bit v 3 && (List.range k.n).any (fun i => (blkUnitOf (sourcePath k.kind i)).isNone)
    offence (bad || noUnit) 4 k.kind St.range P.fltReact k.kind)).flatten
  ++ (let c := r.get P.hostRingCfg 17
      offence (r.get P.fltStream 0 == 1 && !(cfgEn c && cfgDir c && (cfgEsize c == 1 || cfgEsize c == 2))) 4 0 St.range P.fltStream 0)

/-- R457 and R463: gangs, and the wait of a home drive. -/
def Regs.checkLink (r : Regs) (self : Nat) : List Viol :=
  ([0, 1, 2, 3].map (fun d =>
    if r.role d ≠ 2 then []
    else
      let js := r.gangEntries d
      let wrong (j : Nat) : Bool := !bit (r.get P.linkNode (r.gangDev j)) 31 || r.gangDev j == self
      let named := match js.find? wrong with | some j => j | none => js.headD 0
      offence (js.isEmpty || js.any wrong || decide (36 < r.lent d) || r.get P.pwmSyncMode d == 1) d named St.range P.linkGang named)).flatten
  ++ ([0, 1, 2, 3].map (fun d => offence (r.role d == 2 && decide (r.get P.linkWait d < r.repBound d)) d d St.range P.linkWait d)).flatten

/-- R501 and R505: the rings of the samplers and of the dumps. -/
def Regs.checkPerf (r : Regs) : List Viol :=
  let out (q lo : Nat) : Bool :=
    let c := r.get P.hostRingCfg q
    cfgEn c && cfgDir c && decide (lo ≤ cfgEsize c) && decide (cfgEsize c ≤ 2)
  ([0, 1].map (fun c => offence (bit (r.get P.perfSampleCfg c) 0 && !out (22 + c) 1) 4 c St.range P.perfSampleCfg c)).flatten
  ++ (let v := r.get P.perfDumpCfg 0
      offence (((bit v 0 || bit v 1) && !out 24 2) || (bit v 2 && !out 25 1)) 4 0 St.range P.perfDumpCfg 0)

/-- R82: the staged descriptors, written in staging order; the offences, and the state they would leave. -/
def State.checkRings (s : State) (l : List Staged) : State × List Viol :=
  l.foldl (fun (s, vs) x => match x with
    | .write id i _ v =>
      if id = P.hostRingCfg then
        (let (s1, ok) := s.ringCfgWrite i v
         (s1, vs ++ offence (!ok) 4 i St.range P.hostRingCfg i))
      else (s, vs)
    | .swap _ _ => (s, vs)) (s, [])

/-- The period by which a drive's gates switch: a member's is its home's (R327). -/
def State.switchPeriod (s : State) (laid : Regs) (d : Nat) : Nat :=
  if laid.role d = 3 then (s.drv d).car.per else laid.get P.pwmPeriod d

/-- R424: a scan that a staged CTL.GO starts or resumes lies wholly inside one memory. -/
def Regs.checkScans (r : Regs) (l : List Staged) : List Viol :=
  (l.map (fun x => match x with
    | .write id u _ v =>
      offence (id == P.chkCtl && bit v 0 && r.scanOutside u) 4 u St.range P.chkCtl u
    | .swap _ _ => [])).flatten

def State.check8 (s : State) (laid : Regs) (l : List Staged) : List Viol :=
  laid.checkPower s.pwr.xtalRef ++ (s.checkRings l).2 ++ laid.checkSync ++ laid.checkConverters ++ laid.checkShunt
    ++ laid.checkPosition ++ laid.checkControl l ++ laid.checkGate (s.switchPeriod laid) ++ laid.checkBus ++ laid.checkThermal
    ++ laid.checkFaults ++ laid.checkLink s.linkId ++ laid.checkPerf ++ laid.checkScans l

/-! Check 9 (R27). -/

/-- Parameters that change a drive's program, position source or sample rate. -/
def rateIds : List Nat := [P.sysDrvMap, P.pwmPeriod, P.engSpp, P.posSrc, P.linkGang]

/-- The drive whose load, added in order, first exceeds 680 M lane-cycles/s. -/
def Regs.overBudget (r : Regs) : Option Nat :=
  [0, 1, 2, 3].find? (fun d =>
    let (n, q) := r.charges (List.range (d + 1))
    decide (68000 * q < n))

def State.check9 (s : State) (laid : Regs) (l : List Staged) : List Viol :=
  match laid.overBudget with
  | none => []
  | some d =>
    let staged := l.findSome? (fun x => match x with
      | .write id i _ _ => if rateIds.contains id && s.r.get id i != laid.get id i then some (id, i) else none
      | .swap _ _ => none)
    match staged with
    | some (id, i) => offence true d i St.budget id i
    | none => offence true d d St.budget P.sysDrvMap d

/-! Validation. -/

/-- The checks of R111 in order; the first offence of the first check that fails. -/
def State.validate (s : State) (l : List Staged) : Option Viol :=
  let laid := s.laid l
  [s.check1 laid l, laid.check2, laid.check3, laid.check4, laid.check5, laid.check6, laid.check7, s.check8 laid l,
   s.check9 laid l].findSome? firstViol

/-- REGISTER_WRITE (R8): an interface writes a register whose writes take effect at once. A parameter that the host
window does not show is written under the checks of a commit, as R109 gives (assumption log 25). -/
def execRegisterWrite (i : Iface) (id : Half) (inst : Byte) (v : DWord) (s : State) : Out :=
  fin (
    match directRow id.toNat inst.toNat with
    | some row =>
      let inWindow := row.id / 256 == 4 || row.id == P.timeSnapStat
      if s.serving && row.effect == .immediate
          && (inWindow || (s.validate [.write row.id inst.toNat (s.rcPage (ifaceNo i)) v.toNat]).isNone) then
        s.directWrite (ifaceNo i) row inst.toNat v.toNat
      else s
    | none => s)

end Sys2Proof.Machine
end

