-- ==== Sys2Proof/Machine/Txn.lean ====
section
/-! DEFINITION. Transactions: staging, commit, rollback and expiry, the saved configuration record, and bank swaps
(R104 to R118, R304, R434, R523, R524, R528). -/

namespace Sys2Proof.Machine

/-! Staging (R105, R106, R108). -/



/-- A pair joins the staged ones: a second write of a pair keeps the place of the first; none beyond 256 pairs. -/
def stagePair (l : List Staged) (x : Staged) : Option (List Staged) :=
  if l.any (samePair x) then some (l.map (fun y => if samePair x y then x else y))
  else if l.length < 256 then some (l ++ [x]) else none

/-- Pairs staged in order, all or none. -/
def stageAll (l : List Staged) : List Staged → Option (List Staged)
  | [] => some l
  | x :: r => match stagePair l x with | some l => stageAll l r | none => none

/-- The value of a table entry is checked against the limit of its page's drive as it is staged (R528). -/
def State.tableValueOk (s : State) (l : List Staged) (row : ParamRow) (page v : Nat) : Bool :=
  row.id != P.engRcTab || F32.le (F32.abs (BitVec.ofNat 32 v)) ((s.laid l).f P.engRcLim (page / 8))

/-- One item of a PARAM_WRITE on interface `k`, by the checks of R524: its refusal, or the staged pairs with it. -/
def State.stageItem (s : State) (k : Nat) (l : List Staged) (id inst size v : Nat) : Nat × List Staged :=
  match paramRow id with
  | none => (St.badParam, l)
  | some row =>
    match instsOf row inst with
    | none => (St.badInst, l)
    | some is_ =>
      let page := s.rcPage k
      if size ≠ paramSize row then (St.length, l)
      else if !is_.all (writable row) then (St.readOnly, l)
      else if !valueOk row v || !s.tableValueOk l row page v then (St.range, l)
      else match (is_.map (fun i => s.stateCheck row i page)).find? (· != St.ok) with
        | some st => (st, l)
        | none =>
          match stageAll l (is_.map (fun i => .write id i page v)) with
          | some l => (St.ok, l)
          | none => (St.txnFull, l)

/-- The items of a PARAM_WRITE in order; at the first that fails, its status and number (R95). -/
def State.stageItems (s : State) (k : Nat) (l : List Staged) (ix fuel : Nat) (pl : List Byte) : Option (Nat × Nat) × List Staged :=
  match fuel with
  | 0 => (none, l)
  | fuel + 1 =>
    if pl.isEmpty then (none, l)
    else
      let size := fieldAt pl 3 1
      if pl.length < 4 + size ∨ pl.length < 4 then (some (St.length, ix), l)
      else
        let (st, l) := s.stageItem k l (fieldAt pl 0 2) (fieldAt pl 2 1) size (fieldAt pl 4 size)
        if st = St.ok then State.stageItems s k l (ix + 1) fuel (pl.drop (4 + size)) else (some (st, ix), l)

/-- The number of the item whose parameter is named, in a PARAM_WRITE's payload (R109). -/
def itemNumber (id inst ix fuel : Nat) (pl : List Byte) : Nat :=
  match fuel with
  | 0 => 0xFFFF
  | fuel + 1 =>
    if pl.length < 4 then 0xFFFF
    else if fieldAt pl 0 2 = id ∧ (fieldAt pl 2 1 = inst ∨ fieldAt pl 2 1 = 0xFF) then ix
    else itemNumber id inst (ix + 1) fuel (pl.drop (4 + fieldAt pl 3 1))

/-! The configuration record (R434, R523). -/

/-- Parameters that the record leaves out though their Access is `RW`. -/
def unstored : List Nat :=
  [P.hostAperture, P.engView, P.fltSel, P.hostRingCfg, P.hostIrqEn, P.hostIrqGen, P.hostIrqHoldoff, P.engCycMax, P.engWaitMax,
   P.perfCnt, P.perfCtl, P.chkAddr, P.chkRem, P.chkCur, P.chkExpect, P.engRcTab, P.pwmTestEn, P.pwmCmpa, P.pwmCmpb, P.pwmOvr,
   P.focSet, P.secBootPref]

/-- The record stores this parameter. -/
def stored (id : Nat) : Bool :=
  match paramRow id with
  | some row => row.access == .rw && !unstored.contains id
  | none => false

/-- Entries of a register file that the record stores. -/
def storedOf (m : Smap Nat) : Smap Nat := m.filter (fun (k, _) => stored (k / 256))

/-- Staged and waiting writes of table entries laid over the tables. -/
def layTable (m : Smap Nat) : Staged → Smap Nat
  | .write id i page v => if id = P.engRcTab then Smap.set (fun _ => 0) m (rcKey page i) v else m
  | .swap _ _ => m

/-- GEN of the newest copy. -/
def TxnSt.lastGen (t : TxnSt) : Nat := Nat.max ((t.copyA.map (·.gen)).getD 0) ((t.copyB.map (·.gen)).getD 0)

/-- A staged pair writes the parameter with this key. -/
def Staged.writes (k : Nat) : Staged → Bool
  | .write id i _ _ => regKey id i == k
  | .swap _ _ => false

/-- The record of the configuration with the pairs `l` and those that wait laid over it; an `at boot` parameter that
`l` does not write takes its pending value (R116). -/
def State.recordOf (s : State) (l : List Staged) : ConfigRec :=
  let items := s.txn.waiting.map (·.item) ++ l
  let laid := s.laid l
  let pend := s.txn.bootPend.filter (fun (k, _) => !l.any (Staged.writes k))
  let regs := pend.foldl (fun m (k, v) => Smap.set regReset m k v) (storedOf laid.a)
  let kept (d : Nat) : Bool := bit (laid.get P.engRcCtl d) 1
  { gen := (s.txn.lastGen + 1) % 2 ^ 32, regs := storedOf regs, bankB := laid.b,
    active := [0, 1, 2, 3].foldl (fun m d => Smap.set (fun _ => 0) m d (laid.get P.engBank d % 2)) [],
    rc := (items.foldl layTable s.rcTab).filter (fun (k, _) => kept (k / 512)) }

/-! Acceptance (R113 to R116). -/

/-- The drives that a staged pair affects, by who owns its block before and after the commit (R113). -/
def pairDrives (run laid : Regs) : Staged → List Nat
  | .swap d _ => [d]
  | .write id i page _ =>
    match paramRow id with
    | none => []
    | some row =>
      if id = P.sysDrvMap then [i] else (run.ownerDrive row i page).toList ++ (laid.ownerDrive row i page).toList

/-- Response data of an accepted commit (R114). -/
def commitData (accept drives : Nat) (taken : List (Nat × Nat)) : List Byte :=
  leBytes 8 accept ++ leBytes 1 drives ++ zeros 3
    ++ ((setBits 4 drives).map (fun d => leBytes 8 (match taken.find? (fun p => p.1 == d) with | some p => p.2 | none => accept))).flatten

/-- Drive d has a new map: its counter follows, and the commit's own pairs for its blocks (R21, R113, R136). Older
pairs that waited for an owner are taken at its first boundary or reload (R11). -/
def State.remap (s : State) (d : Nat) : State :=
  let s := (s.roleTaken d).formHall d
  if s.takesLater d then s else s.takeWaiting d (fun w => w.tick == s.epoch)

/-- A stopped drive's counter no longer waits for a pulse once its sync mode is `free` (R136). -/
def State.freeCounters (s : State) : State :=
  s.each [0, 1, 2, 3] (fun s d =>
    if (s.drv d).car.waitPulse && s.reg P.pwmSyncMode d == 0 && s.pwr.mode == .full && s.computes d then s.startCounter d 0 else s)

/-- The staged pairs are applied on this tick (R113, R115). -/
def State.applyPairs (s : State) (l : List Staged) : State :=
  let old := [0, 1, 2, 3].map (fun d => s.reg P.sysDrvMap d)
  let s := (applyOrder l).foldl State.applyStaged s
  let moved := [0, 1, 2, 3].filter (fun d => old[d]? != some (s.reg P.sysDrvMap d))
  if moved.isEmpty then s.freeCounters
  else ((moved.foldl State.remap s).freeCounters).applyGens (List.range 12) s.nowF []

/-- QF of driver die j in µA under the configuration `r`: Σ 6 · QG · 200 MHz / PERIOD over its owned bridges (R327),
rounded to the nearest. -/
def State.gateQf (s : State) (r : Regs) (j : Nat) : Nat :=
  let (n, q) := (dieBridges j).foldl (fun (n, q) b => match r.ownerOf b with
    | some d =>
      -- a member's period is the home's, as received (R327)
      let per := if r.role d = 3 then (s.drv d).car.per else r.get P.pwmPeriod d
      (n * per + 6 * r.get P.gateQg b * 200000 * q, q * per)
    | none => (n, q)) (0, 1)
  (2 * n + q) / (2 * q)

/-- What an accepted commit computes from its configuration: GATE.QF of each driver die, and the bounds of the home
drives that it affects (R327, R463). -/
def State.commitValues (s : State) (laid : Regs) (drives : Nat) : State :=
  let s := s.each [0, 1] (fun s j => s.setReg P.gateQf (j + 1) (s.gateQf laid j))
  s.each ((setBits 4 drives).filter (fun d => laid.role d == 2)) (fun s d =>
    (s.setReg P.linkRepBound d (laid.repBound d)).setReg P.linkDutyLead d (laid.dutyLead d))

/-- An accepted commit of command `c`: the pairs, the record of a SAVE, and the response, or the wait for it. -/
def State.accept (s : State) (c : Cmd) (l : List Staged) (save : Bool) : State × Reply :=
  let laid := s.laid l
  let drives := drivesMask ((l.map (pairDrives s.r laid)).flatten)
  let waits := (setBits 4 drives).filter s.takesLater
  let rec_ := s.recordOf l
  let s := s.bump P.txnCommitCnt 0 top32
  let s := if save then { s with txn := { s.txn with saving := some (rec_, s.epoch) } } else s
  let s := (s.applyPairs l).commitValues laid drives
  if waits.isEmpty then (s, .ok (commitData s.epoch drives []))
  else
    let taken := ((setBits 4 drives).filter (fun d => !waits.contains d)).map (fun d => (d, s.epoch))
    let w : CommitWait := { cmd := c, accept := s.epoch, drives := drives, taken := taken }
    ({ s with txn := { s.txn with commits := s.txn.commits ++ [w] } }, .later)

/-- A failed commit is counted; a refused descriptor shows its error (R82, R112). -/
def State.commitFails (s : State) (v : Viol) : State :=
  let s := s.bump P.txnFailCnt 0 top32
  if v.id = P.hostRingCfg then (s.setBit P.hostRingCfg v.inst 30 true).flagGstat 8 else s

/-- Staging position of the parameter that a failure names; 0xFFFF where it is not staged (R112). -/
def stagedAt (l : List Staged) (v : Viol) : Nat :=
  match l.findIdx? (fun x => samePair x (.write v.id v.inst v.page 0)) with
  | some n => n
  | none => 0xFFFF

/-- Failure data of a commit (R112). -/
def failData (v : Viol) : List Byte := leBytes 2 v.id ++ leBytes 1 v.inst ++ zeros 1

/-! The commands. -/

/-- The idle timer of an interface's transaction starts again (R117). -/
def State.restartIdle (s : State) (k : Nat) : State := s.setTxn k { s.txnOf k with idle := s.epoch }

/-- TXN_BEGIN (R104). -/
def bodyTxnBegin (s : State) (c : Cmd) (pl : List Byte) : State × Reply :=
  if pl.length ≠ 0 then (s, .refuse St.length)
  else if (s.txnOf c.iface).isOpen then (s, .refuse St.txnOpen)
  else (s.setTxn c.iface { isOpen := true, pairs := [], idle := s.epoch }, .ok [])

def execTxnBegin (h : Hdr) (pl : List Byte) (s : State) : Out := runCommand h 0x0501 pl s bodyTxnBegin

/-- TXN_COMMIT (R110 to R116). -/
def bodyTxnCommit (s : State) (c : Cmd) (pl : List Byte) : State × Reply :=
  let k := c.iface
  let t := s.txnOf k
  if pl.length ≠ 1 then (if t.isOpen then s.restartIdle k else s, .refuse St.length)
  else if !t.isOpen then (s, .refuse St.noTxn)
  else
    let save := bit (fieldAt pl 0 1) 0
    if save && s.txn.saving.isSome then (s.restartIdle k, .refuse St.busy)
    else match s.validate t.pairs with
      | some v => ((s.commitFails v).restartIdle k, .now v.status (stagedAt t.pairs v) (failData v))
      | none => (s.setTxn k {}).accept c t.pairs save

def execTxnCommit (h : Hdr) (pl : List Byte) (s : State) : Out := runCommand h 0x0502 pl s bodyTxnCommit

/-- TXN_ROLLBACK (R117). -/
def bodyTxnRollback (s : State) (c : Cmd) (pl : List Byte) : State × Reply :=
  let t := s.txnOf c.iface
  if pl.length ≠ 0 then (s, .refuse St.length)
  else if !t.isOpen then (s, .refuse St.noTxn)
  else (s.setTxn c.iface {}, .ok (leBytes 2 t.pairs.length))

def execTxnRollback (h : Hdr) (pl : List Byte) (s : State) : Out := runCommand h 0x0503 pl s bodyTxnRollback

/-- PARAM_WRITE: staged in an open transaction (R105), else a transaction of its own (R109), whose failed commit
answers with the data of R112. -/
def bodyParamWrite (s : State) (c : Cmd) (pl : List Byte) : State × Reply :=
  let k := c.iface
  let t := s.txnOf k
  if t.isOpen then
    let (bad, l) := s.stageItems k t.pairs 0 (pl.length + 1) pl
    let s := s.setTxn k { t with pairs := l, idle := s.epoch }
    match bad with
    | some (st, ix) => (s, .now st ix [])
    | none => (s, .ok [])
  else
    match s.stageItems k [] 0 (pl.length + 1) pl with
    | (some (st, ix), _) => (s, .now st ix [])
    | (none, l) =>
      match s.validate l with
      | some v => (s.commitFails v, .now v.status (itemNumber v.id v.inst 0 (pl.length + 1) pl) (failData v))
      | none => s.accept c l false

def execParamWrite (h : Hdr) (pl : List Byte) (s : State) : Out := runCommand h 0x0102 pl s bodyParamWrite

/-- ENG_SWAP (R108, R304). -/
def bodyEngSwap (s : State) (c : Cmd) (pl : List Byte) : State × Reply :=
  let d := c.inst
  let t := s.txnOf c.iface
  let x : Staged := .swap d (bit (fieldAt pl 0 1) 0)
  let s := if t.isOpen then s.restartIdle c.iface else s
  if 3 < d then (s, .refuse St.badInst)
  else if pl.length ≠ 1 then (s, .refuse St.length)
  else
    if !s.computes d then (s, .refuse St.badState)
    else if s.swapPending d || (t.isOpen && t.pairs.any (samePair x)) then (s, .refuse St.busy)
    else if t.isOpen then
      match stagePair t.pairs x with
      | some l => (s.setTxn c.iface { s.txnOf c.iface with pairs := l }, .ok [])
      | none => (s, .refuse St.txnFull)
    else if s.takesLater d then
      (s.modDrv d (fun y => { y with foc := { y.foc with swap := some (bit (fieldAt pl 0 1) 0, some c) } }), .later)
    else
      let s := s.swapBanks d (bit (fieldAt pl 0 1) 0)
      (s, .ok (leBytes 8 s.epoch ++ leBytes 1 (s.reg P.engBank d % 2)))

def execEngSwap (h : Hdr) (pl : List Byte) (s : State) : Out := runCommand h 0x1501 pl s bodyEngSwap

/-! What follows a commit. -/

/-- A drive that no longer switches takes what waits for it, and the commits that affect it (R113). -/
def State.settleDrive (s : State) (d : Nat) : State :=
  if s.takesLater d then s
  else
    let s := s.flushWaiting d
    { s with txn := { s.txn with commits := s.txn.commits.map (fun c =>
        if bit c.drives d && !c.taken.any (fun (e, _) => e == d) then { c with taken := c.taken ++ [(d, s.epoch)] } else c) } }

/-- Every affected drive has taken the commit. -/
def CommitWait.done (c : CommitWait) : Bool := (setBits 4 c.drives).all (fun d => c.taken.any (fun (e, _) => e == d))

/-- COMMIT_RESPONSE (R114). -/
def execCommitResponse (i : Iface) (s : State) : Out :=
  fin (
    if !s.serving then s
    else
      let s := s.each [0, 1, 2, 3] (fun s d => s.settleDrive d)
      let due (c : CommitWait) : Bool := c.cmd.iface == ifaceNo i && c.done
      let ready := s.txn.commits.filter due
      let s := { s with txn := { s.txn with commits := s.txn.commits.filter (fun c => !due c) } }
      ready.foldl (fun s c => s.respond c.cmd St.ok 0xFFFF (commitData c.accept c.drives c.taken)) s)

/-- CONFIG_SAVE_DONE (R116, R434): both copies hold the record. -/
def execConfigSaveDone (s : State) : Out :=
  fin (
    match s.txn.saving with
    | some (r, _) =>
      if s.serving then
        let s := { s with txn := { s.txn with copyA := some r, copyB := some r, saving := none },
                          chk := { s.chk with badCrcA := false, badCrcB := false } }
        s.event .other 0x4510 0 0 s.epoch (leBytes 4 r.gen)
      else s
    | none => s)

/-- TXN_IDLE_EXPIRY (R117). -/
def execTxnIdleExpiry (i : Iface) (s : State) : Out :=
  fin (
    let k := ifaceNo i
    let t := s.txnOf k
    if s.serving && t.isOpen && expired t.idle (msTicks (s.reg P.txnIdleMax 0)) s.epoch then
      let s := (s.setTxn k {}).bump P.txnIdleRbCnt 0 top32
      s.event .other 0x4511 0 0 s.epoch (leBytes 1 k ++ leBytes 2 t.pairs.length)
    else s)

end Sys2Proof.Machine
end

