-- ==== Sys2Proof/Machine/Resets.lean ====
section
/-! DEFINITION. Block resets and uncorrectable memory errors (R16, R431), chip resets, and what a reset, a
wake or a loss of supply keeps (R17, R35, R48, R169, R394, R414, R419, R434, R515, R517). -/

namespace Sys2Proof.Machine

/-! Block resets (R16). -/

/-- The trackers start anew; a drive with Hall decoding takes the present state's centre (R230). -/
def State.resetTrackers (s : State) : State :=
  s.each (List.range 4) (fun s d =>
    let s := (s.modDrv d (fun x => { x with trk := { evTick := s.epoch }, ecl := {}, listen := {}, encSave := none })).formHall d
    if s.hallSteers d then s.hallCentreInit d else s)

/-- A bridge unit's data path after its reset: no pending turn-on, the interlock released, the counter of the
drive whose lowest bridge it is started anew (R15, R136). -/
def State.bridgeReset (s : State) (b : Nat) : State :=
  let s := s.each (gensOfBridge b) (fun s g =>
    s.modGen g (fun x => { x with req := false, pendH := false, pendL := false, conflict := false }))
  let s := s.each ((s.ownersOf [b]).filter (fun d => s.lowBridge d == b)) (fun s d => s.roleTaken d)
  s.applyGens (gensOfBridge b) s.nowF []

/-- The internal state of a unit is cleared; parameters, trip latches, fault records and counters stay (R16). -/
def State.unitReset (s : State) (u : BlkUnit) : State :=
  match u with
  | .bridge b => s.bridgeReset b.val
  | .pair b => s.pairReset b.val
  | .wp => s.each (List.range 4) (fun s b => (s.setPicker b {}).pickerEdge b s.nowF)
  | .pos =>
    let seen := (List.range 4).foldl (fun m b => if (hallIndex (s.hallState b)).isSome then m + 2 ^ b else m) 0
    ({ s with posSeen := seen }).resetTrackers
  | .eng => s.each (List.range 4) (fun s d => s.abandonRun d)
  | .loss =>
    let s := { s with therm := { s.therm with foster := [] } }
    s.each (List.range 12) (fun s g => s.modGen g (fun x => { x with accH := 0, accL := 0, accN := 0, accAt := s.nowF }))
  | .hk => { s with hk := { s.hk with conv := none, round := false, results := [], marks := 0 } }
  | .spi => { s with host := { s.host with sdo := [] } }
  | .can => { s with host := { s.host with canIn := none, canPassive := false } }
  | .link p =>
    if s.portState p.val = portOff then s else (s.portLost p.val portTrain false).setPort p.val {}
  | .chk =>
    let s := s.each [0, 1, 2, 3] (fun s u =>
      let s := if s.chkState u = 1 ∨ s.chkState u = 2 then s.scanDone u false St.badState else s
      (s.setUnit u {}).setReg P.chkStat u 0)
    let s := { s with chk := { s.chk with perStep := 0, last := 3 } }
    -- the context of unit 3 is its own, and that of units 0 to 2 stands in parameters
    ((s.setReg P.chkAddr 3 0).setReg P.chkRem 3 0).setReg P.chkCur 3 0
  | .trng => { s with sec := { s.sec with retestAt := s.epoch } }

/-- BLOCK_RESET_DONE (R16): the completion is stamped. -/
def execBlockResetDone (u : BlkUnit) (s : State) : Out :=
  fin (
    if s.awake && s.flt.blk.contains u then
      ({ s with flt := { s.flt with
          blk := s.flt.blk.filter (fun v => v != u),
          blkDone := s.flt.blkDone.filter (fun (x : BlkUnit × Nat) => x.1 != u) ++ [(u, s.epoch)] } }).unitReset u
    else s)

/-- The units in block reset act on the gates and the engine: a bridge holds its safe level, and the engine's
runs are abandoned (R16). -/
def State.blkHold (s : State) : State :=
  s.each s.flt.blk (fun s u =>
    match u with
    | .bridge b => s.applyGens (gensOfBridge b.val) s.nowF []
    | .eng => s.each (List.range 4) (fun s d => s.abandonRun d)
    | _ => s)

/-- ECC_DBE (R431): counted and reported; for the engine the runs in progress are abandoned (R299), and a
scan stops with ERR (R428). The core's load-access fault stays inside the core. -/
def execEccDbe (m : Fin 3) (addr : Word) (by_ : Reader) (s : State) : Out :=
  fin (
    if s.awake && wordIn m.val addr.toNat then
      let s := (s.bump P.chkDbeCnt m.val top32).report K.eccDbe m.val s.epoch none addr.toNat
      match by_ with
      | .engine => s.each (List.range 4) (fun s d => s.abandonRun d)
      | .scan => s.scanError addr.toNat
      | _ => s
    else s)

/-- WATCHDOG_EXPIRY (R473). -/
def execWatchdogExpiry (s : State) : Out := fin (if s.awake then s.report K.supvWdg 0 s.epoch else s)

/-- XTAL_LOSS (R30): the RC oscillator becomes the reference until a chip reset. -/
def execXtalLoss (s : State) : Out :=
  fin (
    if s.awake && s.pwr.xtalRef then
      let s := { s with pwr := { s.pwr with xtalOk := false, xtalRef := false } }
      ((s.bump P.timeXtalFailCnt 0 top16).report K.xtalFail 0 s.epoch).holdPorts
    else s)

/-! What survives. -/

/-- Parameters that MRAM, the key store or the always-on domain hold through every reset and wake. -/
def keptIds : List Nat :=
  [P.timeEra, P.secBootPref, P.secArbCnt, P.secSlotStat, P.thermShdnRec, P.thermShdnNext, P.pwrWakeSrc, P.sysRstSrc]

/-- Parameters that SRAM holds through a chip reset besides (R419). -/
def sramIds : List Nat := [P.fltLife, P.fltLifeEpoch]

/-- A record write cut by a reset: the copy with the lower GEN is written first, the CRCs last, so that one
copy whose CRC passes remains; how far the write came is a free value (R116, R434). -/
def State.cutSave (s : State) : State :=
  match s.txn.saving with
  | none => s
  | some (r, _) =>
    let (f, s) := s.takeFree
    let firstB := decide ((s.txn.copyB.map (·.gen)).getD 0 < (s.txn.copyA.map (·.gen)).getD 0)
    -- 0 nothing yet; 1 the first copy damaged; 2 its payload written; 3 it is good; 4 the other damaged; 5 its payload written
    let st := f.toNat % 6
    let first : Option ConfigRec × Bool := if st = 1 then (none, false) else (some r, st == 2)
    let second : Option ConfigRec × Bool := if st = 4 then (none, false) else (some r, true)
    let put (s : State) (b : Bool) (x : Option ConfigRec × Bool) : State :=
      if b then { s with txn := { s.txn with copyB := x.1 }, chk := { s.chk with badCrcB := x.2 } }
      else { s with txn := { s.txn with copyA := x.1 }, chk := { s.chk with badCrcA := x.2 } }
    if st = 0 then s
    else
      let s := put s firstB first
      if 4 ≤ st then put s (!firstB) second else s

/-- MRAM alone keeps its bytes. -/
def mramOnly (m : Memory) : Memory := m.filter (fun (a, _) => decide (0x01000000 ≤ a) && decide (a < 0x01400000))

/-- The state at the start of a reset or of a wake's boot: everything at reset but what `chip` (a chip reset)
or a wake keeps. Filters of the inputs start anew, so that an active input is seen again by its edge. -/
def State.rebuild (s : State) (chip : Bool) : State :=
  let s := s.enterDrafts.settleEnergy.cutSave
  let keep (id : Nat) : Bool := keptIds.contains id || (chip && sramIds.contains id)
  let gens := (List.range 12).foldl (fun m g =>
    Smap.set (fun _ => ({} : Gen)) m g (if bit (s.gen g).fOff 11 then { fOff := 2 ^ 11 } else {})) []
  let chans := (List.range 12).foldl (fun m g => Smap.set (fun _ => ({} : ChanSt)) m g { xcmd := (s.chan g).xcmd }) []
  let dies := [0, 1].foldl (fun m j => Smap.set (fun _ => ({} : DieSt)) m j { lowA := (s.die j).lowA, lowB := (s.die j).lowB }) []
  let trips := (List.range 8).foldl (fun m t => Smap.set (fun _ => ({} : TripSt)) m t { pin := (s.trip t).pin }) []
  let t : State := { State.reset with
    pending := s.pending, epoch := s.epoch, free := s.free,
    r := { a := s.r.a.filter (fun (k, _) => keep (k / 256)) },
    pool := if chip then s.pool else [],
    mem := if chip then s.mem else mramOnly s.mem,
    txn := { copyA := s.txn.copyA, copyB := s.txn.copyB },
    chk := { badCrcA := s.chk.badCrcA, badCrcB := s.chk.badCrcB },
    pwr := { mode := .boot, eLevel := s.pwr.eLevel, eTick := s.pwr.eTick, nrstLow := s.pwr.nrstLow },
    flt := { recs := s.flt.recs.filter (fun (k, _) => selClass k == .a),
             journal := if chip then s.flt.journal else [], seq := if chip then s.flt.seq else 0,
             tail := if chip then s.flt.tail else {}, mirror := s.flt.mirror,
             mirrorQ := if chip then s.flt.mirrorQ else [], mirrorCount := s.flt.mirrorCount, lifeMram := s.flt.lifeMram },
    pwm := { gens := gens, trips := trips }, gate := { chans := chans, dies := dies },
    sec := { draws := s.sec.draws }, keys := s.keys }
  let t := t.setReg P.secStat 0 (s.reg P.secStat 0 % 2)
  if chip then t
  else t.each faultKinds (fun t k => t.setReg P.fltLife k (Smap.get (fun _ => 0) s.flt.lifeMram k))

/-- A new era starts: the epoch counts from 0, and the account is full (R35, PWR.E_LEVEL). -/
def State.newEra (s : State) : State :=
  { (s.setReg P.timeEra 0 (satInc top32 (s.reg P.timeEra 0))) with
      epoch := 0, pwr := { s.pwr with eLevel := 2 ^ 32 * eUnit, eTick := 0 } }

/-! Chip resets. -/

/-- HALF, FULL, or a boot or reset under way. -/
def State.powered (s : State) : Bool := s.awake || s.pwr.mode == .boot || s.pwr.mode == .reset

/-- A chip reset starts: bit `b` of SYS.RST_SRC tells its source; a reset that meets another joins it. -/
def State.chipReset (s : State) (b : Nat) : State :=
  let src := if s.awake then 2 ^ b else s.reg P.sysRstSrc 0 ||| 2 ^ b
  let low := s.pwr.nrstLow
  let s := (s.rebuild true).setReg P.sysRstSrc 0 src
  if low then { s with pwr := { s.pwr with mode := .reset } } else s

/-- The MRAM writes of the report that asked for the chip reset are done: a reaction's reset comes after them (R401). -/
def State.resetRecorded (s : State) : Bool :=
  match s.flt.chipAt with
  | none => true
  | some t => decide (t < s.epoch) && s.flt.mirrorQ.all (fun x => decide (t < x.1.epoch))

/-- CHIP_RESET_START (R17, R401): the reset waits for no drive, and for the records of the fault that asked for it. -/
def execChipResetStart (s : State) : Out :=
  fin (
    match s.pwr.chipReq with
    | some b =>
      if s.awake && s.resetRecorded && (List.range 4).all (fun d => !s.resetWaits d) then s.chipReset b
      else s
    | none => s)

/-- VCORE_BROWNOUT (R515). -/
def execVcoreBrownout (s : State) : Out := fin (if s.powered then s.chipReset 2 else s)

/-- NRST_ASSERT (R517); without effect in NEW and CRESCENT. -/
def execNrstAssert (s : State) : Out :=
  fin (if s.powered && !s.pwr.nrstLow then ({ s with pwr := { s.pwr with nrstLow := true } }).chipReset 1 else s)

/-- NRST_RELEASE (R517): boot starts. -/
def execNrstRelease (s : State) : Out :=
  fin (if s.pwr.mode = .reset ∧ s.pwr.nrstLow = true then
      { s with pwr := { s.pwr with mode := .boot, nrstLow := false } } else s)

/-- SYS_RESET (R17): the response is written, and a chip reset is requested; a drive above FOC.ASC_SPEED is
held in active short until then. -/
def bodySysReset (s : State) (_ : Cmd) (pl : List Byte) : State × Reply :=
  if pl.length ≠ 0 then (s, .refuse St.length)
  else ((s.requestChip 3).each (List.range 4) (fun s d => s.resetHold d), .ok [])

def execSysReset (h : Hdr) (pl : List Byte) (s : State) : Out := runCommand h 0x0103 pl s bodySysReset

/-! Supply. -/

/-- POWER_LOSS (R49): everything is off. The die holds and class A records end with the power cycle (R334,
R394); a mirror slot in the writing may fail its CRC (R418). -/
def execPowerLoss (s : State) : Out :=
  fin (
    if s.pwr.mode = .unpowered then s
    else
      let (f, s) := if s.flt.mirrorQ.isEmpty then (0#32, s) else s.takeFree
      let n := s.flt.mirrorCount
      let mirror := if bit f.toNat 0 then
          Smap.set (fun _ => {}) s.flt.mirror (n % 64) (match s.flt.mirrorQ with | (e, era) :: _ => .ofEntry (jbytes e) era (n + 1) true | [] => {}) else s.flt.mirror
      let s := s.rebuild false
      let s := (s.setReg P.pwrWakeSrc 0 0).setReg P.sysRstSrc 0 0
      { s with pwr := { s.pwr with mode := .unpowered }, flt := { s.flt with recs := [], mirror := mirror },
               pwm := { trips := s.pwm.trips }, gate := { dies := s.gate.dies } })

/-- POWER_ON (R35, R49, R518): boot starts in a new era. -/
def execPowerOn (s : State) : Out :=
  fin (
    if s.pwr.mode = .unpowered then
      let s := (s.newEra.setReg P.pwrWakeSrc 0 0x10).setReg P.sysRstSrc 0 1
      { s with pwr := { s.pwr with mode := .boot } }
    else s)

end Sys2Proof.Machine
end

