-- ==== Sys2Proof/Machine/Power.lean ====
section
/-! DEFINITION. Power states: PWR_SET, entry flush, wake sources, boot and the motion-wake sequence
(R29, R35, R37, R46 to R64, R435, R469 to R472, R479, R518, R526). -/

namespace Sys2Proof.Machine

/-- The epoch after `n` slow-clock cycles of 6,103.515625 ticks from `entry` (R37). -/
def carryEpoch (entry n : Nat) : Nat := entry + n * 390625 / 64

/-- A class A record has CAUSE = 1 (R394). -/
def State.classACause (s : State) : Bool := s.flt.recs.any (fun (k, x) => x.cause && selClass k == .a)

/-! FULL and back (R49). -/

/-- One drive as the engine clock and the generators stop: its run is dropped, and what waited for a boundary
takes effect. -/
def State.driveOff (s : State) (d : Nat) : State :=
  let s := ((s.endRun d (2 * s.epoch)).landSwap d).clearTables d
  let s := if (s.drv d).foc.inj.act.isSome then s.injEnd d else s
  let s := s.modDrv d (fun x => { x with car := { x.car with run := false, waitPulse := false, cnt := 0 },
                                         foc := { x.foc with inj := { x.foc.inj with pend := none } } })
  (s.setReg P.engStat d (s.reg P.engStat d &&& 0x40)).settleDrive d

/-- FULL to HALF: engine clock and generators off. -/
def State.leaveFull (s : State) : State :=
  let s := { s with pwr := { s.pwr with mode := .half, mwFull := false, mwStage := .none, idleStart := s.epoch } }
  let s := { s.each (List.range 4) (fun s d => s.driveOff d) with lanes := [] }
  s.applyGens (List.range 12) s.nowF []

/-! The way into FULL (R49, R50). -/

/-- The self-test that a PWR_SET `full` began is running; FULL is entered at its end. -/
def State.towardsFull (s : State) : Bool := s.gate.tests.any (fun t => t.cmd.isNone)

/-- SELFTEST_DONE (R353, R49). -/
def execSelftestDone (res : SelftestResult) (s : State) : Out :=
  fin (
    match s.endedTest with
    | none => s
    | some t =>
      let n := s.gate.tests.length
      let s := s.endTest t res
      if t.cmd = none ∧ s.gate.tests.length < n ∧ s.pwr.mode = .half ∧ s.pwr.entering = none then s.enterFull false else s)

/-! Entry into CRESCENT and NEW (R51 to R53). -/

/-- A wake event that is latched during an entry flush is early (R53). -/
def State.latchWake (s : State) (n : Nat) : State :=
  let early := if s.pwr.entering.isSome then 0x20 else 0
  { s with pwr := { s.pwr with wakeLatch := s.pwr.wakeLatch ||| 2 ^ n ||| early } }

/-- The entry is accepted: transactions and an open update are discarded (R118, R474), and the wake sources are
armed. -/
def State.beginEntry (s : State) (e : Entry) : State :=
  let s := s.each ((List.range 4).filter (fun d => (s.drv d).phase == .mwHold)) (fun s d => s.toStopped d)
  let s := if s.sec.fw.isSome then s.closeFw else s
  { s with txn := { s.txn with txns := [] }, pwr := { s.pwr with entering := some e, wakeLatch := 0, mwStage := .none } }

/-- An armed level-mode WAKE pin is active: its level is a free value (R52, R56). -/
def State.wakeActive (s : State) (new : Bool) : State × Bool :=
  if bit (s.reg P.pwrWakeCfg 0) 1 || !(new || bit (s.reg P.pwrWakeEn 0) 0) then (s, false)
  else
    let (f, s) := s.takeFree
    (s, bit f.toNat 0)

/-- PWR_SET (R49, R52, R394, R526). -/
def bodyPwrSet (s : State) (_ : Cmd) (pl : List Byte) : State × Reply :=
  let v := fieldAt pl 0 1
  if pl.length ≠ 1 then (s, .refuse St.length)
  else if 3 < v then (s, .refuse St.range)
  else if s.pwr.mode = .full then
    (if v = 3 then (s, .ok [])
     else if v = 2 then
       (if (List.range 4).all s.stopped then (s.leaveFull, .ok []) else (s, .refuse St.driveRunning))
     else (s, .refuse St.badState))
  else if v = 3 then
    (if s.anyUvlo then (s, .refuse St.uvlo)
     else
       let s := { s with pwr := { s.pwr with mwStage := .none } }
       if s.towardsFull then (s, .ok [])
       else (if s.testsPassed then s.enterFull false else s.startTest none [0, 1, 2], .ok []))
  else if v = 2 then (s, .ok [])
  else if s.classACause then (s, .refuse St.badState)
  else
    let (s, active) := s.wakeActive (v == 0)
    if active then (s, .refuse St.wakeActive) else (s.beginEntry (if v = 0 then .new else .crescent), .ok [])

def execPwrSet (h : Hdr) (pl : List Byte) (s : State) : Out := runCommand h 0x0301 pl s bodyPwrSet

/-- HALF_IDLE_EXPIRY (R49, R52, R55, R394). -/
def execHalfIdleExpiry (s : State) : Out :=
  fin (
    let n := s.reg P.pwrHalfIdle 0
    if s.pwr.mode ≠ .half ∨ s.serving = false ∨ n = 0 ∨ expired s.pwr.idleStart (sTicks n) s.epoch = false
        ∨ s.classACause = true then s
    else
      let (s, active) := s.wakeActive false
      if active then { s with pwr := { s.pwr with idleStart := s.epoch } } else s.beginEntry .crescent)

/-- ENTRY_FLUSH_DONE (R46, R48, R51, R53): lifetime counters, mirror and energy account are in MRAM; SRAM and
engine memory lose power. -/
def execEntryFlushDone (s : State) : Out :=
  fin (
    match s.pwr.entering with
    | none => s
    | some e =>
      if !s.awake then s
      else
        let s := s.enterDrafts
        let s := (s.flushLife.mirrorAll s.flt.mirrorQ.length).settleEnergy
        let mode : PwrMode := match e with | .new => .new | .crescent => .crescent
        let s := s.each (List.range 12) (fun s g => s.modGen g (fun x => { x with frozen := false }))
        let s := { s with pool := [], mem := mramOnly s.mem, bus := { s.bus with chops := [] },
                          pwr := { s.pwr with mode := mode, entering := none, crEntry := s.epoch, crCycles := 0, mw := [],
                                              mwSamples := 0, mwFull := false, mwStage := .none } }
        s.applyGens (List.range 12) s.nowF [])

/-! Wake (R48, R53, R54, R56 to R58). -/

/-- The wake is journalled with the epochs at entry and at exit (R37). -/
def State.journalWake (s : State) (entered : Nat) : State :=
  { s with flt := { s.flt with journal := s.flt.journal ++ [{ epoch := s.epoch, type := .wake, entered := entered }] } }

/-- The wake sequence starts with every source latched in this slow-clock cycle (R54): NEW starts a new era,
CRESCENT carries the epoch (R35, R37). -/
def State.wakeNow (s : State) : State :=
  let src := s.pwr.wakeLatch
  if src = 0 ∨ ¬ (s.pwr.mode = .new ∨ s.pwr.mode = .crescent) then s
  else
    let new := s.pwr.mode == .new
    let entered := s.pwr.crEntry
    let s := (s.rebuild false)
    let s := s.setReg P.pwrWakeSrc 0 (s.reg P.pwrWakeSrc 0 ||| src)
    let s := if new then s.newEra else (s.setBit P.timeEpochFlags 0 2 true).journalWake entered
    { s with pwr := { s.pwr with bootMotion := bit src 3 } }

/-- The sleep state that is held or being entered. -/
def State.sleep (s : State) : Option Entry :=
  match s.pwr.mode with
  | .new => some .new
  | .crescent => some .crescent
  | _ => s.pwr.entering

/-- The WAKE pin has stood at this level for `cycles` slow-clock cycles: it is the active level of PWR.WAKE_CFG.POL,
and the pulse is not shorter than the filter (R56). -/
def State.pinWakes (s : State) (high : Bool) (cycles : Nat) : Bool :=
  let cfg := s.reg P.pwrWakeCfg 0
  high != bit cfg 0 && decide (bits cfg 2 6 ≤ cycles)

/-- WAKE_PIN (R47, R53, R56). -/
def execWakePin (s : State) (high : Bool := true) (cycles : Half := 0xFFFF#16) : Out :=
  fin (
    if !s.pinWakes high cycles.toNat then s
    else match s.sleep with
    | some .new => s.latchWake 0
    | some .crescent => if bit (s.reg P.pwrWakeEn 0) 0 then s.latchWake 0 else s
    | none => s)

/-- The filter of the CAN wake detector in 0.1 µs. -/
def State.canWakeFilt (s : State) : Nat := ([5, 10, 20, 50][bits (s.reg P.pwrCanwCfg 0) 1 2]?).getD 5

/-- CRX has shown a dominant, a recessive and a dominant phase of these lengths in 0.1 µs: `dominant` wakes on the
first of them, `wup` on the pattern, which is complete as the third reaches the filter (R57). -/
def State.crxWakes (s : State) (dom rec_ dom2 : Nat) : Bool :=
  let f := s.canWakeFilt
  if bit (s.reg P.pwrCanwCfg 0) 0 then
    decide (f ≤ dom) && decide (f ≤ rec_) && decide (f ≤ dom2) && decide (dom + rec_ + f ≤ 10000)
  else decide (f ≤ dom)

/-- CAN_WAKE (R53, R57). -/
def execCanWake (s : State) (dom : Half := 50#16) (rec_ : Half := 50#16) (dom2 : Half := 50#16) : Out :=
  fin (
    if !s.crxWakes dom.toNat rec_.toNat dom2.toNat then s
    else match s.sleep with
    | some .crescent => if bit (s.reg P.pwrWakeEn 0) 1 then s.latchWake 1 else s
    | _ => s)

/-- WAKE_TIMER_EXPIRY (R58): the count since the end of the entry equals PWR.WAKE_TIMER. -/
def execWakeTimerExpiry (s : State) : Out :=
  fin (
    let n := s.reg P.pwrWakeTimer 0
    if s.pwr.mode = .crescent ∧ bit (s.reg P.pwrWakeEn 0) 2 = true ∧ n ≠ 0 ∧ n ≤ s.pwr.crCycles then s.latchWake 2 else s)

/-! Boot (R29, R169, R435, R469 to R472). -/

/-- A slot holds a valid Vioskik: each boot checks it under R470. The bytes of an image that no update has written
are Kearevi's, which the manual does not give; SEC.SLOT_STAT tells whether it is valid (assumption log 34). -/
def State.slotValid (s : State) (k : Nat) : Bool :=
  let v := s.reg P.secSlotStat k
  let a := targetBase k
  let written := s.mem.any (fun (x, _) => decide (a ≤ x) && decide (x < a + targetSize k))
  bit v 0 && decide (s.reg P.secArbCnt 0 ≤ bits v 16 16)
    && (!written || s.checkImage a 0 (targetSize k) == St.ok)

/-- The slot that boots, and whether it is the fallback; none in recovery (R471, R472). -/
def State.bootSlot (s : State) : Option (Nat × Bool) :=
  let p := s.reg P.secBootPref 0 % 2
  if s.slotValid p then some (p, false) else if s.slotValid (1 - p) then some (1 - p, true) else none

/-- FWREL of the image in a slot: the part's own where no update has been written there. -/
def State.slotRel (s : State) (k : Nat) : Nat :=
  let hd := Memory.readBytes s.mem (targetBase k) 192
  if hd.take 4 ≠ [0x59#8, 0x4E#8, 0x56#8, 0x49#8] then partFwRel
  else Nat.max 1 (Config.fwRelOf hd).toNat

/-- Step 4 of R471: the boot configuration, or its defaults with SEC_AUTH (R175). -/
def State.bootConfig (s : State) : State :=
  let a := targetBase 3
  if bit (s.reg P.secSlotStat 3) 0 = true ∧ s.checkImage a 2 (targetSize 3) = St.ok then
    let body := Memory.readBytes s.mem (a + 192) 4
    let set := fieldAt body 0 2 % 2 ^ 14
    let s := if 6 < popCount 12 set then s.report K.guardCfg 0 s.epoch else s.setReg P.pwmGuardSet 0 set
    (s.setReg P.pwmGuardSafe 0 (fieldAt body 2 1 % 2)).setReg P.secTaskAuto 0 (fieldAt body 3 1)
  else s.report K.secAuth 0 s.epoch

/-- A configuration record is loaded (R435). -/
def State.loadRecord (s : State) (r : ConfigRec) : State :=
  let a := r.regs.foldl (fun m (k, v) => Smap.set regReset m k v) s.r.a
  let s := { s with r := { a := a, b := r.bankB }, rcTab := r.rc }
  s.each [0, 1, 2, 3] (fun s d => s.setReg P.engBank d (Smap.get (fun _ => 0) r.active d))

/-- The reference at the end of boot (R29); whether the crystal runs is a free value. -/
def State.bootClock (s : State) : State :=
  let (f, s) := s.takeFree
  let ok := bit f.toNat 0
  let sel := s.reg P.timeRefSel 0
  let s := { s with pwr := { s.pwr with xtalOk := ok, xtalRef := ok && sel != 2 } }
  if sel = 1 ∧ ok = false then s.report K.xtalFail 0 s.epoch else s

/-- Timers and intervals start at the end of boot. -/
def State.bootTimers (s : State) : State :=
  let t := s.epoch
  let s := { s with
    pwr := { s.pwr with idleStart := t }, host := { s.host with lastMsg := t },
    chk := { s.chk with perAt := t, scrubAt := t, sramAt := t, engAt := t }, hk := { s.hk with due := t } }
  let s := s.each (List.range 12) (fun s g => (s.setFoster g { s.foster g with at_ := t }).modGen g (fun x => { x with accAt := s.nowF }))
  s.each [0, 1, 2, 3] (fun s b =>
    let s := s.setChecker b { s.checker b with vbusAt := t }
    let s := s.modDrv b (fun x => { x with since := t, trk := { x.trk with evTick := t, hallTick := t } })
    if s.hostMode P.thermPsMode b then
      s.each (gensOfBridge b) (fun s g =>
        { s with therm := { s.therm with hostAt := Smap.set (fun _ => none) s.therm.hostAt g (some t) } })
    else s)

/-- What follows from the loaded configuration: factory offsets of the gains, latch 11 of drives that own a
channel that its die holds (R169), trip inputs that are active (R162), ports, tasks of SEC.TASK_AUTO, CRC of the image (R182, R436, R441, R479). -/
def State.bootApply (s : State) : State :=
  let s := s.each [0, 1, 2, 3] (fun s b =>
    let g := s.reg P.adcGain b
    (s.setReg P.adcOfsA b (Config.ofsFactory false b g).toNat).setReg P.adcOfsB b (Config.ofsFactory true b g).toNat)
  let held := (List.range 12).filter (fun g => (s.chan g).xcmd)
  let gs := (held.map (fun g => match s.ownerOf (g / 3) with | some d => s.gensOf d | none => [g])).flatten
  let s := s.each gs (fun s g => s.modGen g (fun x => { x with fOff := x.fOff ||| 2 ^ 11 }))
  let s := s.each (List.range 8) (fun s t =>
    (s.tripSample t ((s.trip t).pin != bit (s.reg P.pwmTripCfg t) 1)).tripEnabled t)
  let s := s.portEn (s.reg P.linkPortEn 0)
  let store := s.mem.filter (fun (a, _) => decide (0x01300000 ≤ a) && decide (a < 0x01340000))
  let s := s.each (setBits 8 (s.reg P.secTaskAuto 0)) (fun s t => (s.loadTask t (Config.taskOffset store t) true).1)
  let crc := crc32C (Memory.readBytes s.mem s.imageBase (Nat.min 0x180000 s.imageLen))
  { s with chk := { s.chk with imageCrc := crc } }

/-- SEC.STAT, SEC.SVN_RUN and SYS.ID after boot; debug is `full` in `provision` (R472, R482). -/
def State.bootSec (s : State) (slot : Option (Nat × Bool)) : State :=
  let life := s.reg P.secStat 0 % 2
  let dbg := if life = 0 then 0x20 else 0
  match slot with
  | some (k, fb) =>
    ((s.setReg P.secStat 0 (life + k * 2 + fb.toNat * 8 + dbg)).setReg P.secSvnRun 0 (bits (s.reg P.secSlotStat k) 16 16)).setReg
      P.sysId 0 (sysIdOf (s.slotRel k))
  | none => ((s.setReg P.secStat 0 (life + 4 + dbg)).setReg P.secSvnRun 0 0).setReg P.sysId 0 (sysIdOf 0)

/-- The motion-wake sequence from step 4: VDRV UVLO is awaited (R61). -/
def State.mwBegin (s : State) : State :=
  { s with pwr := { s.pwr with mwStage := .vdrv, mwStart := s.epoch, mwQuiet := s.epoch, mwCancel := false } }

/-- The end of a boot that ran through: the BOOT_DONE event, and step 4 of R61 after a motion wake. -/
def State.bootFinish (s : State) (k : Nat) (motion : Bool) : State :=
  let s := s.event .other 0x4101 0 0 s.epoch
    (leBytes 1 k ++ leBytes 2 (s.reg P.secSvnRun 0) ++ leBytes 2 (s.reg P.secStat 0))
  let s := { s with pwr := { s.pwr with bootMotion := false } }
  if motion then
    (s.event .other 0x4301 0 0 s.epoch (leBytes 1 (s.reg P.pwrMwBridges 0))).mwBegin
  else s

/-- A boot that wants the crystal and does not find it stops (R29, assumption log 97). -/
def State.bootStop (s : State) : State :=
  { s with pwr := { s.pwr with bootMotion := false, bootStopped := true } }

/-- Steps 4 and 5 of R471 and step 3 of R61, with slot `k` running. -/
def State.bootRun (s : State) (k : Nat) (fb : Bool) : State :=
  let motion := s.pwr.bootMotion
  let s := if fb then s.report K.bootFallback 0 s.epoch else s
  let s := s.bootConfig
  let (s, rec?) := s.checkCopies true
  let s := match rec? with | some r => s.loadRecord r | none => s
  let s := (s.bootClock.bootTimers.bootApply).settleEnergy
  if s.reg P.timeRefSel 0 == 1 && !s.pwr.xtalOk then s.bootStop else s.bootFinish k motion

/-- BOOT_DONE (R471, R472): the device is in HALF. -/
def execBootDone (s : State) : Out :=
  fin (
    let s := s.wakeNow
    if s.pwr.mode ≠ .boot then s
    else
      let slot := s.bootSlot
      let s := { s with pwr := { s.pwr with mode := .half } }.bootSec slot
      (match slot with
       | some (k, fb) => s.bootRun k fb
       | none => { s with pwr := { s.pwr with bootMotion := false } }.bootClock.bootTimers.settleEnergy).stoBoot)

/-! Motion watch and the motion-wake sequence (R59 to R64). -/

/-- Motion edges of one bridge with the pattern of sample `n`; whether PWR.MW_EDGES of them lie within
PWR.MW_WINDOW (R59). -/
def State.watchSample (s : State) (n b p : Nat) : State × Bool × Bool :=
  let x := Smap.get (fun _ => ({} : MwWatch)) s.pwr.mw b
  let edge := match x.last with | some q => q != p | none => false
  let inWindow (e : Nat) : Bool := decide ((n - e) * 33 * 390625 ≤ s.reg P.pwrMwWindow 0 * 200000 * 64)
  let edges := ((if edge then [n] else []) ++ x.edges).filter inWindow
  let hit := edge && decide (s.reg P.pwrMwEdges 0 ≤ edges.length)
  let w : MwWatch := { last := some p, edges := if hit then [] else edges }
  ({ s with pwr := { s.pwr with mw := Smap.set (fun _ => {}) s.pwr.mw b w } }, edge, hit)

/-- The sample of every watched bridge: whether any edge came, and whether motion is detected. -/
def State.watchAll (s : State) (n : Nat) (ps : List Nat) : State × Bool × Bool :=
  (setBits 4 (s.reg P.pwrMwBridges 0)).foldl (fun (s, e, h) b =>
    let (s, e', h') := s.watchSample n b (ps[b]?.getD 0)
    (s, e || e', h || h')) (s, false, false)

/-- MOTION is recorded: in CRESCENT it wakes the device where it is enabled; in HALF the sequence goes on from
step 4 (R49, R53). -/
def State.motion (s : State) : State :=
  match s.sleep with
  | some .crescent => if bit (s.reg P.pwrWakeEn 0) 3 then s.latchWake 3 else s
  | some .new => s
  | none =>
    if s.pwr.mode = .half ∧ s.pwr.mwStage = .none ∧ s.serving = true then (s.setBit P.pwrWakeSrc 0 3 true).mwBegin else s

/-- MW_SAMPLE (R59, R63). -/
def execMwSample (p0 p1 p2 p3 : BitVec 2) (s : State) : Out :=
  fin (
    if !(s.awake || s.pwr.mode == .crescent) then s
    else
      let n := s.pwr.mwSamples + 1
      let s := { s with pwr := { s.pwr with mwSamples := n } }
      let (s, edge, hit) := s.watchAll n [p0.toNat, p1.toNat, p2.toNat, p3.toNat]
      let s := if edge then { s with pwr := { s.pwr with mwQuiet := s.epoch } } else s
      if hit then s.motion else s)

/-- MW_VDRV_WAIT_EXPIRY (R61). -/
def execMwVdrvWaitExpiry (s : State) : Out :=
  fin (
    if s.pwr.mwStage = .vdrv ∧ s.awake = true ∧ s.anyUvlo = true
        ∧ expired s.pwr.mwStart (msTicks (s.reg P.pwrMwVdrvWait 0)) s.epoch = true then
      { s with pwr := { s.pwr with mwStage := .unguarded } }.report K.mwUnguarded 0 s.epoch
    else s)

/-- A drive enters `mw_hold` and precharges (R61, R64). -/
def State.enterMwHold (s : State) (d : Nat) : State :=
  let s := (s.setPhase d .mwHold).modDrv d (fun x => { x with mwPre := true, mwListen := false, mwLow := false, stop := {} })
  (s.each (s.gensOf d) (fun s g => s.setReg P.pwmOvr g 2)).applyGens (s.gensOf d) s.nowF []

/-- MW_GUARD_START (R61, R64): UVLO is clear, and each drive that owns a watched bridge precharges. -/
def execMwGuardStart (s : State) : Out :=
  fin (
    if (s.pwr.mwStage = .vdrv ∨ s.pwr.mwStage = .unguarded) ∧ s.pwr.mode = .half ∧ s.serving = true ∧ s.anyUvlo = false then
      let ds := (s.ownersOf (setBits 4 (s.reg P.pwrMwBridges 0))).filter (fun d => s.computes d && s.stopped d)
      let s := s.each ds (fun s d => s.enterMwHold d)
      { s with pwr := { s.pwr with mwStage := .guarded } }
    else s)

/-- MW_QUIET_EXPIRY (R63): the drives in `mw_hold` float, and the device goes through HALF to CRESCENT. -/
def execMwQuietExpiry (s : State) : Out :=
  fin (
    let phaseOk (d : Nat) : Bool := s.stopped d || (s.drv d).phase == .mwHold
    if s.pwr.mode = .full ∧ s.pwr.mwFull = true ∧ s.pwr.mwCancel = false ∧ (List.range 4).all phaseOk = true
        ∧ expired s.pwr.mwQuiet (msTicks (s.reg P.pwrMwQuiet 0)) s.epoch = true then
      let s := s.each ((List.range 4).filter (fun d => (s.drv d).phase == .mwHold)) (fun s d => s.toStopped d)
      s.leaveFull.beginEntry .crescent
    else s)

end Sys2Proof.Machine
end

