-- ==== Sys2Proof/Machine/Mailbox.lean ====
section
/-! DEFINITION. The SPI port with its window (R73 to R78), and the mailbox: a message of a command ring is taken
and executed (R86 to R96). -/

namespace Sys2Proof.Machine

/-! The host window. -/

/-- What part of a parameter a word of the window is. -/
inductive WinPart where
  | whole | low | high
  deriving DecidableEq, Repr

/-- The HOST counters in the order of their parameter table. -/
def hostCounters : List Nat :=
  [P.hostSpiCrcErr, P.hostSpiFrameErr, P.hostMsgCrcErr, P.hostMsgFmtErr, P.hostDbErr, P.hostSeqGap, P.hostLateCnt,
   P.hostRespStall, P.hostCanReasmErr, P.hostCanBusoff]

/-- The register at a word offset below the aperture: ID, instance and part; none where it is reserved. -/
def winReg (o : Nat) : Option (Nat × Nat × WinPart) :=
  match o with
  | 0x00 => some (P.sysId, 0, .whole)
  | 0x04 => some (P.hostGstat, 0, .whole)
  | 0x08 => some (P.hostIrqPend, 0, .low)
  | 0x0C => some (P.hostIrqPend, 0, .high)
  | 0x10 => some (P.hostIrqEn, 0, .low)
  | 0x14 => some (P.hostIrqEn, 0, .high)
  | 0x18 => some (P.hostIrqGen, 0, .whole)
  | 0x1C => some (P.hostIrqHoldoff, 0, .whole)
  | 0x20 => some (P.timeEpoch, 0, .low)
  | 0x24 => some (P.timeEpoch, 0, .high)
  | 0x28 => some (P.timeSnapStat, 0, .whole)
  | 0x2C => some (P.hostAperture, 0, .whole)
  | _ =>
    if 0x100 ≤ o ∧ o < 0x500 then
      let r := (o - 0x100) / 16
      match o % 16 with
      | 0 => some (P.hostRingCfg, r, .whole)
      | 4 => some (P.hostRingIdx, r, .whole)
      | 8 => some (P.hostRingStamp, r, .low)
      | _ => some (P.hostRingStamp, r, .high)
    else if 0x500 ≤ o ∧ o < 0x600 then some (P.hostDoorbell, (o - 0x500) / 4, .whole)
    else if 0x600 ≤ o ∧ o < 0x600 + 4 * (hostCounters.length + 64) then
      let n := (o - 0x600) / 4
      match hostCounters[n]? with
      | some id => some (id, 0, .whole)
      | none => some (P.hostRingDrop, n - hostCounters.length, .whole)
    else none

/-- Pool address of a word of the aperture. -/
def State.poolAddr (s : State) (o : Nat) : Nat := s.reg P.hostAperture 0 * 0x8000 + (o - 0x8000)

/-- One word of the window as the SPI port reads it. -/
def State.winRead (s : State) (o : Nat) : State × Nat :=
  if 0x8000 ≤ o then (s, leNat (Memory.readBytes s.pool (s.poolAddr o) 4))
  else match winReg o with
    | none => (s, 0)
    | some (id, i, part) =>
      match directRow id i, part with
      | none, _ => (s, 0)
      | some row, .whole => s.readParam 0 row i
      | some row, .low => s.lowRead 0 row i
      | some row, .high => s.highRead 0 row i

/-- The words of a read frame, in ascending order. -/
def State.winReads (s : State) (o : Nat) : Nat → State × List Byte
  | 0 => (s, [])
  | n + 1 =>
    let (s, v) := s.winRead o
    let (s, bs) := State.winReads s (o + 4) n
    (s, leBytes 4 v ++ bs)

/-- A write of the low word is held, and one of the high word writes both (R43). -/
def State.writeHalf (s : State) (k : Nat) (row : ParamRow) (i v : Nat) (high : Bool) : State :=
  let x := s.snap k
  let a := some (snapAddr row.id i)
  if !writable row i then s
  else if !high then s.setSnap k { x with heldAddr := a, heldLow := v }
  else if x.heldAddr = a then
    (s.setSnap k { x with heldAddr := none, heldLow := 0 }).directWrite k row i (x.heldLow + v * 2 ^ 32)
  else (s.setBit P.timeSnapStat k 1 true).directWrite k row i (s.view k row.id i % 2 ^ 32 + v * 2 ^ 32)

/-- One word of the window is written; a reserved or read-only word keeps its value. -/
def State.winWrite (s : State) (o v : Nat) : State :=
  if 0x8000 ≤ o then { s with pool := Memory.writeBytes s.pool (s.poolAddr o) (leBytes 4 v) }
  else match winReg o with
    | none => s
    | some (id, i, part) =>
      match directRow id i, part with
      | none, _ => s
      | some row, .whole => s.directWrite 0 row i (v % 2 ^ row.bits)
      | some row, .low => s.writeHalf 0 row i v false
      | some row, .high => s.writeHalf 0 row i v true

/-- The words of a write frame, in ascending order. -/
def State.winWrites (s : State) (o : Nat) (n : Nat) (bs : List Byte) : State :=
  match n with
  | 0 => s
  | n + 1 => State.winWrites (s.winWrite o (fieldAt bs 0 4)) (o + 4) n (bs.drop 4)

/-! SPI frames (R73 to R77). -/

/-- The SPI port is up: boot, HALF or FULL, and no block reset of it. -/
def State.spiUp (s : State) : Bool := (s.awake || s.pwr.mode == .boot) && !s.flt.blk.contains .spi

/-- Bytes of a number, most significant first. -/
def beBytes (n v : Nat) : List Byte := (leBytes n v).reverse

/-- CRC-16/CCITT of a run of bytes, high byte first (R74). -/
def spiCrc (bs : List Byte) : List Byte := beBytes 2 (crc16 bs)

/-- GSTAT.SPI_ERR with a counter (R77). -/
def State.spiErr (s : State) (id : Nat) : State := (s.bump id 0 top32).flagGstat 6

/-- The window address and length of a header pass R77. -/
def spiAddrOk (addr len : Nat) : Bool := addr % 4 == 0 && decide (addr + 4 * len ≤ 0x10000)

/-- `n` bytes of SDO: what the device sends, then 0x00 (R77). -/
def sdoOf (n : Nat) (bs : List Byte) : List Byte := (bs ++ zeros (n - bs.length)).take n

/-- A read frame (R74, R76): the state after it, and SDO. -/
def State.spiRead (s : State) (sdi : List Byte) : State × List Byte :=
  let len := fieldAt sdi 3 1 + 1
  let addr := fieldAt sdi 1 1 * 256 + fieldAt sdi 2 1
  let stat := beBytes 4 s.gstat
  let crcOk := (sdi.drop 4).take 2 == spiCrc (sdi.take 4)
  let (t, data) := if crcOk && spiAddrOk addr len then s.winReads addr len else (s, zeros (4 * len))
  let crc := crc16 (stat ++ data)
  let good := crcOk && spiAddrOk addr len
  let sdo := stat ++ zeros 4 ++ data ++ beBytes 2 (if good then crc else 0xFFFF - crc)
  let t :=
    if sdi.length < 4 * len + 10 then t.spiErr P.hostSpiFrameErr
    else if !crcOk then t.spiErr P.hostSpiCrcErr
    else if !good then t.spiErr P.hostSpiFrameErr
    else t
  (t, sdo)

/-- A write frame (R74, R75). -/
def State.spiWrite (s : State) (sdi : List Byte) : State × List Byte :=
  let len := fieldAt sdi 3 1 + 1
  let addr := fieldAt sdi 1 1 * 256 + fieldAt sdi 2 1
  let body := sdi.take (4 + 4 * len)
  let crcOk := (sdi.drop (4 + 4 * len)).take 2 == spiCrc body
  let sdo (status : Nat) : List Byte := beBytes 4 s.gstat ++ zeros (4 * len + 2) ++ beBytes 2 status
  if sdi.length < 4 * len + 8 then (s.spiErr P.hostSpiFrameErr, sdo 0)
  else if !crcOk then (s.spiErr P.hostSpiCrcErr, sdo 0xC33C)
  else if !spiAddrOk addr len then (s.spiErr P.hostSpiFrameErr, sdo 0x3CC3)
  else (s.winWrites addr len (body.drop 4), sdo 0x5AA5)

/-- One frame, by its OP (R73, R77). -/
def State.spiFrame (s : State) (sdi : List Byte) : State :=
  let op := fieldAt sdi 0 1
  let (t, sdo) :=
    if sdi.length < 4 then (s.spiErr P.hostSpiFrameErr, beBytes 4 s.gstat)
    else if op = 0x0B then s.spiRead sdi
    else if op = 0x02 then s.spiWrite sdi
    else (s.spiErr P.hostSpiFrameErr, beBytes 4 s.gstat)
  { t with host := { t.host with sdo := sdoOf sdi.length sdo } }

/-- SPI_READ_FRAME (R73, R74, R76, R77). -/
def execSpiReadFrame (sdi : List Byte) (s : State) : Out := fin (if s.spiUp then s.spiFrame sdi else s)
/-- SPI_WRITE_FRAME (R73, R74, R75, R77). -/
def execSpiWriteFrame (sdi : List Byte) (s : State) : Out := fin (if s.spiUp then s.spiFrame sdi else s)

/-! The mailbox (R86 to R90, R96). -/

/-- The body of the command with an opcode of R96. -/
def bodyOf (op : Nat) (s : State) (c : Cmd) (pl : List Byte) : State × Reply :=
  match op with
  | 0x0100 => bodyPing s c pl
  | 0x0101 => bodyParamRead s c pl
  | 0x0102 => bodyParamWrite s c pl
  | 0x0103 => bodySysReset s c pl
  | 0x0301 => bodyPwrSet s c pl
  | 0x0501 => bodyTxnBegin s c pl
  | 0x0502 => bodyTxnCommit s c pl
  | 0x0503 => bodyTxnRollback s c pl
  | 0x1001 => bodyTripClear s c pl
  | 0x1101 => bodyAdcUrgent s c pl
  | 0x1401 => bodyDrvStart s c pl
  | 0x1402 => bodyDrvStop s c pl
  | 0x1501 => bodyEngSwap s c pl
  | 0x1502 => bodyCaptureArm s c pl
  | 0x1503 => bodyInjectSet s c pl
  | 0x1601 => bodySelftest s c pl
  | 0x1901 => bodyFltClear s c pl
  | 0x1902 => bodyFltInject s c pl
  | 0x1903 => bodyJournalRead s c pl
  | 0x1A01 => bodyChkScan s c pl
  | 0x1B01 => bodyLinkEnum s c pl
  | 0x1C01 => bodyFwBegin s c pl
  | 0x1C02 => bodyFwChunk s c pl
  | 0x1C03 => bodyFwFinish s c pl
  | 0x1C04 => bodyDbgChallenge s c pl
  | 0x1C05 => bodyDbgResponse s c pl
  | 0x1C06 => bodyTaskLoad s c pl
  | 0x1D01 => bodyPerfDump s c pl
  | _ => (s, .refuse St.badOpcode)

/-- A command taken on this tick acts at its end, unless one like it has begun meanwhile (R91, R389). -/
def State.serveAtEnd (s : State) (x : Cmd × List Byte) : State :=
  let (c, pl) := x
  if (match opcodeInfo c.opcode with | some (_, isDeferred) => isDeferred && s.isRunning c.opcode c.inst | none => false) then
    s.respond c St.busy 0xFFFF []
  else
    match bodyOf c.opcode s c pl with
    | (s, r) => s.reply c r

/-- The commands that waited for the end of the tick act, in the order in which they came (R389). -/
def State.serveAll (s : State) : State :=
  { s with host := { s.host with atEnd := [] } }.each s.host.atEnd State.serveAtEnd

/-- The command that the 16 header bytes of a message spell. -/
def cmdOfBytes (r now : Nat) (bs : List Byte) : Cmd :=
  { ring := r, opcode := fieldAt bs 0 2, tag := fieldAt bs 2 2, inst := fieldAt bs 4 1, flags := fieldAt bs 5 1,
    seq := fieldAt bs 12 4, arrival := now }

/-- The message at TAIL of ring r is taken: the room test of R90, the checks of R89, then R87 to R96. -/
def State.takeMessage (s : State) (r : Nat) : State :=
  if !s.hasRoom (r + 1) 1004 then s.stall r
  else
    let len := s.msgLength r
    let n := s.msgEntries r
    if 1004 < len then s.formatError r
    else if s.ringFilled r < n then s
    else
      let bs := (s.readEntries r (s.ringTail r) n).take (20 + len)
      let s := s.consumeMsg r n
      if leNat (bs.drop (16 + len)) ≠ crc32C (bs.take (16 + len)) then
        (s.bump P.hostMsgCrcErr 0 top32).flagGstat 5
      else
        let c := cmdOfBytes r s.epoch bs
        s.serve c (fieldAt bs 8 4) ((bs.drop 16).take len) (bodyOf c.opcode)

/-- The ring carries commands that the device takes now (R72, R84, R171, R472). -/
def State.takesFrom (s : State) (r : Nat) : Bool :=
  s.serving && !(s.recovery && r != 0) && (ringIface r).isSome && s.ringOn r && !cfgDir (s.ringCfg r)
    && decide (0 < s.ringFilled r)

/-- A message of the satellite core on ring 34 leaves for the device that its first byte names (R455). -/
def State.sendSatellite (s : State) : State :=
  let r := 34
  let len := s.msgLength r
  let n := s.msgEntries r
  if !s.hasRoom 35 1004 then s.stall r
  else if 1004 < len then s.formatError r
  else if s.ringFilled r < n then s
  else
    let bs := (s.readEntries r (s.ringTail r) n).take (24 + len)
    let s := s.consumeMsg r n
    if leNat (bs.drop (20 + len)) ≠ crc32C ((bs.drop 4).take (16 + len)) then
      (s.bump P.hostMsgCrcErr 0 top32).flagGstat 5
    else s.sendMbox (fieldAt bs 0 1) (bs.drop 4)

/-- Ring 34 holds a message (R455). -/
def State.satWaits (s : State) : Bool := s.serving && !s.recovery && s.ringOn 34 && decide (0 < s.ringFilled 34)

/-- A command waits on ring q that Vioskik can take: its ring has been enabled, it is whole or its LENGTH is wrong, and
its response ring has room (R89, R90). -/
def State.readyRing (s : State) (q : Nat) : Bool :=
  (if q = 34 then s.satWaits else s.takesFrom q) && s.hasRoom (q + 1) 1004
    && (decide (1004 < s.msgLength q) || decide (s.msgEntries q ≤ s.ringFilled q))

/-- Ring r may be served: it has not been served in the present turn, or no other ring that has not been is ready,
so that a new turn begins (R90, assumption log 86). -/
def State.inTurn (s : State) (r : Nat) : Bool :=
  !s.host.turn.contains r || !commandRings.any (fun q => !s.host.turn.contains q && s.readyRing q)

/-- Ring r is served in the present turn, or begins a new one. -/
def State.takeTurn (s : State) (r : Nat) : State :=
  if s.readyRing r then
    { s with host := { s.host with turn := if s.host.turn.contains r then [r] else r :: s.host.turn } }
  else s

/-- MAILBOX_MESSAGE_TAKEN (R86 to R90, R455). -/
def execMailboxMessageTaken (r : Fin 64) (s : State) : Out :=
  fin (
    if !s.inTurn r.val then s
    else if r.val = 34 then (if s.satWaits then (s.takeTurn 34).sendSatellite else s)
    else if s.takesFrom r.val then (s.takeTurn r.val).takeMessage r.val
    else s)

end Sys2Proof.Machine
end

