-- ==== Sys2Proof/Machine/Dispatch.lean ====
section
/-! DEFINITION. The dispatch: one arm per command, one direct call of its meaning. -/

namespace Sys2Proof.Machine

def exec (i : Instr) (s : State) : Host.Outcome State Fault Refusal :=
  match i with
  | .ping h pl => Sys2Proof.Machine.execPing h pl s
  | .paramRead h pl => Sys2Proof.Machine.execParamRead h pl s
  | .paramWrite h pl => Sys2Proof.Machine.execParamWrite h pl s
  | .sysReset h pl => Sys2Proof.Machine.execSysReset h pl s
  | .pwrSet h pl => Sys2Proof.Machine.execPwrSet h pl s
  | .txnBegin h pl => Sys2Proof.Machine.execTxnBegin h pl s
  | .txnCommit h pl => Sys2Proof.Machine.execTxnCommit h pl s
  | .txnRollback h pl => Sys2Proof.Machine.execTxnRollback h pl s
  | .tripClear h pl => Sys2Proof.Machine.execTripClear h pl s
  | .adcUrgent h pl => Sys2Proof.Machine.execAdcUrgent h pl s
  | .drvStart h pl => Sys2Proof.Machine.execDrvStart h pl s
  | .drvStop h pl => Sys2Proof.Machine.execDrvStop h pl s
  | .engSwap h pl => Sys2Proof.Machine.execEngSwap h pl s
  | .captureArm h pl => Sys2Proof.Machine.execCaptureArm h pl s
  | .injectSet h pl => Sys2Proof.Machine.execInjectSet h pl s
  | .selftest h pl => Sys2Proof.Machine.execSelftest h pl s
  | .fltClear h pl => Sys2Proof.Machine.execFltClear h pl s
  | .fltInject h pl => Sys2Proof.Machine.execFltInject h pl s
  | .journalRead h pl => Sys2Proof.Machine.execJournalRead h pl s
  | .chkScan h pl => Sys2Proof.Machine.execChkScan h pl s
  | .linkEnum h pl => Sys2Proof.Machine.execLinkEnum h pl s
  | .fwBegin h pl => Sys2Proof.Machine.execFwBegin h pl s
  | .fwChunk h pl => Sys2Proof.Machine.execFwChunk h pl s
  | .fwFinish h pl => Sys2Proof.Machine.execFwFinish h pl s
  | .dbgChallenge h pl => Sys2Proof.Machine.execDbgChallenge h pl s
  | .dbgResponse h pl => Sys2Proof.Machine.execDbgResponse h pl s
  | .taskLoad h pl => Sys2Proof.Machine.execTaskLoad h pl s
  | .perfDump h pl => Sys2Proof.Machine.execPerfDump h pl s
  | .registerWrite ifc id inst v => Sys2Proof.Machine.execRegisterWrite ifc id inst v s
  | .doorbellWrite r v => Sys2Proof.Machine.execDoorbellWrite r v s
  | .ringEnable r cfg => Sys2Proof.Machine.execRingEnable r cfg s
  | .ringDisable r => Sys2Proof.Machine.execRingDisable r s
  | .lowWordRead ifc id inst => Sys2Proof.Machine.execLowWordRead ifc id inst s
  | .highWordRead ifc id inst => Sys2Proof.Machine.execHighWordRead ifc id inst s
  | .lowWordWrite ifc id inst v => Sys2Proof.Machine.execLowWordWrite ifc id inst v s
  | .highWordWrite ifc id inst v => Sys2Proof.Machine.execHighWordWrite ifc id inst v s
  | .updCommit d => Sys2Proof.Machine.execUpdCommit d s
  | .rcClear d => Sys2Proof.Machine.execRcClear d s
  | .capStop d => Sys2Proof.Machine.execCapStop d s
  | .chkGo u => Sys2Proof.Machine.execChkGo u s
  | .chkHold u => Sys2Proof.Machine.execChkHold u s
  | .chkAbort u => Sys2Proof.Machine.execChkAbort u s
  | .arbCommitVioskik => Sys2Proof.Machine.execArbCommitVioskik s
  | .arbCommitTasks => Sys2Proof.Machine.execArbCommitTasks s
  | .secLock => Sys2Proof.Machine.execSecLock s
  | .keyWr e v => Sys2Proof.Machine.execKeyWr e v s
  | .bootPrefWrite b => Sys2Proof.Machine.execBootPrefWrite b s
  | .rngRead ifc => Sys2Proof.Machine.execRngRead ifc s
  | .fltSelWrite ifc sel => Sys2Proof.Machine.execFltSelWrite ifc sel s
  | .hostDecWrite path action => Sys2Proof.Machine.execHostDecWrite path action s
  | .hostTWrite g v => Sys2Proof.Machine.execHostTWrite g v s
  | .perfRun c => Sys2Proof.Machine.execPerfRun c s
  | .perfStop c => Sys2Proof.Machine.execPerfStop c s
  | .perfCntWrite e v => Sys2Proof.Machine.execPerfCntWrite e v s
  | .portEnWrite v => Sys2Proof.Machine.execPortEnWrite v s
  | .spiReadFrame sdi => Sys2Proof.Machine.execSpiReadFrame sdi s
  | .spiWriteFrame sdi => Sys2Proof.Machine.execSpiWriteFrame sdi s
  | .mailboxMessageTaken r => Sys2Proof.Machine.execMailboxMessageTaken r s
  | .msgTmoExpiry r => Sys2Proof.Machine.execMsgTmoExpiry r s
  | .lostEventWrite r => Sys2Proof.Machine.execLostEventWrite r s
  | .nirqHoldoffExpiry => Sys2Proof.Machine.execNirqHoldoffExpiry s
  | .canFrameReceived fr => Sys2Proof.Machine.execCanFrameReceived fr s
  | .canSegTmoExpiry => Sys2Proof.Machine.execCanSegTmoExpiry s
  | .canBusOff => Sys2Proof.Machine.execCanBusOff s
  | .txnIdleExpiry ifc => Sys2Proof.Machine.execTxnIdleExpiry ifc s
  | .commitResponse ifc => Sys2Proof.Machine.execCommitResponse ifc s
  | .configSaveDone => Sys2Proof.Machine.execConfigSaveDone s
  | .slowTmoExpiry g => Sys2Proof.Machine.execSlowTmoExpiry g s
  | .decTmoExpiry kind inst => Sys2Proof.Machine.execDecTmoExpiry kind inst s
  | .powerOn => Sys2Proof.Machine.execPowerOn s
  | .powerLoss => Sys2Proof.Machine.execPowerLoss s
  | .vcoreBrownout => Sys2Proof.Machine.execVcoreBrownout s
  | .nrstAssert => Sys2Proof.Machine.execNrstAssert s
  | .nrstRelease => Sys2Proof.Machine.execNrstRelease s
  | .chipResetStart => Sys2Proof.Machine.execChipResetStart s
  | .bootDone => Sys2Proof.Machine.execBootDone s
  | .watchdogExpiry => Sys2Proof.Machine.execWatchdogExpiry s
  | .wakePin high cycles => Sys2Proof.Machine.execWakePin s high cycles
  | .canWake dom rec_ dom2 => Sys2Proof.Machine.execCanWake s dom rec_ dom2
  | .wakeTimerExpiry => Sys2Proof.Machine.execWakeTimerExpiry s
  | .halfIdleExpiry => Sys2Proof.Machine.execHalfIdleExpiry s
  | .entryFlushDone => Sys2Proof.Machine.execEntryFlushDone s
  | .mwSample p0 p1 p2 p3 => Sys2Proof.Machine.execMwSample p0 p1 p2 p3 s
  | .mwVdrvWaitExpiry => Sys2Proof.Machine.execMwVdrvWaitExpiry s
  | .mwGuardStart => Sys2Proof.Machine.execMwGuardStart s
  | .mwRelistenExpiry d => Sys2Proof.Machine.execMwRelistenExpiry d s
  | .mwQuietExpiry => Sys2Proof.Machine.execMwQuietExpiry s
  | .bgChunkStart => Sys2Proof.Machine.execBgChunkStart s
  | .bgChunkEnd => Sys2Proof.Machine.execBgChunkEnd s
  | .bgWaitExpiry p => Sys2Proof.Machine.execBgWaitExpiry p s
  | .throttlePauseEnd => Sys2Proof.Machine.execThrottlePauseEnd s
  | .periodicCheckTimer => Sys2Proof.Machine.execPeriodicCheckTimer s
  | .mramScrubTimer => Sys2Proof.Machine.execMramScrubTimer s
  | .xtalLoss => Sys2Proof.Machine.execXtalLoss s
  | .reloadPoint d => Sys2Proof.Machine.execReloadPoint d s
  | .compareEdge g frac => Sys2Proof.Machine.execCompareEdge g frac s
  | .deadTimeEnd g => Sys2Proof.Machine.execDeadTimeEnd g s
  | .syncChainWrap => Sys2Proof.Machine.execSyncChainWrap s
  | .syncInEdge rawAgo frac rising => Sys2Proof.Machine.execSyncInEdge rawAgo frac s rising
  | .syncPulse b => Sys2Proof.Machine.execSyncPulse b s
  | .syncLossTimeout d => Sys2Proof.Machine.execSyncLossTimeout d s
  | .tripRawEdge t level frac => Sys2Proof.Machine.execTripRawEdge t level frac s
  | .tripFilteredEdge t => Sys2Proof.Machine.execTripFilteredEdge t s
  | .debugHalt c => Sys2Proof.Machine.execDebugHalt c s
  | .debugResume => Sys2Proof.Machine.execDebugResume s
  | .adcSample k code orng => Sys2Proof.Machine.execAdcSample k code orng s
  | .windowDelivered b => Sys2Proof.Machine.execWindowDelivered b s
  | .vbusAgeExpiry b => Sys2Proof.Machine.execVbusAgeExpiry b s
  | .hkRoundStart => Sys2Proof.Machine.execHkRoundStart s
  | .hkConversionDone code => Sys2Proof.Machine.execHkConversionDone code s
  | .posInputEdge p level rawAgo => Sys2Proof.Machine.execPosInputEdge p level rawAgo s
  | .posZeroTmo d => Sys2Proof.Machine.execPosZeroTmo d s
  | .zcComparatorEdge b line rising frac => Sys2Proof.Machine.execZcComparatorEdge b line rising frac s
  | .prechargeElapsed d => Sys2Proof.Machine.execPrechargeElapsed d s
  | .listenExpiry d => Sys2Proof.Machine.execListenExpiry d s
  | .alignElapsed d => Sys2Proof.Machine.execAlignElapsed d s
  | .olTMaxExpiry d => Sys2Proof.Machine.execOlTMaxExpiry d s
  | .ascStepExpiry d => Sys2Proof.Machine.execAscStepExpiry d s
  | .brakeMaxExpiry d => Sys2Proof.Machine.execBrakeMaxExpiry d s
  | .stopTMaxExpiry d => Sys2Proof.Machine.execStopTMaxExpiry d s
  | .softTMaxExpiry d => Sys2Proof.Machine.execSoftTMaxExpiry d s
  | .engRunStart l => Sys2Proof.Machine.execEngRunStart l s
  | .engRunFinish l => Sys2Proof.Machine.execEngRunFinish l s
  | .engDeadlineMiss d => Sys2Proof.Machine.execEngDeadlineMiss d s
  | .desatDetect g low latched => Sys2Proof.Machine.execDesatDetect g low latched s
  | .hocEdge b => Sys2Proof.Machine.execHocEdge b s
  | .softTurnoffStep2 d => Sys2Proof.Machine.execSoftTurnoffStep2 d s
  | .vdrvUvFall j => Sys2Proof.Machine.execVdrvUvFall j s
  | .vdrvUvRise j => Sys2Proof.Machine.execVdrvUvRise j s
  | .bstUv g => Sys2Proof.Machine.execBstUv g s
  | .xcmdDie g => Sys2Proof.Machine.execXcmdDie g s
  | .stoActive j stob => Sys2Proof.Machine.execStoActive j stob s
  | .stoDiscTimeout j => Sys2Proof.Machine.execStoDiscTimeout j s
  | .selftestDone res => Sys2Proof.Machine.execSelftestDone res s
  | .uvFiltExpiry n uv2 => Sys2Proof.Machine.execUvFiltExpiry n uv2 s
  | .ov4Edge b => Sys2Proof.Machine.execOv4Edge b s
  | .ov4Release n => Sys2Proof.Machine.execOv4Release n s
  | .chopCheckExpiry c => Sys2Proof.Machine.execChopCheckExpiry c s
  | .chopDesat c => Sys2Proof.Machine.execChopDesat c s
  | .shdnRecordWrite => Sys2Proof.Machine.execShdnRecordWrite s
  | .penumbraExpiry => Sys2Proof.Machine.execPenumbraExpiry s
  | .mirrorWrite => Sys2Proof.Machine.execMirrorWrite s
  | .journalTailEntry => Sys2Proof.Machine.execJournalTailEntry s
  | .injTimeout => Sys2Proof.Machine.execInjTimeout s
  | .eccSbe m addr => Sys2Proof.Machine.execEccSbe m addr s
  | .eccDbe m addr by_ => Sys2Proof.Machine.execEccDbe m addr by_ s
  | .scrubRead eng => Sys2Proof.Machine.execScrubRead eng s
  | .lockstep => Sys2Proof.Machine.execLockstep s
  | .portUp p inverted => Sys2Proof.Machine.execPortUp p inverted s
  | .portDown p => Sys2Proof.Machine.execPortDown p s
  | .dlyRespTimeout p => Sys2Proof.Machine.execDlyRespTimeout p s
  | .dlyReqTimer p => Sys2Proof.Machine.execDlyReqTimer p s
  | .syncSendTimer => Sys2Proof.Machine.execSyncSendTimer s
  | .sync f => Sys2Proof.Machine.execSync f s
  | .syncMissingTimeout => Sys2Proof.Machine.execSyncMissingTimeout s
  | .dlyReq f => Sys2Proof.Machine.execDlyReq f s
  | .dlyResp f => Sys2Proof.Machine.execDlyResp f s
  | .heal f => Sys2Proof.Machine.execHeal f s
  | .report f => Sys2Proof.Machine.execReport f s
  | .duty f => Sys2Proof.Machine.execDuty f s
  | .ha f => Sys2Proof.Machine.execHa f s
  | .mbox f => Sys2Proof.Machine.execMbox f s
  | .trouble f => Sys2Proof.Machine.execTrouble f s
  | .ack f => Sys2Proof.Machine.execAck f s
  | .enum f => Sys2Proof.Machine.execEnum f s
  | .enumReply f => Sys2Proof.Machine.execEnumReply f s
  | .join f => Sys2Proof.Machine.execJoin f s
  | .gang f => Sys2Proof.Machine.execGang f s
  | .gangAck f => Sys2Proof.Machine.execGangAck f s
  | .retxTmoExpiry p => Sys2Proof.Machine.execRetxTmoExpiry p s
  | .enumCollectEnd => Sys2Proof.Machine.execEnumCollectEnd s
  | .gangAckTimeout d => Sys2Proof.Machine.execGangAckTimeout d s
  | .reportWaitExpiry d => Sys2Proof.Machine.execReportWaitExpiry d s
  | .portFree p => Sys2Proof.Machine.execPortFree p s
  | .mboxSegTimeout src => Sys2Proof.Machine.execMboxSegTimeout src s
  | .upstreamClockLoss => Sys2Proof.Machine.execUpstreamClockLoss s
  | .fwTmoExpiry => Sys2Proof.Machine.execFwTmoExpiry s
  | .fwFinishComplete => Sys2Proof.Machine.execFwFinishComplete s
  | .taskLoadComplete => Sys2Proof.Machine.execTaskLoadComplete s
  | .trngHealthFail => Sys2Proof.Machine.execTrngHealthFail s
  | .trngRetest passed => Sys2Proof.Machine.execTrngRetest passed s
  | .perfOverflow e two => Sys2Proof.Machine.execPerfOverflow e two s
  | .perfSample c r => Sys2Proof.Machine.execPerfSample c r s
  | .perfDumpTick => Sys2Proof.Machine.execPerfDumpTick s
  | .stoRelease stob => Sys2Proof.Machine.execStoRelease stob s
  | .hocRelease b => Sys2Proof.Machine.execHocRelease b s
  | .ov4ComparatorInactive b => Sys2Proof.Machine.execOv4ComparatorInactive b s
  | .blockResetDone u => Sys2Proof.Machine.execBlockResetDone u s
  | .canErrorPassive => Sys2Proof.Machine.execCanErrorPassive s
  | .frameCrcFail p why => Sys2Proof.Machine.execFrameCrcFail p why s
  | .userModeAccessFault t => Sys2Proof.Machine.execUserModeAccessFault t s

end Sys2Proof.Machine
end

