-- ==== Sys2Proof/Machine/Tick.lean ====
section
/-! DEFINITION. One tick of 5 ns, or in CRESCENT one slow-clock cycle: what time alone does (assumption
log 8). Timeouts and other events are commands of their own. -/

namespace Sys2Proof.Machine

/-- What a core does in one cycle, as a free word: asleep, the classes of its two slots (R494), and the
other events of R493 that instructions cause (assumption log 7). -/
def coreEvent (w evt : Nat) : Nat :=
  let asleep := bit w 0
  let cls (i : Nat) : Nat := bits w (1 + 2 * i) 2
  let slots (k : Nat) : Nat := if asleep then 0 else (decide (cls 0 = k)).toNat + (decide (cls 1 = k)).toNat
  if evt = 0x01 then 1
  else if evt = 0x02 ∨ evt = 0x03 then slots 0
  else if evt = 0x04 then slots 1
  else if evt = 0x05 then slots 2
  else if evt = 0x06 then slots 3
  else if evt = 0x18 then asleep.toNat
  else if evt = 0x20 then (bit w 29 && !asleep).toNat
  else if 0x08 ≤ evt ∧ evt ≤ 0x0B ∨ 0x10 ≤ evt ∧ evt ≤ 0x15 ∨ evt = 0x19 then
    (bit w (evt % 32) && !asleep).toNat
  else 0

/-- The tick's increments of a core's counters (R488, R492). The mode that PERF.EVT.MODE restricts to is
the free word's. -/
def State.countCore (s : State) (c : Nat) : State :=
  if s.coreHalted c then s
  else
    let s := s.setReg P.perfCycle c ((s.reg P.perfCycle c + 1) % 2 ^ 64)
    if s.reg P.perfCtl c = 0 then s
    else
      let (f, s) := s.takeFree
      let w := f.toNat
      let user := bit w 31
      s.each (List.range 6) (fun s k =>
        let v := s.reg P.perfEvt (6 * c + k)
        let inMode := bits v 8 2 = 0 ∨ bits v 8 2 = 1 ∧ user = false ∨ bits v 8 2 = 2 ∧ user = true
        let n := coreEvent w (bits v 0 8)
        if n ≠ 0 ∧ inMode then s.countOn (6 * c + k) n else s)

/-- The carrier counters and the chain counter count (R135, R153); none counts in a debug halt (R171). -/
def State.tickPwm (s : State) : State :=
  if s.pwr.mode ≠ .full ∨ s.pwm.halted.isSome then s
  else
    let s := s.each (List.range 4) (fun s d => s.tickCounter d)
    let s := { s with pwm := { s.pwm with chain := if s.pwm.chain + 1 < s.reg P.pwmSyncPeriod 0 then s.pwm.chain + 1 else 0 } }
    -- R454: with SYNC_SRC = `link` the chain reference falls at multiples of SYNC_PERIOD
    if s.reg P.pwmSyncSrc 0 = 2 ∧ bit (s.reg P.linkStat 0) 2 = true ∧ s.epoch % s.reg P.pwmSyncPeriod 0 = 0 then s.chainRef s.epoch
    else s

/-- The end of a tick: the commands that wait for it act (R389), the block resets asked for start (R403), its reports
are entered (R398), and what its counters did is told and dumped (R493, R503). -/
def State.endOfTick (s : State) : State := s.serveAll.startBlks.enterDrafts.tellOverflows.takeDump

/-- What one tick does, or in CRESCENT one slow-clock cycle (R35, R37), at whose end a latched wake starts
(R53, R54). The tick before it ends first; what was sent in it has left the pins. -/
def State.passTick (s : State) : State :=
  let s := { s with host := { s.host with canTx := [] }, link := { s.link with tx := [] } }
  let s := if s.awake then s.endOfTick else s
  match s.pwr.mode with
  | .unpowered => s
  | .new => s.wakeNow
  | .crescent =>
    let n := s.pwr.crCycles + 1
    { s with epoch := carryEpoch s.pwr.crEntry n, pwr := { s.pwr with crCycles := n } }.wakeNow
  | .reset => { s with epoch := s.epoch + 1 }
  | .boot => { s with epoch := s.epoch + 1 }
  | _ =>
    -- a halt takes effect at the end of the tick of its request (R171)
    let s := if s.pwm.haltReq then s.haltDevice else s
    (((((((((({ s with epoch := s.epoch + 1 }).watchOv4).sampleTrips).arriveResults).countCore 0).countCore 1).blkHold).scanTick).tickPwm).seeReady).linkFlush

/-- One tick; the pins follow the new state. -/
def State.tick (s : State) : State := s.passTick.settle

end Sys2Proof.Machine
end

