-- ==== Sys2Proof/Safety.lean ====
section
/-! DEFINITION. The terms that claims are stated in: what nIRQ owes its sources, memory in its canonical form, a leg
of a bridge that is not shorted, and when a mailbox command or a Dexlia frame reaches its own effect. -/

namespace Sys2Proof.Machine

/-- nIRQ is asserted exactly while its condition holds, but for the hold-off after a release (R98, R99). -/
def State.irqHonest (s : State) : Prop :=
  (s.irqCond = false → s.host.nirq = false) ∧
  (s.irqCond = true → s.host.nirq = true ∨
    ∃ t, s.host.nirqOff = some t ∧ s.reg P.hostIrqHoldoff 0 ≠ 0
      ∧ expired t (usTicks (s.reg P.hostIrqHoldoff 0)) s.epoch = false)

/-- The ring pool and the byte memories are in their canonical form. -/
def State.memOk (s : State) : Prop := Memory.wf s.pool = true ∧ Memory.wf s.mem = true

/-- The gates of one generator are not commanded on together (R142). -/
def Gen.legSafe (x : Gen) : Prop := ¬ (x.gh = true ∧ x.gl = true)

/-- The mailbox command with an opcode of R96, a header and a payload. -/
def mailboxInstr (op : Nat) (h : Hdr) (pl : List Byte) : Option Instr :=
  match op with
  | 0x0100 => some (.ping h pl)
  | 0x0101 => some (.paramRead h pl)
  | 0x0102 => some (.paramWrite h pl)
  | 0x0103 => some (.sysReset h pl)
  | 0x0301 => some (.pwrSet h pl)
  | 0x0501 => some (.txnBegin h pl)
  | 0x0502 => some (.txnCommit h pl)
  | 0x0503 => some (.txnRollback h pl)
  | 0x1001 => some (.tripClear h pl)
  | 0x1101 => some (.adcUrgent h pl)
  | 0x1401 => some (.drvStart h pl)
  | 0x1402 => some (.drvStop h pl)
  | 0x1501 => some (.engSwap h pl)
  | 0x1502 => some (.captureArm h pl)
  | 0x1503 => some (.injectSet h pl)
  | 0x1601 => some (.selftest h pl)
  | 0x1901 => some (.fltClear h pl)
  | 0x1902 => some (.fltInject h pl)
  | 0x1903 => some (.journalRead h pl)
  | 0x1A01 => some (.chkScan h pl)
  | 0x1B01 => some (.linkEnum h pl)
  | 0x1C01 => some (.fwBegin h pl)
  | 0x1C02 => some (.fwChunk h pl)
  | 0x1C03 => some (.fwFinish h pl)
  | 0x1C04 => some (.dbgChallenge h pl)
  | 0x1C05 => some (.dbgResponse h pl)
  | 0x1C06 => some (.taskLoad h pl)
  | 0x1D01 => some (.perfDump h pl)
  | _ => none

/-- The body of this command is executed, now or at the end of the tick: its ring carries commands and is served, its
response ring has room for 1,024 bytes, it is no RETRY of the last command, its deadline has not passed, and neither a
lock, its instance nor a command still running refuses it (R87 to R91, R96, R472). -/
def State.admits (s : State) (h : Hdr) (op : Nat) : Bool :=
  let c := cmdOf h op s.epoch
  let u := s.served c
  (ringIface c.ring).isSome && s.serving && !(s.recovery && c.ring != 0) && s.hasRoom (c.ring + 1) 1004
    && !(s.hear c).asksAgain c && !tooLate c h.deadline.toNat && !u.lockedOut c
    && (match opcodeInfo op with
        | some (takesInst, isDeferred) => (takesInst || c.inst == 0) && !(isDeferred && u.isRunning op c.inst)
        | none => false)

/-- The body of this command is executed now: it does not wait for the end of a housekeeping round (R389). -/
def State.serves (s : State) (h : Hdr) (op : Nat) : Bool :=
  s.admits h op && !(s.served (cmdOf h op s.epoch)).waitsForRound (cmdOf h op s.epoch)

/-- The state in which the body of a mailbox command runs, and the command. -/
def State.bodyState (s : State) (h : Hdr) (op : Nat) : State := s.served (cmdOf h op s.epoch)

/-- A received frame of type t reaches its effect: its port takes it, it passes authentication, it is for this device
and, in class 3, it is new (R441, R444 to R448). -/
def State.takesFrame (s : State) (t : Nat) (f : Frame) : Bool :=
  s.awake && s.portState f.port.val != portOff && (s.injectFrame f.port.val).isNone && s.portTakes t f
    && !(s.linkAuth && !bit f.flags.toNat 0) && s.frameMine f
    && ((frameClass t).getD 3 != 3
        || (!(s.linkAuth && !s.frameNewer t f) && s.frameFresh t f))

/-- The registers that taking a command and answering it move by themselves: the rings' indices, stamps and drops, the
bits and counters of the host interface (R80, R83, R87, R98), and the performance counters (R488, R496). -/
def hostOwn : List Nat :=
  [P.hostRingIdx, P.hostRingStamp, P.hostRingDrop, P.hostIrqPend, P.hostGstat, P.hostSeqGap, P.perfCnt, P.perfOvf]

/-- The command of a class 3 frame of a type (R444); ENUM_REPLY, which its UID tells apart, is not one of them. -/
def class3Instr (t : Nat) (f : Frame) : Option Instr :=
  match t with
  | 0x30 => some (.mbox f)
  | 0x31 => some (.trouble f)
  | 0x32 => some (.ack f)
  | 0x40 => some (.enum f)
  | 0x42 => some (.join f)
  | 0x43 => some (.gang f)
  | 0x44 => some (.gangAck f)
  | _ => none

/-- A received frame for this device on a link without authentication, whose SEQ is that of the last frame of its type
from its source (R445, R448). -/
def State.duplicate (s : State) (t : Nat) (f : Frame) : Bool :=
  s.awake && s.portState f.port.val != portOff && (s.injectFrame f.port.val).isNone && s.portTakes t f
    && !s.linkAuth && s.frameMine f && !s.frameFresh t f

end Sys2Proof.Machine
end

