-- ==== Sys2Proof/Certificates/Slice0/Obligations.lean ====
section
/-! DEFINITION. The statements for the provers. The completion statements come first: for every command, where exec
answers a next state and what that state is. A command's own effect is named by the definitions of the model, and
`settle` is the nIRQ pin following its condition at the end of a step. After them stand the statements of what the
rules promise: the queue, the mailbox, the SPI port, transactions, the link, security, faults and the gates. -/

open Sys2Proof Sys2Proof.Machine

/-- A served PING, PARAM_READ, PERF_DUMP, JOURNAL_READ (journal and mirror) or ADC_URGENT whose payload passes its checks answers a next state: the one in which its body runs, with the effect and the response that its rule gives. -/
def Obligations.HostQueriesAnswer : Prop :=
  (∀ (s : State) (h : Hdr),
      let c := cmdOf h 0x0100 s.epoch
      let u := s.bodyState h 0x0100
      s.serves h 0x0100 = true →
      exec (.ping h []) s = .next (State.settle (State.reply (u) c (.ok (leBytes 8 u.epoch))))) ∧
  (∀ (s : State) (h : Hdr) (pl : List Byte),
      let c := cmdOf h 0x0101 s.epoch
      let u := s.bodyState h 0x0101
      s.serves h 0x0101 = true →
      pl.length % 4 = 0 →
      u.readCheck 0 4 pl = none →
      exec (.paramRead h pl) s = .next (State.settle (State.reply ((u.readItems c.iface [] pl).1) c (.ok (u.readItems c.iface [] pl).2)))) ∧
  (∀ (s : State) (h : Hdr),
      let c := cmdOf h 0x1D01 s.epoch
      let u := s.bodyState h 0x1D01
      s.serves h 0x1D01 = true →
      h.inst.toNat < 2 →
      exec (.perfDump h []) s = .next (State.settle (State.reply (u) c (.ok (u.coreRecord h.inst.toNat true (u.perfSeq h.inst.toNat) false))))) ∧
  (∀ (s : State) (h : Hdr),
      let c := cmdOf h 0x1D01 s.epoch
      let u := s.bodyState h 0x1D01
      s.serves h 0x1D01 = true →
      h.inst = 2 →
      exec (.perfDump h []) s = .next (State.settle (State.reply (u) c (.ok (leBytes 1 u.engDrives.length ++ zeros 3
        ++ (u.engDrives.map (fun d => u.engRecord d (u.perfSeq 2) false)).flatten))))) ∧
  (∀ (s : State) (h : Hdr) (pl : List Byte),
      let c := cmdOf h 0x1903 s.epoch
      let u := s.bodyState h 0x1903
      s.serves h 0x1903 = true →
      pl.length = 4 →
      fieldAt pl 0 1 = 0 →
      1 ≤ fieldAt pl 2 1 →
      fieldAt pl 2 1 ≤ 31 →
      fieldAt pl 3 1 = 0 →
      (bit (fieldAt pl 1 1) 0 = false ∨ u.reg P.fltStream 0 ≠ 1) →
      exec (.journalRead h pl) s = .next (State.settle (State.reply (if bit (fieldAt pl 1 1) 0 then { u with flt := { u.flt with journal := u.flt.journal.drop (fieldAt pl 2 1) } } else u) c (.ok (leBytes 1 (u.flt.journal.take (fieldAt pl 2 1)).length
        ++ leBytes 1 (Nat.min 255 (u.flt.journal.length - (u.flt.journal.take (fieldAt pl 2 1)).length)) ++ zeros 2
        ++ ((u.flt.journal.take (fieldAt pl 2 1)).map jbytes).flatten))))) ∧
  (∀ (s : State) (h : Hdr) (pl : List Byte),
      let c := cmdOf h 0x1903 s.epoch
      let u := s.bodyState h 0x1903
      s.serves h 0x1903 = true →
      pl.length = 4 →
      fieldAt pl 0 1 = 1 →
      1 ≤ fieldAt pl 2 1 →
      fieldAt pl 2 1 ≤ 27 →
      fieldAt pl 3 1 ≤ 63 →
      bit (fieldAt pl 1 1) 0 = false →
      exec (.journalRead h pl) s = .next (State.settle (State.reply (u) c (.ok (leBytes 1 (takeGood (fieldAt pl 2 1) (u.mirrorSlots.drop (fieldAt pl 3 1))).1.length
        ++ leBytes 1 (Nat.min 255 (takeGood (fieldAt pl 2 1) (u.mirrorSlots.drop (fieldAt pl 3 1))).2.2.length)
        ++ leBytes 1 (takeGood (fieldAt pl 2 1) (u.mirrorSlots.drop (fieldAt pl 3 1))).2.1 ++ zeros 1
        ++ ((takeGood (fieldAt pl 2 1) (u.mirrorSlots.drop (fieldAt pl 3 1))).1.map
              (fun x => x.bytes.take 36)).flatten))))) ∧
  (∀ (s : State) (h : Hdr),
      let c := cmdOf h 0x1101 s.epoch
      let u := s.bodyState h 0x1101
      s.serves h 0x1101 = true →
      h.inst.toNat ≤ 31 →
      u.hk.conv = none →
      u.hk.round = false →
      u.epoch + u.hkTicks < u.hk.due →
      exec (.adcUrgent h []) s = .next (State.settle (State.reply (u.hkStart h.inst.toNat (some c)) c (.later))))

/-- A served TXN_BEGIN with no transaction open, PARAM_WRITE whose items pass their checks (staged, or as an implicit transaction), TXN_COMMIT and TXN_ROLLBACK of an open transaction, and ENG_SWAP in its three forms (staged, at once, at the next boundary) answer a next state with the effect and the response that their rules give. -/
def Obligations.TransactionCommandsRun : Prop :=
  (∀ (s : State) (h : Hdr),
      let c := cmdOf h 0x0501 s.epoch
      let u := s.bodyState h 0x0501
      s.serves h 0x0501 = true →
      (u.txnOf c.iface).isOpen = false →
      exec (.txnBegin h []) s = .next (State.settle (State.reply (u.setTxn c.iface { isOpen := true, pairs := [], idle := u.epoch }) c (.ok [])))) ∧
  (∀ (s : State) (h : Hdr) (pl : List Byte),
      let c := cmdOf h 0x0502 s.epoch
      let u := s.bodyState h 0x0502
      s.serves h 0x0502 = true →
      pl.length = 1 →
      (u.txnOf c.iface).isOpen = true →
      (bit (fieldAt pl 0 1) 0 = false ∨ u.txn.saving = none) →
      u.validate (u.txnOf c.iface).pairs = none →
      exec (.txnCommit h pl) s = .next (State.settle (State.reply (((u.setTxn c.iface {}).accept c (u.txnOf c.iface).pairs (bit (fieldAt pl 0 1) 0)).1) c (((u.setTxn c.iface {}).accept c (u.txnOf c.iface).pairs (bit (fieldAt pl 0 1) 0)).2)))) ∧
  (∀ (s : State) (h : Hdr),
      let c := cmdOf h 0x0503 s.epoch
      let u := s.bodyState h 0x0503
      s.serves h 0x0503 = true →
      (u.txnOf c.iface).isOpen = true →
      exec (.txnRollback h []) s = .next (State.settle (State.reply (u.setTxn c.iface {}) c (.ok (leBytes 2 (u.txnOf c.iface).pairs.length))))) ∧
  (∀ (s : State) (h : Hdr) (pl : List Byte) (l : List Staged),
      let c := cmdOf h 0x0102 s.epoch
      let u := s.bodyState h 0x0102
      s.serves h 0x0102 = true →
      (u.txnOf c.iface).isOpen = true →
      u.stageItems c.iface (u.txnOf c.iface).pairs 0 (pl.length + 1) pl = (none, l) →
      exec (.paramWrite h pl) s = .next (State.settle (State.reply (u.setTxn c.iface { u.txnOf c.iface with pairs := l, idle := u.epoch }) c (.ok [])))) ∧
  (∀ (s : State) (h : Hdr) (pl : List Byte) (l : List Staged),
      let c := cmdOf h 0x0102 s.epoch
      let u := s.bodyState h 0x0102
      s.serves h 0x0102 = true →
      (u.txnOf c.iface).isOpen = false →
      u.stageItems c.iface [] 0 (pl.length + 1) pl = (none, l) →
      u.validate l = none →
      exec (.paramWrite h pl) s = .next (State.settle (State.reply ((u.accept c l false).1) c ((u.accept c l false).2)))) ∧
  (∀ (s : State) (h : Hdr) (pl : List Byte) (l : List Staged),
      let c := cmdOf h 0x1501 s.epoch
      let u := s.bodyState h 0x1501
      s.serves h 0x1501 = true →
      h.inst.toNat ≤ 3 →
      pl.length = 1 →
      (u.txnOf c.iface).isOpen = true →
      u.computes h.inst.toNat = true →
      (u.restartIdle c.iface).swapPending h.inst.toNat = false →
      (u.txnOf c.iface).pairs.any (samePair (.swap h.inst.toNat (bit (fieldAt pl 0 1) 0))) = false →
      stagePair (u.txnOf c.iface).pairs (.swap h.inst.toNat (bit (fieldAt pl 0 1) 0)) = some l →
      exec (.engSwap h pl) s = .next (State.settle (State.reply ((u.restartIdle c.iface).setTxn c.iface { (u.restartIdle c.iface).txnOf c.iface with pairs := l }) c (.ok [])))) ∧
  (∀ (s : State) (h : Hdr) (pl : List Byte),
      let c := cmdOf h 0x1501 s.epoch
      let u := s.bodyState h 0x1501
      s.serves h 0x1501 = true →
      h.inst.toNat ≤ 3 →
      pl.length = 1 →
      (u.txnOf c.iface).isOpen = false →
      u.computes h.inst.toNat = true →
      u.swapPending h.inst.toNat = false →
      u.takesLater h.inst.toNat = false →
      exec (.engSwap h pl) s = .next (State.settle (State.reply (u.swapBanks h.inst.toNat (bit (fieldAt pl 0 1) 0)) c (.ok (leBytes 8 (u.swapBanks h.inst.toNat (bit (fieldAt pl 0 1) 0)).epoch
        ++ leBytes 1 ((u.swapBanks h.inst.toNat (bit (fieldAt pl 0 1) 0)).reg P.engBank h.inst.toNat % 2)))))) ∧
  (∀ (s : State) (h : Hdr) (pl : List Byte),
      let c := cmdOf h 0x1501 s.epoch
      let u := s.bodyState h 0x1501
      s.serves h 0x1501 = true →
      h.inst.toNat ≤ 3 →
      pl.length = 1 →
      (u.txnOf c.iface).isOpen = false →
      u.computes h.inst.toNat = true →
      u.swapPending h.inst.toNat = false →
      u.takesLater h.inst.toNat = true →
      exec (.engSwap h pl) s = .next (State.settle (State.reply (u.modDrv h.inst.toNat (fun y => { y with foc := { y.foc with swap := some (bit (fieldAt pl 0 1) 0, some c) } })) c (.later))))

/-- A served PWR_SET in each form that R49 does not refuse (to FULL at once or through the self-test, to HALF, to CRESCENT or NEW, and where nothing changes), SYS_RESET, TRIP_CLEAR of an input that is inactive, and SELFTEST of dies that are powered, unused and not under test answer a next state with the effect and the response that their rules give. -/
def Obligations.PowerAndTestCommandsRun : Prop :=
  (∀ (s : State) (h : Hdr) (pl : List Byte),
      let c := cmdOf h 0x0301 s.epoch
      let u := s.bodyState h 0x0301
      s.serves h 0x0301 = true →
      pl.length = 1 →
      u.pwr.mode = .full →
      fieldAt pl 0 1 = 3 →
      exec (.pwrSet h pl) s = .next (State.settle (State.reply (u) c (.ok [])))) ∧
  (∀ (s : State) (h : Hdr) (pl : List Byte),
      let c := cmdOf h 0x0301 s.epoch
      let u := s.bodyState h 0x0301
      s.serves h 0x0301 = true →
      pl.length = 1 →
      u.pwr.mode = .full →
      fieldAt pl 0 1 = 2 →
      (List.range 4).all u.stopped = true →
      exec (.pwrSet h pl) s = .next (State.settle (State.reply (u.leaveFull) c (.ok [])))) ∧
  (∀ (s : State) (h : Hdr) (pl : List Byte),
      let c := cmdOf h 0x0301 s.epoch
      let u := s.bodyState h 0x0301
      s.serves h 0x0301 = true →
      pl.length = 1 →
      u.pwr.mode ≠ .full →
      fieldAt pl 0 1 = 2 →
      exec (.pwrSet h pl) s = .next (State.settle (State.reply (u) c (.ok [])))) ∧
  (∀ (s : State) (h : Hdr) (pl : List Byte),
      let c := cmdOf h 0x0301 s.epoch
      let u := s.bodyState h 0x0301
      s.serves h 0x0301 = true →
      pl.length = 1 →
      u.pwr.mode ≠ .full →
      fieldAt pl 0 1 = 3 →
      u.anyUvlo = false →
      u.towardsFull = false →
      u.testsPassed = true →
      exec (.pwrSet h pl) s = .next (State.settle (State.reply (State.enterFull { u with pwr := { u.pwr with mwStage := .none } } false) c (.ok [])))) ∧
  (∀ (s : State) (h : Hdr) (pl : List Byte),
      let c := cmdOf h 0x0301 s.epoch
      let u := s.bodyState h 0x0301
      s.serves h 0x0301 = true →
      pl.length = 1 →
      u.pwr.mode ≠ .full →
      fieldAt pl 0 1 = 3 →
      u.anyUvlo = false →
      u.towardsFull = false →
      u.testsPassed = false →
      exec (.pwrSet h pl) s = .next (State.settle (State.reply (State.startTest { u with pwr := { u.pwr with mwStage := .none } } none [0, 1, 2]) c (.ok [])))) ∧
  (∀ (s : State) (h : Hdr) (pl : List Byte),
      let c := cmdOf h 0x0301 s.epoch
      let u := s.bodyState h 0x0301
      s.serves h 0x0301 = true →
      pl.length = 1 →
      u.pwr.mode ≠ .full →
      fieldAt pl 0 1 ≤ 1 →
      u.classACause = false →
      (u.wakeActive (fieldAt pl 0 1 == 0)).2 = false →
      exec (.pwrSet h pl) s = .next (State.settle (State.reply ((u.wakeActive (fieldAt pl 0 1 == 0)).1.beginEntry (if fieldAt pl 0 1 = 0 then .new else .crescent)) c (.ok [])))) ∧
  (∀ (s : State) (h : Hdr),
      let c := cmdOf h 0x0103 s.epoch
      let u := s.bodyState h 0x0103
      s.serves h 0x0103 = true →
      exec (.sysReset h []) s = .next (State.settle (State.reply ((u.requestChip 3).each (List.range 4) (fun s d => s.resetHold d)) c (.ok [])))) ∧
  (∀ (s : State) (h : Hdr),
      let c := cmdOf h 0x1001 s.epoch
      let u := s.bodyState h 0x1001
      s.serves h 0x1001 = true →
      h.inst.toNat ≤ 7 →
      u.tripLevel h.inst.toNat = false →
      bit (u.reg P.pwmTripStat 0) h.inst.toNat = true →
      exec (.tripClear h []) s = .next (State.settle (State.reply ((u.setBit P.pwmTripStat 0 h.inst.toNat false).unforce h.inst.toNat (List.range 12)) c (.ok [])))) ∧
  (∀ (s : State) (h : Hdr),
      let c := cmdOf h 0x1001 s.epoch
      let u := s.bodyState h 0x1001
      s.serves h 0x1001 = true →
      h.inst.toNat ≤ 7 →
      u.tripLevel h.inst.toNat = false →
      bit (u.reg P.pwmTripStat 0) h.inst.toNat = false →
      exec (.tripClear h []) s = .next (State.settle (State.reply (u) c (.ok [])))) ∧
  (∀ (s : State) (h : Hdr),
      let c := cmdOf h 0x1601 s.epoch
      let u := s.bodyState h 0x1601
      s.serves h 0x1601 = true →
      h.inst.toNat ≤ 3 →
      u.awake = true →
      (((if h.inst.toNat = 3 then [0, 1, 2] else [h.inst.toNat]).any (fun i => i != 0 && u.uvlo (i - 1))) = false) →
      (((if h.inst.toNat = 3 then [0, 1, 2] else [h.inst.toNat]).any (fun i => if i = 0 then (List.range 4).any (fun d => !u.stopped d)
      else (u.ownersOf (dieBridges (i - 1))).any (fun d => !u.stopped d))) = false) →
      ((if h.inst.toNat = 3 then [0, 1, 2] else [h.inst.toNat]).any u.testing) = false →
      exec (.selftest h []) s = .next (State.settle (State.reply (u.startTest (some c) (if h.inst.toNat = 3 then [0, 1, 2] else [h.inst.toNat])) c (.deferred))))

/-- A served DRV_START that R252 does not refuse is accepted and takes a stopped drive into precharge; a served DRV_STOP answers ok for a stopped drive, enters stopping beside a drive action that is under way, and otherwise takes the drive into the ramp, the short or stopped; a served CAPTURE_ARM and INJECT_SET within their limits store the capture and the injection. -/
def Obligations.DriveCommandsRun : Prop :=
  (∀ (s : State) (h : Hdr) (pl : List Byte),
      let c := cmdOf h 0x1401 s.epoch
      let u := s.bodyState h 0x1401
      s.serves h 0x1401 = true →
      h.inst.toNat ≤ 3 →
      pl.length = 1 →
      u.pwr.mode = .full →
      u.computes h.inst.toNat = true →
      u.reg P.pwmTestEn h.inst.toNat ≠ 1 →
      ((u.drv h.inst.toNat).phase = .stopped ∨ (u.drv h.inst.toNat).phase = .mwHold) →
      u.hasReaction h.inst.toNat = false →
      u.anyForced h.inst.toNat = false →
      u.anyUvlo = false →
      exec (.drvStart h pl) s = .next (State.settle (State.reply (bodyDrvStart u c pl).1 c .deferred)) ∧
      ((u.drv h.inst.toNat).phase = .stopped →
        ((bodyDrvStart u c pl).1.drv h.inst.toNat).phase = .precharge ∧ ((bodyDrvStart u c pl).1.drv h.inst.toNat).start.cmd = some c)) ∧
  (∀ (s : State) (h : Hdr) (pl : List Byte),
      let c := cmdOf h 0x1402 s.epoch
      let u := s.bodyState h 0x1402
      s.serves h 0x1402 = true →
      h.inst.toNat ≤ 3 →
      pl.length = 1 →
      u.computes h.inst.toNat = true →
      u.stopped h.inst.toNat = true →
      exec (.drvStop h pl) s = .next (State.settle (State.reply (u) c (.ok [])))) ∧
  (∀ (s : State) (h : Hdr) (pl : List Byte),
      let c := cmdOf h 0x1402 s.epoch
      let u := s.bodyState h 0x1402
      s.serves h 0x1402 = true →
      h.inst.toNat ≤ 3 →
      pl.length = 1 →
      u.computes h.inst.toNat = true →
      u.stopped h.inst.toNat = false →
      (u.drv h.inst.toNat).stop.byAction = true →
      let v := (u.startDeferred c).respond c St.accepted 0xFFFF []
      let ramp := bit (fieldAt pl 0 1) 0 && (v.drv h.inst.toNat).phase == .running
      let st : StopSt := { (v.drv h.inst.toNat).stop with cmd := some c, omega0 := (v.drv h.inst.toNat).trk.omega, entry := v.epoch, ph := if ramp then .ramp else (v.drv h.inst.toNat).stop.ph, ramped := ramp }
      let w := if (v.drv h.inst.toNat).phase = .stopping then v else v.setPhase h.inst.toNat .stopping
      exec (.drvStop h pl) s = .next (State.settle (w.modDrv h.inst.toNat (fun x => { x with stop := st })))) ∧
  (∀ (s : State) (h : Hdr) (pl : List Byte),
      let c := cmdOf h 0x1402 s.epoch
      let u := s.bodyState h 0x1402
      s.serves h 0x1402 = true →
      h.inst.toNat ≤ 3 →
      pl.length = 1 →
      u.computes h.inst.toNat = true →
      (u.drv h.inst.toNat).phase = .running →
      (u.drv h.inst.toNat).stop.byAction = false →
      bit (fieldAt pl 0 1) 0 = true →
      exec (.drvStop h pl) s = .next (State.settle (bodyDrvStop u c pl).1) ∧
      ((bodyDrvStop u c pl).1.drv h.inst.toNat).phase = .stopping ∧ ((bodyDrvStop u c pl).1.drv h.inst.toNat).stop.ph = .ramp ∧
      ((bodyDrvStop u c pl).1.drv h.inst.toNat).stop.cmd = some c) ∧
  (∀ (s : State) (h : Hdr) (pl : List Byte),
      let c := cmdOf h 0x1402 s.epoch
      let u := s.bodyState h 0x1402
      s.serves h 0x1402 = true →
      h.inst.toNat ≤ 3 →
      pl.length = 1 →
      u.computes h.inst.toNat = true →
      u.stopped h.inst.toNat = false →
      (u.drv h.inst.toNat).stop.byAction = false →
      (bit (fieldAt pl 0 1) 0 && (u.drv h.inst.toNat).phase == .running) = false →
      exec (.drvStop h pl) s = .next (State.settle (bodyDrvStop u c pl).1) ∧
      (((bodyDrvStop u c pl).1.drv h.inst.toNat).phase = .stopping ∧ ((bodyDrvStop u c pl).1.drv h.inst.toNat).stop.ph = .short ∨
        ((bodyDrvStop u c pl).1.drv h.inst.toNat).phase = .stopped)) ∧
  (∀ (s : State) (h : Hdr) (pl : List Byte),
      let c := cmdOf h 0x1502 s.epoch
      let u := s.bodyState h 0x1502
      let cap : Capture := { cmd := c, kind := fieldAt pl 0 1, trig := fieldAt pl 1 1, decim := fieldAt pl 2 1, set := fieldAt pl 3 1,
                             sigs := [4, 5, 6, 7].map (fun i => fieldAt pl i 1), count := fieldAt pl 8 2, start := fieldAt pl 12 4 }
      s.serves h 0x1502 = true →
      h.inst.toNat ≤ 3 →
      pl.length = 16 →
      u.computes h.inst.toNat = true →
      u.ringOut (18 + h.inst.toNat) = true →
      u.ringEsize (18 + h.inst.toNat) ≠ 16 →
      fieldAt pl 0 1 ≤ 1 →
      fieldAt pl 1 1 ≤ 2 →
      fieldAt pl 8 2 ≠ 0 →
      (([4, 5, 6, 7].map (fun i => fieldAt pl i 1)).any
      (fun v => v != 0xFF && (decide (19 < v % 64) || decide (u.r.nSets h.inst.toNat ≤ v / 64))) = false) →
      ¬ (fieldAt pl 0 1 = 0 ∧ fieldAt pl 2 1 = 0) →
      ¬ (fieldAt pl 0 1 = 1 ∧ u.r.nSets h.inst.toNat ≤ fieldAt pl 3 1) →
      exec (.captureArm h pl) s = .next (State.settle (State.reply (u.modDrv h.inst.toNat (fun x => { x with foc := { x.foc with cap := some cap } })) c (.deferred)))) ∧
  (∀ (s : State) (h : Hdr) (pl : List Byte),
      let c := cmdOf h 0x1503 s.epoch
      let u := s.bodyState h 0x1503
      let i : InjSet := { point := fieldAt pl 0 1, wave := fieldAt pl 1 1, at_ := bit (fieldAt pl 2 1) 0, prbsN := fieldAt pl 4 1,
                          prbsDiv := fieldAt pl 5 1, amp := BitVec.ofNat 32 (fieldAt pl 8 4), f0 := BitVec.ofNat 32 (fieldAt pl 12 4),
                          f1 := BitVec.ofNat 32 (fieldAt pl 16 4), dur := fieldAt pl 20 4, start := fieldAt pl 24 4 }
      s.serves h 0x1503 = true →
      h.inst.toNat ≤ 3 →
      pl.length = 28 →
      (u.drv h.inst.toNat).phase = .running →
      ¬ (fieldAt pl 0 1 = 5 ∧ u.reg P.focCtrl h.inst.toNat = 0) →
      fieldAt pl 0 1 ≤ 5 →
      fieldAt pl 1 1 ≤ 2 →
      (fieldAt pl 0 1 = 0 ∨ F32.le (F32.abs (BitVec.ofNat 32 (fieldAt pl 8 4))) (u.injLimit h.inst.toNat (fieldAt pl 0 1)) = true) →
      u.injFreqOk h.inst.toNat (BitVec.ofNat 32 (fieldAt pl 12 4)) = true →
      u.injFreqOk h.inst.toNat (BitVec.ofNat 32 (fieldAt pl 16 4)) = true →
      7 ≤ fieldAt pl 4 1 →
      fieldAt pl 4 1 ≤ 15 →
      fieldAt pl 5 1 ≠ 0 →
      ¬ (fieldAt pl 1 1 = 1 ∧ fieldAt pl 20 4 = 0) →
      exec (.injectSet h pl) s = .next (State.settle (State.reply (u.modDrv h.inst.toNat (fun x => { x with foc := { x.foc with inj := { x.foc.inj with pend := some i } } })) c (.ok []))))

/-- A served FLT_CLEAR with a payload of whole items, FLT_INJECT of a listed target while every drive is stopped, CHK_SCAN of an idle unit over one memory, and LINK_ENUM on the root with a port up answer a next state with the effect and the response that their rules give. -/
def Obligations.FaultAndCheckCommandsRun : Prop :=
  (∀ (s : State) (h : Hdr) (pl : List Byte),
      let c := cmdOf h 0x1901 s.epoch
      let u := s.bodyState h 0x1901
      s.serves h 0x1901 = true →
      2 ≤ pl.length →
      pl.length ≤ 1004 →
      pl.length % 2 = 0 →
      exec (.fltClear h pl) s = .next (State.settle (State.reply (((ClearAcc.items { s := u } 0 pl).s.enter
        { epoch := u.epoch, type := .clear, kind := fieldAt pl 0 1, inst := fieldAt pl 1 1,
          data := Nat.min top16 (ClearAcc.items { s := u } 0 pl).cleared
            + Nat.min top16 (ClearAcc.items { s := u } 0 pl).skipped * 2 ^ 16 } false).1) c (.now (ClearAcc.items { s := u } 0 pl).status (ClearAcc.items { s := u } 0 pl).index
        (leBytes 2 (ClearAcc.items { s := u } 0 pl).cleared ++ leBytes 2 (ClearAcc.items { s := u } 0 pl).skipped))))) ∧
  (∀ (s : State) (h : Hdr) (pl : List Byte) (k i : Nat),
      let c := cmdOf h 0x1902 s.epoch
      let u := s.bodyState h 0x1902
      s.serves h 0x1902 = true →
      pl.length = 4 →
      injectTarget (fieldAt pl 0 1) (fieldAt pl 1 1) (fieldAt pl 2 1) = some (k, i) →
      (List.range 4).all u.stopped = true →
      k ≠ K.linkCrc →
      u.flt.inject = none →
      exec (.fltInject h pl) s = .next (State.settle (State.reply (u.injectAccess { cmd := c, noReact := bit (fieldAt pl 3 1) 0, epoch := u.epoch, kind := k, inst := i }) c (.later)))) ∧
  (∀ (s : State) (h : Hdr) (pl : List Byte) (i : Nat),
      let c := cmdOf h 0x1902 s.epoch
      let u := s.bodyState h 0x1902
      let x : Inject := { cmd := c, noReact := bit (fieldAt pl 3 1) 0, epoch := u.epoch, kind := K.linkCrc, inst := i, waits := true }
      s.serves h 0x1902 = true →
      pl.length = 4 →
      injectTarget (fieldAt pl 0 1) (fieldAt pl 1 1) (fieldAt pl 2 1) = some (K.linkCrc, i) →
      (List.range 4).all u.stopped = true →
      (u.portState i = portUp ∨ u.portState i = portSpare) →
      u.flt.inject = none →
      exec (.fltInject h pl) s = .next (State.settle (State.reply ({ u with flt := { u.flt with inject := some x } }) c (.later)))) ∧
  (∀ (s : State) (h : Hdr) (pl : List Byte),
      let c := cmdOf h 0x1A01 s.epoch
      let u := s.bodyState h 0x1A01
      s.serves h 0x1A01 = true →
      h.inst.toNat ≤ 2 →
      pl.length = 16 →
      u.chkState h.inst.toNat ≠ 1 →
      u.chkState h.inst.toNat ≠ 2 →
      fieldAt pl 0 1 ≤ 4 →
      1 ≤ fieldAt pl 8 4 →
      fieldAt pl 8 4 ≤ 0x400000 →
      inOneMemory (fieldAt pl 4 4) (fieldAt pl 8 4) = true →
      exec (.chkScan h pl) s = .next (State.settle (State.reply (let v := u.setReg P.chkCfg h.inst.toNat (putBits (u.reg P.chkCfg h.inst.toNat) 0 3 (fieldAt pl 0 1))
      let v := (v.setReg P.chkAddr h.inst.toNat (fieldAt pl 4 4)).setReg P.chkRem h.inst.toNat (fieldAt pl 8 4)
      let v := (v.setReg P.chkExpect h.inst.toNat (fieldAt pl 12 4)).setReg P.chkCur h.inst.toNat (v.chkAlg h.inst.toNat).init
      let v := v.setReg P.chkStat h.inst.toNat 1
      v.setUnit h.inst.toNat { cmd := some c, compare := bit (fieldAt pl 1 1) 0 }) c (.deferred)))) ∧
  (∀ (s : State) (h : Hdr),
      let c := cmdOf h 0x1B01 s.epoch
      let u := s.bodyState h 0x1B01
      s.serves h 0x1B01 = true →
      u.isRoot = true →
      ([0, 1, 2].any (fun p => u.portState p == portUp) = true) →
      (List.range 4).all u.stopped = true →
      exec (.linkEnum h []) s = .next (State.settle (State.reply (let ups := [0, 1, 2].filter (fun p => u.portState p == portUp)
      let v := (u.takeSeq 0x40).2.each ups (fun s p => s.enqueue p
        { type := 0x40, dst := 0xFF, src := s.linkId, seq := (u.takeSeq 0x40).1,
          payload := zeros 4 ++ leBytes 8 (s.reg P.linkUid 0) })
      let w := v.setBit P.linkStat 0 4 true
      { w with link := { w.link with enum := some { cmd := c, start := v.epoch } } }) c (.deferred))))

/-- A served FW_BEGIN of a free target, FW_CHUNK of the next consecutive bytes, FW_FINISH of an open update, TASK_LOAD, DBG_CHALLENGE and DBG_RESPONSE to an outstanding challenge (accepted or not, by the signature) answer a next state with the effect and the response that their rules give. -/
def Obligations.SecurityCommandsRun : Prop :=
  (∀ (s : State) (h : Hdr) (pl : List Byte),
      let c := cmdOf h 0x1C01 s.epoch
      let u := s.bodyState h 0x1C01
      s.serves h 0x1C01 = true →
      h.inst.toNat ≤ 3 →
      pl.length = 4 →
      ¬ (u.recovery = false ∧ h.inst.toNat < 2 ∧ h.inst.toNat = (bit (u.reg P.secStat 0) 1).toNat) →
      u.sec.fw = none →
      192 ≤ fieldAt pl 0 4 →
      fieldAt pl 0 4 ≤ targetSize h.inst.toNat →
      exec (.fwBegin h pl) s = .next (State.settle (State.reply (let v := (u.setBit P.secSlotStat h.inst.toNat 0 false).setBit P.secStat 0 6 true
      let f : FwUpdate := { iface := c.iface, target := h.inst.toNat, total := fieldAt pl 0 4, last := v.epoch }
      { v with sec := { v.sec with fw := some f } }) c (.ok [])))) ∧
  (∀ (s : State) (h : Hdr) (pl : List Byte) (f : FwUpdate),
      let c := cmdOf h 0x1C02 s.epoch
      let u := s.bodyState h 0x1C02
      let g : FwUpdate := { f with got := f.got + (pl.length - 4), last := u.epoch }
      s.serves h 0x1C02 = true →
      h.inst.toNat ≤ 3 →
      5 ≤ pl.length →
      pl.length ≤ 996 →
      u.sec.fw = some f →
      f.iface = c.iface →
      f.target = h.inst.toNat →
      f.finish = none →
      fieldAt pl 0 4 = f.got →
      f.got + (pl.length - 4) ≤ f.total →
      exec (.fwChunk h pl) s = .next (State.settle (State.reply ({ u with mem := Memory.writeBytes u.mem (targetBase f.target + f.got) (pl.drop 4), sec := { u.sec with fw := some g } }) c (.ok [])))) ∧
  (∀ (s : State) (h : Hdr) (pl : List Byte) (f : FwUpdate),
      let c := cmdOf h 0x1C03 s.epoch
      let u := s.bodyState h 0x1C03
      s.serves h 0x1C03 = true →
      h.inst.toNat ≤ 3 →
      pl.length = 1 →
      u.sec.fw = some f →
      f.iface = c.iface →
      f.target = h.inst.toNat →
      f.finish = none →
      exec (.fwFinish h pl) s = .next (State.settle (State.reply ({ u with sec := { u.sec with fw := some { f with finish := some (c, fieldAt pl 0 1) } } }) c (.deferred)))) ∧
  (∀ (s : State) (h : Hdr) (pl : List Byte),
      let c := cmdOf h 0x1C06 s.epoch
      let u := s.bodyState h 0x1C06
      s.serves h 0x1C06 = true →
      h.inst.toNat ≤ 7 →
      pl.length = 5 →
      u.sec.load = none →
      exec (.taskLoad h pl) s = .next (State.settle (State.reply (let v := u.setBit P.secTaskStat h.inst.toNat 1 false
      { v with sec := { v.sec with load := some (c, fieldAt pl 0 4, fieldAt pl 4 1) } }) c (.deferred)))) ∧
  (∀ (s : State) (h : Hdr) (pl : List Byte),
      let c := cmdOf h 0x1C04 s.epoch
      let u := s.bodyState h 0x1C04
      s.serves h 0x1C04 = true →
      pl.length = 1 →
      1 ≤ fieldAt pl 0 1 →
      fieldAt pl 0 1 ≤ 2 →
      u.isLive K.trngFail 0 = false →
      u.sec.fails < 3 →
      exec (.dbgChallenge h pl) s = .next (State.settle (State.reply (let v := u.draw.2.draw.2.draw.2.draw.2
      let bs := leBytes 4 u.draw.1.toNat ++ leBytes 4 u.draw.2.draw.1.toNat ++ leBytes 4 u.draw.2.draw.2.draw.1.toNat
        ++ leBytes 4 u.draw.2.draw.2.draw.2.draw.1.toNat ++ leBytes 8 (v.reg P.linkUid 0) ++ leBytes 1 (fieldAt pl 0 1) ++ zeros 3
      let x : Challenge := { bytes := bs, level := fieldAt pl 0 1, at_ := v.epoch }
      { v with sec := { v.sec with chal := some x } }) c (.ok (leBytes 4 u.draw.1.toNat ++ leBytes 4 u.draw.2.draw.1.toNat ++ leBytes 4 u.draw.2.draw.2.draw.1.toNat
        ++ leBytes 4 u.draw.2.draw.2.draw.2.draw.1.toNat ++ leBytes 8 (u.draw.2.draw.2.draw.2.draw.2.reg P.linkUid 0)
        ++ leBytes 1 (fieldAt pl 0 1) ++ zeros 3))))) ∧
  (∀ (s : State) (h : Hdr) (pl : List Byte) (x : Challenge),
      let c := cmdOf h 0x1C05 s.epoch
      let u := s.bodyState h 0x1C05
      s.serves h 0x1C05 = true →
      pl.length = 64 →
      u.sec.chal = some x →
      expired x.at_ (sTicks (u.reg P.secDbgTmo 0)) u.epoch = false →
      exec (.dbgResponse h pl) s = .next (State.settle (State.reply (if u.slotFull 3 && Config.ecdsaOk (u.slotBytes 3) x.bytes pl then
        State.setReg { u with sec := { u.sec with chal := none } } P.secStat 0 (putBits (u.reg P.secStat 0) 4 2 x.level)
      else
        let v := (State.report { u with sec := { u.sec with chal := none } } K.secAuth 0 u.epoch).bump P.secAuthFailCnt 0 top32
        let w := { v with sec := { v.sec with fails := v.sec.fails + 1 } }
        if 3 ≤ w.sec.fails then w.setBit P.secStat 0 7 true else w) c (if u.slotFull 3 && Config.ecdsaOk (u.slotBytes 3) x.bytes pl then .ok [] else .refuse St.auth))))

/-- A REGISTER_WRITE whose checks pass, the four word accesses of 64-bit parameters in each of their cases (snapshot fresh or elsewhere, low word held or not) and a read of SEC.RNG answer a next state with the effect that R41, R43 and R484 give. -/
def Obligations.DirectAccessRuns : Prop :=
  (∀ (s : State) (i : Iface) (id : Half) (inst : Byte) (v : DWord) (row : ParamRow),
      directRow id.toNat inst.toNat = some row →
      s.serving = true →
      row.effect = .immediate →
      writable row inst.toNat = true →
      itemRange row v.toNat = true →
      s.stateCheck row inst.toNat (s.rcPage (ifaceNo i)) = St.ok →
      (row.id / 256 = 4 ∨ row.id = P.timeSnapStat ∨ s.validate [.write row.id inst.toNat (s.rcPage (ifaceNo i)) v.toNat] = none) →
      exec (.registerWrite i id inst v) s = .next (State.settle (s.applyStaged (.write row.id inst.toNat (s.rcPage (ifaceNo i)) v.toNat)))) ∧
  (∀ (s : State) (i : Iface) (id : Half) (inst : Byte) (row : ParamRow),
      directRow id.toNat inst.toNat = some row →
      s.serving = true →
      paramSize row = 8 →
      exec (.lowWordRead i id inst) s = .next (State.settle ((s.lowRead (ifaceNo i) row inst.toNat).1.setRdata (ifaceNo i) (s.lowRead (ifaceNo i) row inst.toNat).2))) ∧
  (∀ (s : State) (i : Iface) (id : Half) (inst : Byte) (row : ParamRow),
      directRow id.toNat inst.toNat = some row →
      s.serving = true →
      paramSize row = 8 →
      (s.snap (ifaceNo i)).addr = some (snapAddr row.id inst.toNat) →
      (s.snap (ifaceNo i)).fresh = true →
      exec (.highWordRead i id inst) s = .next (State.settle ((s.setSnap (ifaceNo i) { s.snap (ifaceNo i) with fresh := false }).setRdata (ifaceNo i) (s.snap (ifaceNo i)).hi))) ∧
  (∀ (s : State) (i : Iface) (id : Half) (inst : Byte) (row : ParamRow),
      directRow id.toNat inst.toNat = some row →
      s.serving = true →
      paramSize row = 8 →
      (s.snap (ifaceNo i)).addr ≠ some (snapAddr row.id inst.toNat) →
      exec (.highWordRead i id inst) s = .next (State.settle (((s.readParam (ifaceNo i) row inst.toNat).1.setBit P.timeSnapStat (ifaceNo i) 0 true).setRdata (ifaceNo i) ((s.readParam (ifaceNo i) row inst.toNat).2 / 2 ^ 32)))) ∧
  (∀ (s : State) (i : Iface) (id : Half) (inst : Byte) (v : Word) (row : ParamRow),
      directRow id.toNat inst.toNat = some row →
      s.wordWritable row inst.toNat = true →
      exec (.lowWordWrite i id inst v) s = .next (State.settle (s.setSnap (ifaceNo i) { s.snap (ifaceNo i) with heldAddr := some (snapAddr id.toNat inst.toNat), heldLow := v.toNat }))) ∧
  (∀ (s : State) (i : Iface) (id : Half) (inst : Byte) (v : Word) (row : ParamRow),
      directRow id.toNat inst.toNat = some row →
      s.wordWritable row inst.toNat = true →
      (s.snap (ifaceNo i)).heldAddr = some (snapAddr id.toNat inst.toNat) →
      exec (.highWordWrite i id inst v) s = .next (State.settle ((s.setSnap (ifaceNo i) { s.snap (ifaceNo i) with heldAddr := none, heldLow := 0 }).directWrite (ifaceNo i) row inst.toNat
      ((s.snap (ifaceNo i)).heldLow + v.toNat * 2 ^ 32)))) ∧
  (∀ (s : State) (i : Iface) (id : Half) (inst : Byte) (v : Word) (row : ParamRow),
      directRow id.toNat inst.toNat = some row →
      s.wordWritable row inst.toNat = true →
      (s.snap (ifaceNo i)).heldAddr ≠ some (snapAddr id.toNat inst.toNat) →
      exec (.highWordWrite i id inst v) s = .next (State.settle ((s.setBit P.timeSnapStat (ifaceNo i) 1 true).directWrite (ifaceNo i) row inst.toNat
      (s.view (ifaceNo i) row.id inst.toNat % 2 ^ 32 + v.toNat * 2 ^ 32)))) ∧
  (∀ (s : State) (i : Iface),
      s.serving = true →
      s.isLive K.trngFail 0 = false →
      exec (.rngRead i) s = .next (State.settle ((State.setRdata { s with sec := { s.sec with draws := s.sec.draws + 1 } } (ifaceNo i) (Config.random s.sec.draws).toNat))))

/-- FLT_SEL_WRITE, HOST_DEC_WRITE, HOST_T_WRITE in range, PERF_RUN, PERF_STOP, PERF_CNT_WRITE, BOOT_PREF_WRITE, UPD_COMMIT in test mode, RC_CLEAR, CAP_STOP, CHK_GO, CHK_HOLD and CHK_ABORT of units 0 to 2, ARB_COMMIT_VIOSKIK, ARB_COMMIT_TASKS, SEC_LOCK with both key slots full, KEY_WR of a word not yet written and PORT_EN_WRITE answer a next state with their effect. -/
def Obligations.ControlWritesRun : Prop :=
  (∀ (s : State) (i : Iface) (sel : Half),
      s.serving = true →
      exec (.fltSelWrite i sel) s = .next (State.settle (s.selectRec (ifaceNo i) sel.toNat))) ∧
  (∀ (s : State) (path : BitVec 24) (action : BitVec 2),
      s.serving = true →
      exec (.hostDecWrite path action) s = .next (State.settle (s.hostDec path.toNat action.toNat))) ∧
  (∀ (s : State) (g : Fin 12) (v : Word),
      s.serving = true →
      rangeOk .hostT v.toNat = true →
      exec (.hostTWrite g v) s = .next (State.settle (s.hostTWrite g.val v.toNat))) ∧
  (∀ (s : State) (c : Fin 2),
      s.serving = true →
      exec (.perfRun c) s = .next (State.settle (s.setReg P.perfCtl c.val 1))) ∧
  (∀ (s : State) (c : Fin 2),
      s.serving = true →
      exec (.perfStop c) s = .next (State.settle (s.setReg P.perfCtl c.val 0))) ∧
  (∀ (s : State) (e : Fin 12) (v : DWord),
      s.serving = true →
      exec (.perfCntWrite e v) s = .next (State.settle (s.writeCount e.val v.toNat))) ∧
  (∀ (s : State) (b : Bool),
      s.serving = true →
      exec (.bootPrefWrite b) s = .next (State.settle (s.setReg P.secBootPref 0 b.toNat))) ∧
  (∀ (s : State) (d : Fin 4),
      s.serving = true →
      s.reg P.pwmTestEn d.val = 1 →
      exec (.updCommit d) s = .next (State.settle ((s.keepGroup d.val).modDrv d.val (fun x => { x with car := { x.car with commit := true } })))) ∧
  (∀ (s : State) (d : Fin 4),
      s.serving = true →
      exec (.rcClear d) s = .next (State.settle (s.modDrv d.val (fun x => { x with foc := { x.foc with rcClear := true } })))) ∧
  (∀ (s : State) (d : Fin 4),
      s.serving = true →
      exec (.capStop d) s = .next (State.settle (s.capStop d.val))) ∧
  (∀ (s : State) (u : Fin 4),
      s.serving = true →
      u.val ≠ 3 →
      exec (.chkGo u) s = .next (State.settle (s.chkGo u.val))) ∧
  (∀ (s : State) (u : Fin 4),
      s.serving = true →
      u.val ≠ 3 →
      exec (.chkHold u) s = .next (State.settle (s.chkHold u.val))) ∧
  (∀ (s : State) (u : Fin 4),
      s.serving = true →
      u.val ≠ 3 →
      exec (.chkAbort u) s = .next (State.settle (s.chkAbort u.val))) ∧
  (∀ (s : State),
      s.serving = true →
      exec (.arbCommitVioskik) s = .next (State.settle (s.raiseCounter 0 (s.reg P.secSvnRun 0)))) ∧
  (∀ (s : State),
      s.serving = true →
      exec (.arbCommitTasks) s = .next (State.settle (s.raiseCounter 1 s.taskTop))) ∧
  (∀ (s : State),
      s.serving = true →
      s.slotFull 2 = true →
      s.slotFull 3 = true →
      s.inField = false →
      exec (.secLock) s = .next (State.settle (s.setReg P.secStat 0 (putBits (s.reg P.secStat 0 ||| 1) 4 2 0)))) ∧
  (∀ (s : State) (e : Byte) (v : DWord),
      s.serving = true →
      s.keyWritable e.toNat = true →
      exec (.keyWr e v) s = .next (State.settle ({ s with keys := Smap.set (fun _ => none) s.keys e.toNat (some v.toNat) }))) ∧
  (∀ (s : State) (v : BitVec 3),
      s.serving = true →
      exec (.portEnWrite v) s = .next (State.settle (s.portEn v.toNat)))

/-- DOORBELL_WRITE, RING_ENABLE and RING_DISABLE of rings 0 to 31, SPI_READ_FRAME and SPI_WRITE_FRAME with a whole header, MAILBOX_MESSAGE_TAKEN of a ring that holds commands (and of ring 34), MSG_TMO_EXPIRY of a message that is not complete in time, LOST_EVENT_WRITE and NIRQ_HOLDOFF_EXPIRY answer a next state with their effect. -/
def Obligations.RingCommandsRun : Prop :=
  (∀ (s : State) (r : Fin 64) (v : Half),
      s.awake = true →
      exec (.doorbellWrite r v) s = .next (State.settle (s.doorbell r.val v.toNat))) ∧
  (∀ (s : State) (r : Fin 64) (cfg : Word),
      s.serving = true →
      r.val < 32 →
      exec (.ringEnable r cfg) s = .next (State.settle ((s.ringCfgWrite r.val (putBit cfg.toNat 31 true)).1))) ∧
  (∀ (s : State) (r : Fin 64),
      s.serving = true →
      r.val < 32 →
      exec (.ringDisable r) s = .next (State.settle ((s.ringCfgWrite r.val (putBit (s.ringCfg r.val) 31 false &&& 0xBFFFFFFF)).1))) ∧
  (∀ (s : State) (sdi : List Byte),
      s.spiUp = true →
      4 ≤ sdi.length →
      fieldAt sdi 0 1 = 0x0B →
      exec (.spiReadFrame sdi) s = .next (State.settle ((let t := (s.spiRead sdi).1
      { t with host := { t.host with sdo := sdoOf sdi.length (s.spiRead sdi).2 } })))) ∧
  (∀ (s : State) (sdi : List Byte),
      s.spiUp = true →
      4 ≤ sdi.length →
      fieldAt sdi 0 1 = 0x02 →
      exec (.spiWriteFrame sdi) s = .next (State.settle ((let t := (s.spiWrite sdi).1
      { t with host := { t.host with sdo := sdoOf sdi.length (s.spiWrite sdi).2 } })))) ∧
  (∀ (s : State) (r : Fin 64),
      r.val ≠ 34 →
      s.takesFrom r.val = true →
      s.inTurn r.val = true →
      exec (.mailboxMessageTaken r) s = .next (State.settle ((s.takeTurn r.val).takeMessage r.val))) ∧
  (∀ (s : State) (r : Fin 64),
      r.val = 34 →
      s.satWaits = true →
      s.inTurn r.val = true →
      exec (.mailboxMessageTaken r) s = .next (State.settle ((s.takeTurn 34).sendSatellite))) ∧
  (∀ (s : State) (r : Fin 64) (n t : Nat) (l : List (Nat × Nat)),
      (s.ring r.val).exposed = (n, t) :: l →
      s.serving = true →
      commandRings.contains r.val = true →
      s.ringOn r.val = true →
      s.ringFilled r.val < s.msgEntries r.val →
      expired t (usTicks (s.reg P.hostMsgTmo 0)) s.epoch = true →
      exec (.msgTmoExpiry r) s = .next (State.settle ((s.consumeMsg r.val (s.ringFilled r.val)).bump P.hostMsgFmtErr 0 top32))) ∧
  (∀ (s : State) (r : Fin 64),
      s.awake = true →
      r.val = 16 →
      (s.ring 16).lost ≠ 0 →
      s.ringOut 16 = true →
      2 * s.entriesFor 16 28 ≤ s.ringFree 16 →
      exec (.lostEventWrite r) s = .next (State.settle (s.writeLost 16))) ∧
  (∀ (s : State),
      s.host.nirq = false →
      exec (.nirqHoldoffExpiry) s = .next (State.settle (s)))

/-- A received CAN FD command frame that is first and last enters ring 6; a first segment starts a partial message, the next one in order is appended, the last one enters ring 6 with what it completes, and a segment out of order discards the partial message and is counted; CAN_SEG_TMO_EXPIRY, CAN_BUS_OFF and CAN_ERROR_PASSIVE answer a next state with their effect. -/
def Obligations.CanCommandsRun : Prop :=
  (∀ (s : State) (fr : CanFrame) (c : Byte) (body : List Byte),
      s.awake = true →
      s.reg P.hostCanEn 0 = 1 →
      fr.fd = true →
      fr.remote = false →
      s.canForUs fr.ident.toNat = true →
      fr.data = c :: body →
      bit c.toNat 7 = true →
      bit c.toNat 6 = true →
      c.toNat % 64 = 0 →
      s.host.canIn = none →
      exec (.canFrameReceived fr) s = .next (State.settle (s.pushCommand 6 (trimMessage body)))) ∧
  (∀ (s : State) (fr : CanFrame) (c : Byte) (body : List Byte),
      s.awake = true →
      s.reg P.hostCanEn 0 = 1 →
      fr.fd = true →
      fr.remote = false →
      s.canForUs fr.ident.toNat = true →
      fr.data = c :: body →
      bit c.toNat 7 = true →
      bit c.toNat 6 = false →
      c.toNat % 64 = 0 →
      s.host.canIn = none →
      exec (.canFrameReceived fr) s = .next (State.settle ({ s with host := { s.host with canIn := some { bytes := body, next := 1, stamp := s.epoch } } }))) ∧
  (∀ (s : State) (fr : CanFrame) (c : Byte) (body : List Byte) (m : Reasm),
      s.awake = true →
      s.reg P.hostCanEn 0 = 1 →
      fr.fd = true →
      fr.remote = false →
      s.canForUs fr.ident.toNat = true →
      fr.data = c :: body →
      bit c.toNat 7 = false →
      bit c.toNat 6 = false →
      s.host.canIn = some m →
      m.next = c.toNat % 64 →
      exec (.canFrameReceived fr) s = .next (State.settle ({ s with host := { s.host with canIn := some { bytes := m.bytes ++ body, next := (c.toNat % 64 + 1) % 64, stamp := s.epoch } } }))) ∧
  (∀ (s : State) (fr : CanFrame) (c : Byte) (body : List Byte) (m : Reasm),
      s.awake = true →
      s.reg P.hostCanEn 0 = 1 →
      fr.fd = true →
      fr.remote = false →
      s.canForUs fr.ident.toNat = true →
      fr.data = c :: body →
      bit c.toNat 7 = false →
      bit c.toNat 6 = true →
      s.host.canIn = some m →
      m.next = c.toNat % 64 →
      exec (.canFrameReceived fr) s = .next (State.settle (State.pushCommand { s with host := { s.host with canIn := none } } 6 (trimMessage (m.bytes ++ body))))) ∧
  (∀ (s : State) (fr : CanFrame) (c : Byte) (body : List Byte),
      s.awake = true →
      s.reg P.hostCanEn 0 = 1 →
      fr.fd = true →
      fr.remote = false →
      s.canForUs fr.ident.toNat = true →
      fr.data = c :: body →
      bit c.toNat 7 = false →
      (∀ m : Reasm, s.host.canIn = some m → m.next ≠ c.toNat % 64) →
      exec (.canFrameReceived fr) s = .next (State.settle (s.canReasmErr))) ∧
  (∀ (s : State) (m : Reasm),
      s.host.canIn = some m →
      s.awake = true →
      expired m.stamp (msTicks (s.reg P.hostCanSegTmo 0)) s.epoch = true →
      exec (.canSegTmoExpiry) s = .next (State.settle (s.canReasmErr))) ∧
  (∀ (s : State),
      s.awake = true →
      s.reg P.hostCanEn 0 = 1 →
      exec (.canBusOff) s = .next (State.settle (State.flagGstat (State.bump { s with host := { s.host with canPassive := false } } P.hostCanBusoff 0 top32) 12))) ∧
  (∀ (s : State),
      s.awake = true →
      s.reg P.hostCanEn 0 = 1 →
      exec (.canErrorPassive) s = .next (State.settle (State.flagGstat { s with host := { s.host with canPassive := true } } 12)))

/-- TXN_IDLE_EXPIRY of an open transaction, CONFIG_SAVE_DONE, COMMIT_RESPONSE, BG_CHUNK_START with a task chosen, BG_CHUNK_END, BG_WAIT_EXPIRY, THROTTLE_PAUSE_END and SLOW_TMO_EXPIRY of a host-fed temperature answer a next state with their effect. -/
def Obligations.TimersOfCommandsRun : Prop :=
  (∀ (s : State) (i : Iface),
      s.serving = true →
      (s.txnOf (ifaceNo i)).isOpen = true →
      expired (s.txnOf (ifaceNo i)).idle (msTicks (s.reg P.txnIdleMax 0)) s.epoch = true →
      exec (.txnIdleExpiry i) s = .next (State.settle (State.event ((s.setTxn (ifaceNo i) {}).bump P.txnIdleRbCnt 0 top32) .other 0x4511 0 0 s.epoch
      (leBytes 1 (ifaceNo i) ++ leBytes 2 (s.txnOf (ifaceNo i)).pairs.length)))) ∧
  (∀ (s : State) (r : ConfigRec) (t : Nat),
      s.txn.saving = some (r, t) →
      s.serving = true →
      exec (.configSaveDone) s = .next (State.settle (State.event { s with txn := { s.txn with copyA := some r, copyB := some r, saving := none }, chk := { s.chk with badCrcA := false, badCrcB := false } } .other 0x4510 0 0 s.epoch (leBytes 4 r.gen)))) ∧
  (∀ (s : State) (i : Iface),
      s.serving = true →
      exec (.commitResponse i) s = .next (State.settle ((let t := s.each [0, 1, 2, 3] (fun s d => s.settleDrive d)
      let due (c : CommitWait) : Bool := c.cmd.iface == ifaceNo i && c.done
      State.each { t with txn := { t.txn with commits := t.txn.commits.filter (fun c => !due c) } } (t.txn.commits.filter due)
        (fun s c => s.respond c.cmd St.ok 0xFFFF (commitData c.accept c.drives c.taken)))))) ∧
  (∀ (s : State) (t : State) (p : Nat),
      s.chunkFree = true →
      State.choose s.offerChunk 1 0 5 = (t, some p) →
      exec (.bgChunkStart) s = .next (State.settle (t.startChunk p))) ∧
  (∀ (s : State) (p t : Nat),
      s.pwr.chunk = some (p, t) →
      s.awake = true →
      (p ≠ 3 ∨ s.chunkOver = true) →
      exec (.bgChunkEnd) s = .next (State.settle (State.seeReady { s.chunkWork p with pwr := { (s.chunkWork p).pwr with chunk := none, pause := if (s.chunkWork p).dieThrottled then some ((s.chunkWork p).epoch + (s.chunkWork p).reg P.pwrThrRatio 0 * ((s.chunkWork p).epoch - t)) else none } }))) ∧
  (∀ (s : State) (p : Fin 5) (t : Nat),
      s.awake = true →
      s.seeReady.readySince (p.val + 1) = some t →
      s.seeReady.awake = true →
      bit s.seeReady.pwr.lateDone (p.val + 1) = false →
      expired t (taskWait (p.val + 1)) s.seeReady.epoch = true →
      exec (.bgWaitExpiry p) s = .next (State.settle ((let u := s.seeReady
      State.report (State.bump { u with pwr := { u.pwr with lateDone := putBit u.pwr.lateDone (p.val + 1) true } } P.pwrTaskLateCnt 0 top32) K.bgLate 0 u.epoch)))) ∧
  (∀ (s : State) (t : Nat),
      s.pwr.pause = some t →
      t ≤ s.epoch →
      exec (.throttlePauseEnd) s = .next (State.settle ({ s with pwr := { s.pwr with pause := none } }))) ∧
  (∀ (s : State) (g : Fin 12) (d t : Nat),
      let u := State.lateOne { s with therm := { s.therm with hostAt := Smap.set (fun _ => none) s.therm.hostAt g.val (some s.epoch) } } d (16 + g.val) P.thermPsMode (g.val / 3) 0
      s.ownerOf (g.val / 3) = some d →
      (Smap.get (fun _ => none) s.therm.hostAt g.val = some t) →
      s.awake = true →
      s.hostMode P.thermPsMode (g.val / 3) = true →
      expired t (msTicks (s.reg P.hostSlowTmo 0)) s.epoch = true →
      exec (.slowTmoExpiry g) s = .next (State.settle (if u.2 then u.1.tempFallback d (g.val / 3) else u.1)))

/-- POWER_ON, POWER_LOSS, VCORE_BROWNOUT, NRST_ASSERT, NRST_RELEASE, CHIP_RESET_START, BOOT_DONE with and without a valid slot, WATCHDOG_EXPIRY, the wake sources, HALF_IDLE_EXPIRY, ENTRY_FLUSH_DONE, the motion watch and its timers, XTAL_LOSS and BLOCK_RESET_DONE answer a next state with the effect that their rules give. -/
def Obligations.PowerCommandsRun : Prop :=
  (∀ (s : State),
      s.pwr.mode = .unpowered →
      exec (.powerOn) s = .next (State.settle ((let t := (s.newEra.setReg P.pwrWakeSrc 0 0x10).setReg P.sysRstSrc 0 1
      { t with pwr := { t.pwr with mode := .boot } })))) ∧
  (∀ (s : State),
      s.pwr.mode ≠ .unpowered →
      ∃ t, exec (.powerLoss) s = .next t ∧ t.pwr.mode = .unpowered ∧ t.flt.recs = [] ∧ t.pwm = { trips := t.pwm.trips } ∧ t.gate = { dies := t.gate.dies } ∧ t.reg P.sysRstSrc 0 = 0 ∧ t.reg P.pwrWakeSrc 0 = 0) ∧
  (∀ (s : State),
      s.powered = true →
      exec (.vcoreBrownout) s = .next (State.settle (s.chipReset 2))) ∧
  (∀ (s : State),
      s.powered = true →
      s.pwr.nrstLow = false →
      exec (.nrstAssert) s = .next (State.settle (State.chipReset { s with pwr := { s.pwr with nrstLow := true } } 1))) ∧
  (∀ (s : State),
      s.pwr.mode = .reset →
      s.pwr.nrstLow = true →
      exec (.nrstRelease) s = .next (State.settle ({ s with pwr := { s.pwr with mode := .boot, nrstLow := false } }))) ∧
  (∀ (s : State) (b : Nat),
      s.pwr.chipReq = some b →
      s.awake = true →
      s.resetRecorded = true →
      ((List.range 4).all (fun d => !s.resetWaits d) = true) →
      exec (.chipResetStart) s = .next (State.settle (s.chipReset b))) ∧
  (∀ (s : State) (k : Nat) (fb : Bool),
      s.wakeNow.pwr.mode = .boot →
      s.wakeNow.bootSlot = some (k, fb) →
      exec (.bootDone) s = .next (State.settle ((let t := s.wakeNow
      ((State.bootSec { t with pwr := { t.pwr with mode := .half } } (some (k, fb))).bootRun k fb).stoBoot)))) ∧
  (∀ (s : State),
      s.wakeNow.pwr.mode = .boot →
      s.wakeNow.bootSlot = none →
      exec (.bootDone) s = .next (State.settle ((let t := s.wakeNow
      let u := State.bootSec { t with pwr := { t.pwr with mode := .half } } none
      (State.bootClock { u with pwr := { u.pwr with bootMotion := false } }).bootTimers.settleEnergy.stoBoot)))) ∧
  (∀ (s : State),
      s.awake = true →
      exec (.watchdogExpiry) s = .next (State.settle (s.report K.supvWdg 0 s.epoch))) ∧
  (∀ (s : State) (high : Bool) (cycles : Half),
      s.sleep = some .new →
      s.pinWakes high cycles.toNat = true →
      exec (.wakePin high cycles) s = .next (State.settle (s.latchWake 0))) ∧
  (∀ (s : State) (high : Bool) (cycles : Half),
      s.sleep = some .crescent →
      s.pinWakes high cycles.toNat = true →
      bit (s.reg P.pwrWakeEn 0) 0 = true →
      exec (.wakePin high cycles) s = .next (State.settle (s.latchWake 0))) ∧
  (∀ (s : State) (dom rec dom2 : Half),
      s.sleep = some .crescent →
      s.crxWakes dom.toNat rec.toNat dom2.toNat = true →
      bit (s.reg P.pwrWakeEn 0) 1 = true →
      exec (.canWake dom rec dom2) s = .next (State.settle (s.latchWake 1))) ∧
  (∀ (s : State),
      s.pwr.mode = .crescent →
      bit (s.reg P.pwrWakeEn 0) 2 = true →
      s.reg P.pwrWakeTimer 0 ≠ 0 →
      s.reg P.pwrWakeTimer 0 ≤ s.pwr.crCycles →
      exec (.wakeTimerExpiry) s = .next (State.settle (s.latchWake 2))) ∧
  (∀ (s : State),
      s.pwr.mode = .half →
      s.serving = true →
      s.reg P.pwrHalfIdle 0 ≠ 0 →
      expired s.pwr.idleStart (sTicks (s.reg P.pwrHalfIdle 0)) s.epoch = true →
      s.classACause = false →
      (s.wakeActive false).2 = false →
      exec (.halfIdleExpiry) s = .next (State.settle ((s.wakeActive false).1.beginEntry .crescent))) ∧
  (∀ (s : State),
      s.pwr.mwStage = .vdrv →
      s.awake = true →
      s.anyUvlo = true →
      expired s.pwr.mwStart (msTicks (s.reg P.pwrMwVdrvWait 0)) s.epoch = true →
      exec (.mwVdrvWaitExpiry) s = .next (State.settle (State.report { s with pwr := { s.pwr with mwStage := .unguarded } } K.mwUnguarded 0 s.epoch))) ∧
  (∀ (s : State),
      (s.pwr.mwStage = .vdrv ∨ s.pwr.mwStage = .unguarded) →
      s.pwr.mode = .half →
      s.serving = true →
      s.anyUvlo = false →
      exec (.mwGuardStart) s = .next (State.settle ((let t := s.each ((s.ownersOf (setBits 4 (s.reg P.pwrMwBridges 0))).filter (fun d => s.computes d && s.stopped d)) (fun s d => s.enterMwHold d)
      { t with pwr := { t.pwr with mwStage := .guarded } })))) ∧
  (∀ (s : State) (d : Fin 4),
      s.pwr.mode = .full →
      (s.drv d.val).phase = .mwHold →
      (s.drv d.val).mwLow = true →
      (s.drv d.val).held (msTicks (s.reg P.pwrMwRelisten 0)) s.epoch = true →
      exec (.mwRelistenExpiry d) s = .next (State.settle (s.modDrv d.val (fun x => { x with mwLow := false, mwListen := true, inForce := none, listen := {} })))) ∧
  (∀ (s : State),
      s.pwr.mode = .full →
      s.pwr.mwFull = true →
      s.pwr.mwCancel = false →
      ((List.range 4).all (fun d => s.stopped d || (s.drv d).phase == .mwHold) = true) →
      expired s.pwr.mwQuiet (msTicks (s.reg P.pwrMwQuiet 0)) s.epoch = true →
      exec (.mwQuietExpiry) s = .next (State.settle ((s.each ((List.range 4).filter (fun d => (s.drv d).phase == .mwHold)) (fun s d => s.toStopped d)).leaveFull.beginEntry .crescent))) ∧
  (∀ (s : State) (p0 p1 p2 p3 : BitVec 2),
      let x := State.watchAll { s with pwr := { s.pwr with mwSamples := s.pwr.mwSamples + 1 } } (s.pwr.mwSamples + 1) [p0.toNat, p1.toNat, p2.toNat, p3.toNat]
      let y : State := if x.2.1 then { x.1 with pwr := { x.1.pwr with mwQuiet := x.1.epoch } } else x.1
      (s.awake = true ∨ s.pwr.mode = .crescent) →
      exec (.mwSample p0 p1 p2 p3) s = .next (State.settle (if x.2.2 then y.motion else y))) ∧
  (∀ (s : State),
      s.awake = true →
      s.pwr.xtalRef = true →
      exec (.xtalLoss) s = .next (State.settle (((State.bump { s with pwr := { s.pwr with xtalOk := false, xtalRef := false } } P.timeXtalFailCnt 0 top16).report K.xtalFail 0 s.epoch).holdPorts))) ∧
  (∀ (s : State) (u : BlkUnit),
      s.awake = true →
      s.flt.blk.contains u = true →
      exec (.blockResetDone u) s = .next (State.settle (State.unitReset { s with flt := { s.flt with blk := s.flt.blk.filter (fun v => v != u), blkDone := s.flt.blkDone.filter (fun (x : BlkUnit × Nat) => x.1 != u) ++ [(u, s.epoch)] } } u))) ∧
  (∀ (s : State) (e : Entry),
      let u := (s.enterDrafts.flushLife.mirrorAll s.enterDrafts.flt.mirrorQ.length).settleEnergy.each (List.range 12) (fun s g => s.modGen g (fun x => { x with frozen := false }))
      let p : PowerSt := { u.pwr with mode := (match e with | .new => .new | .crescent => .crescent), entering := none, crEntry := u.epoch, crCycles := 0, mw := [], mwSamples := 0, mwFull := false, mwStage := .none }
      let v : State := { u with pool := [], mem := mramOnly u.mem, bus := { u.bus with chops := [] }, pwr := p }
      s.pwr.entering = some e →
      s.awake = true →
      exec (.entryFlushDone) s = .next (State.settle (v.applyGens (List.range 12) v.nowF [])))

/-- PERIODIC_CHECK_TIMER, MRAM_SCRUB_TIMER, SCRUB_READ, ECC_SBE, ECC_DBE for each reader, LOCKSTEP, TRNG_HEALTH_FAIL, TRNG_RETEST, USER_MODE_ACCESS_FAULT, FW_TMO_EXPIRY, FW_FINISH_COMPLETE with either outcome of its checks and TASK_LOAD_COMPLETE answer a next state with the effect that their rules give. -/
def Obligations.CheckAndSecurityEventsRun : Prop :=
  (∀ (s : State),
      s.awake = true →
      expired s.chk.perAt (sTicks (s.reg P.chkPerInt 0)) s.epoch = true →
      exec (.periodicCheckTimer) s = .next (State.settle ({ s with chk := { s.chk with perAt := s.epoch, perDue := true } }))) ∧
  (∀ (s : State),
      s.awake = true →
      expired s.chk.scrubAt (sTicks (3600 * s.reg P.chkMramScrubInt 0)) s.epoch = true →
      exec (.mramScrubTimer) s = .next (State.settle ({ s with chk := { s.chk with scrubAt := s.epoch, scrubDue := true } }))) ∧
  (∀ (s : State),
      s.awake = true →
      s.chk.engAt + 64 ≤ s.epoch →
      s.chk.engNext = 65535 →
      exec (.scrubRead true) s = .next (State.settle ((let t := s.setReg P.chkScrubEpoch 2 s.epoch
      { t with chk := { t.chk with engNext := 0, engAt := s.epoch } })))) ∧
  (∀ (s : State),
      s.awake = true →
      s.chk.engAt + 64 ≤ s.epoch →
      s.chk.engNext < 65535 →
      exec (.scrubRead true) s = .next (State.settle ({ s with chk := { s.chk with engNext := s.chk.engNext + 1, engAt := s.epoch } }))) ∧
  (∀ (s : State),
      s.awake = true →
      s.chk.sramAt + 64 ≤ s.epoch →
      s.chk.sramNext = 1048575 →
      exec (.scrubRead false) s = .next (State.settle ((let t := s.setReg P.chkScrubEpoch 0 s.epoch
      { t with chk := { t.chk with sramNext := 0, sramAt := s.epoch } })))) ∧
  (∀ (s : State) (m : Fin 3) (addr : Word),
      let t := ((s.bump P.chkSbeCnt m.val top32).report K.eccSbe m.val s.epoch none addr.toNat).takeFree
      s.awake = true →
      wordIn m.val addr.toNat = true →
      m.val ≠ 2 →
      exec (.eccSbe m addr) s = .next (State.settle (if t.1.toNat % 4 < 2 then t.2.countEvent (t.1.toNat % 4) 0x16 1 else t.2))) ∧
  (∀ (s : State) (m : Fin 3) (addr : Word),
      s.awake = true →
      wordIn m.val addr.toNat = true →
      m.val = 2 →
      exec (.eccSbe m addr) s = .next (State.settle (((s.bump P.chkSbeCnt 2 top32).report K.eccSbe 2 s.epoch none addr.toNat).takeFree.2.each (List.range 4) (fun s d => s.modDrv d (fun x =>
        { x with foc := { x.foc with run := x.foc.run.map (fun r => if r.start.isSome then { r with cost := r.cost + 4 } else r) } }))))) ∧
  (∀ (s : State) (m : Fin 3) (addr : Word),
      s.awake = true →
      wordIn m.val addr.toNat = true →
      exec (.eccDbe m addr .scan) s = .next (State.settle (((s.bump P.chkDbeCnt m.val top32).report K.eccDbe m.val s.epoch none addr.toNat).scanError addr.toNat))) ∧
  (∀ (s : State) (m : Fin 3) (addr : Word),
      s.awake = true →
      wordIn m.val addr.toNat = true →
      exec (.eccDbe m addr .engine) s = .next (State.settle (((s.bump P.chkDbeCnt m.val top32).report K.eccDbe m.val s.epoch none addr.toNat).each (List.range 4) (fun s d => s.abandonRun d)))) ∧
  (∀ (s : State) (m : Fin 3) (addr : Word) (r : Reader),
      s.awake = true →
      wordIn m.val addr.toNat = true →
      r ≠ .scan →
      r ≠ .engine →
      exec (.eccDbe m addr r) s = .next (State.settle ((s.bump P.chkDbeCnt m.val top32).report K.eccDbe m.val s.epoch none addr.toNat))) ∧
  (∀ (s : State),
      s.awake = true →
      exec (.lockstep) s = .next (State.settle (s.report K.lockstep 0 s.epoch))) ∧
  (∀ (s : State),
      s.awake = true →
      exec (.trngHealthFail) s = .next (State.settle ((let t := s.report K.trngFail 0 s.epoch
      { t with sec := { s.sec with retestAt := s.epoch } })))) ∧
  (∀ (s : State) (passed : Bool),
      s.awake = true →
      s.isLive K.trngFail 0 = true →
      s.sec.retestAt + msTicks 10 ≤ s.epoch →
      exec (.trngRetest passed) s = .next (State.settle ((let t := { s with sec := { s.sec with retestAt := s.epoch } }
      if passed then t.unlive K.trngFail 0 else t)))) ∧
  (∀ (s : State) (t : Fin 8),
      s.awake = true →
      bit (s.reg P.secTaskStat t.val) 1 = true →
      exec (.userModeAccessFault t) s = .next (State.settle ((s.setBit P.secTaskStat t.val 1 false).setBit P.secTaskStat t.val 2 true))) ∧
  (∀ (s : State) (f : FwUpdate),
      s.sec.fw = some f →
      s.awake = true →
      f.finish = none →
      expired f.last (msTicks (s.reg P.secFwTmo 0)) s.epoch = true →
      exec (.fwTmoExpiry) s = .next (State.settle ((let t := s.setBit P.secStat 0 6 false
      { t with sec := { s.sec with fw := none } })))) ∧
  (∀ (s : State) (f : FwUpdate) (c : Cmd) (flags : Nat),
      s.sec.fw = some f →
      f.finish = some (c, flags) →
      s.awake = true →
      exec (.fwFinishComplete) s = .next (State.settle ((let t := (s.finishFw f).1
      let st := (s.finishFw f).2
      let svn := t.imageSvn (targetBase f.target)
      let u := if st = St.ok then
          (let v := t.setReg P.secSlotStat f.target (1 + svn * 2 ^ 16)
           if bit flags 0 && decide (f.target < 2) then v.setReg P.secBootPref 0 f.target else v)
        else t.report K.secAuth 0 t.epoch
      let v := u.closeFw.complete c st 0xFFFF (leBytes 2 svn)
      if v.recovery && st == St.ok then v.requestChip 3 else v)))) ∧
  (∀ (s : State) (c : Cmd) (off flags : Nat),
      s.sec.load = some (c, off, flags) →
      s.awake = true →
      exec (.taskLoadComplete) s = .next (State.settle ((let t := (s.loadTask c.inst off (bit flags 0)).1
      State.complete { t with sec := { t.sec with load := none } } c (s.loadTask c.inst off (bit flags 0)).2 0xFFFF []))))

/-- RELOAD_POINT of a member and of a computing drive, COMPARE_EDGE that changes the request, DEAD_TIME_END of either gate, the sync pulses and their loss, the raw and the filtered edge of a trip input, DEBUG_HALT of both scopes and DEBUG_RESUME answer a next state with the effect that their rules give. -/
def Obligations.PwmCommandsRun : Prop :=
  (∀ (s : State) (d : Fin 4),
      s.atReloadPoint d.val = true →
      s.role d.val = 3 →
      exec (.reloadPoint d) s = .next (State.settle (s.memberBoundary d.val))) ∧
  (∀ (s : State) (d : Fin 4),
      s.atReloadPoint d.val = true →
      s.computes d.val = true →
      exec (.reloadPoint d) s = .next (State.settle (s.homeBoundary d.val))) ∧
  (∀ (s : State) (g : Fin 12) (f : Fin 32) (d : Nat),
      s.ownerOf (g.val / 3) = some d →
      s.pwr.mode = .full →
      s.pwm.halted = none →
      (s.drv d).car.run = true →
      (s.posF d f.val = s.reg P.pwmCmpa g.val ∨ s.posF d f.val = s.reg P.pwmCmpb g.val) →
      s.reg P.pwmCmpa g.val / 32 < (s.drv d).car.per →
      s.reg P.pwmCmpa g.val ≠ 0x1FFFFF →
      (s.gen g.val).req ≠ requestAt (s.drv d).car.per (s.reg P.pwmCmpa g.val) (s.reg P.pwmCmpb g.val) (s.posF d f.val) →
      exec (.compareEdge g f) s = .next (State.settle (State.applyGens (s.modGen g.val (fun x => { x with req := requestAt (s.drv d).car.per (s.reg P.pwmCmpa g.val) (s.reg P.pwmCmpb g.val) (s.posF d f.val) }))
      [g.val] (s.nowF + f.val) (s.ilGroup g.val)))) ∧
  (∀ (s : State) (g : Fin 12),
      s.pwm.halted = none →
      (s.gen g.val).pendH = true →
      (s.gen g.val).offL + s.reg P.pwmDtRise (s.ilLead g.val) ≤ s.nowF + 31 →
      exec (.deadTimeEnd g) s = .next (State.settle (s.applyGens [g.val] (Nat.max ((s.gen g.val).offL + s.reg P.pwmDtRise (s.ilLead g.val)) s.nowF) []))) ∧
  (∀ (s : State) (g : Fin 12),
      s.pwm.halted = none →
      (s.gen g.val).pendH = false →
      (s.gen g.val).pendL = true →
      (s.gen g.val).offH + s.reg P.pwmDtFall (s.ilLead g.val) ≤ s.nowF + 31 →
      exec (.deadTimeEnd g) s = .next (State.settle (s.applyGens [g.val] (Nat.max ((s.gen g.val).offH + s.reg P.pwmDtFall (s.ilLead g.val)) s.nowF) []))) ∧
  (∀ (s : State),
      s.pwr.mode = .full →
      s.pwm.halted = none →
      s.reg P.pwmSyncSrc 0 = 0 →
      s.pwm.chain = 0 →
      exec (.syncChainWrap) s = .next (State.settle ({ s with pwm := { s.pwm with pulses := Smap.set (fun _ => []) s.pwm.pulses 0 (Smap.get (fun _ => []) s.pwm.pulses 0 ++ [s.epoch + s.reg P.pwmSyncDly 0]) } }))) ∧
  (∀ (s : State) (rawAgo : Half) (frac : Fin 32) (rising : Bool),
      let raw := (s.epoch - rawAgo.toNat) * 32 + frac.val
      s.pwr.mode = .full →
      s.pwm.halted = none →
      s.reg P.pwmSyncSrc 0 = 1 →
      bit (s.reg P.pwmSyncInCfg 0) 0 = true →
      rising = !bit (s.reg P.pwmSyncInCfg 0) 1 →
      rawAgo.toNat = bits (s.reg P.pwmSyncInCfg 0) 2 4 + (if frac.val = 0 then 0 else 1) →
      exec (.syncInEdge rawAgo frac rising) s = .next (State.settle (State.chainRef { s with pwm := { s.pwm with syncIn := raw } } ((raw + 16) / 32 - s.reg P.pwmSyncInComp 0)))) ∧
  (∀ (s : State) (rawAgo : Half) (frac : Fin 32) (rising : Bool),
      s.awake = true →
      (s.pwr.mode ≠ .full ∨ s.reg P.pwmSyncSrc 0 ≠ 1) →
      rising = !bit (s.reg P.pwmSyncInCfg 0) 1 →
      rawAgo.toNat = bits (s.reg P.pwmSyncInCfg 0) 2 4 + (if frac.val = 0 then 0 else 1) →
      exec (.syncInEdge rawAgo frac rising) s = .next (State.settle ({ s with pwm := { s.pwm with syncIn := (s.epoch - rawAgo.toNat) * 32 + frac.val } }))) ∧
  (∀ (s : State) (b : Fin 4) (t : Nat) (rest : List Nat),
      let out := bit (s.reg P.pwmSyncOutCfg 0) 0 && bits (s.reg P.pwmSyncOutCfg 0) 1 2 == b.val
      let x : State := { s with pwm := { s.pwm with pulses := Smap.set (fun _ => []) s.pwm.pulses b.val rest, syncOut := if out then some s.epoch else s.pwm.syncOut } }
      let y : State := if b.val < 3 then x.addPulse (b.val + 1) (t + s.reg P.pwmSyncDly (b.val + 1)) else x
      (Smap.get (fun _ => []) s.pwm.pulses b.val = t :: rest) →
      t ≤ s.epoch →
      s.pwr.mode = .full →
      exec (.syncPulse b) s = .next (State.settle (y.each (List.range 4) (fun s d => if s.computes d && s.lowBridge d == b.val && s.reg P.pwmSyncMode d == 1 then s.pulseDrive b.val d (s.epoch - t) else s)))) ∧
  (∀ (s : State) (d : Fin 4),
      s.pwr.mode = .full →
      s.computes d.val = true →
      s.reg P.pwmSyncMode d.val = 1 →
      (s.drv d.val).car.lost = false →
      expired (s.drv d.val).car.pulse (2 * s.reg P.pwmSyncPeriod 0) s.epoch = true →
      exec (.syncLossTimeout d) s = .next (State.settle ((let t := s.modDrv d.val (fun x => { x with car := { x.car with lost := true, corr := 0 } })
      (t.bump P.pwmSyncLossCnt d.val top32).report K.syncLoss (t.lowBridge d.val) t.epoch)))) ∧
  (∀ (s : State) (t : Fin 8) (level : Bool) (frac : Fin 32),
      let u : State := s.setTrip t.val { pin := level, raw := s.epoch, frac := frac.val, fired := false }
      s.awake = true →
      level = !bit (s.reg P.pwmTripCfg t.val) 1 →
      s.tripLevel t.val = false →
      exec (.tripRawEdge t level frac) s = .next (State.settle ((if frac.val = 0 then u.setBit P.pwmTripStat 0 (8 + t.val) true else u)))) ∧
  (∀ (s : State) (t : Fin 8) (level : Bool) (frac : Fin 32),
      let u : State := s.setTrip t.val { s.trip t.val with pin := level }
      s.awake = true →
      level = bit (s.reg P.pwmTripCfg t.val) 1 →
      s.tripLevel t.val = true →
      exec (.tripRawEdge t level frac) s = .next (State.settle ((if frac.val = 0 then ((u.setBit P.pwmTripStat 0 (8 + t.val) false).setTrip t.val { u.trip t.val with fired := false }).unlive K.trip t.val else u)))) ∧
  (∀ (s : State) (t : Fin 8),
      let edge := (s.trip t.val).firstSample + bits (s.reg P.pwmTripCfg t.val) 8 8
      let u := s.setTrip t.val { s.trip t.val with fired := true }
      let gs := setBits 12 (u.reg P.pwmTripMap t.val)
      let lv := fun g : Nat => u.safeLevel (bits (u.reg P.pwmTripCfg t.val) 2 2) g
      let v : State := if bit (u.reg P.pwmTripStat 0) t.val then u else ((u.setBit P.pwmTripStat 0 t.val true).force t.val 1 u.nowF (gs.filter (fun g => lv g == 1))).force t.val 2 u.nowF (gs.filter (fun g => lv g == 2))
      s.awake = true →
      bit (s.reg P.pwmTripCfg t.val) 0 = true →
      s.tripLevel t.val = true →
      (s.trip t.val).fired = false →
      edge ≤ s.epoch →
      exec (.tripFilteredEdge t) s = .next (State.settle (v.report K.trip t.val edge none ((edge - (s.trip t.val).raw) % 2 ^ 16 + (s.trip t.val).frac * 2 ^ 16)))) ∧
  (∀ (s : State),
      s.awake = true →
      s.pwm.halted = none →
      bits (s.reg P.secStat 0) 4 2 = 2 →
      exec (.debugHalt .full) s = .next (State.settle ({ s with pwm := { s.pwm with haltReq := true } }))) ∧
  (∀ (s : State),
      s.awake = true →
      bits (s.reg P.secStat 0) 4 2 ≠ 0 →
      exec (.debugHalt .satellite) s = .next (State.settle ({ s with pwm := { s.pwm with satHalt := true } }))) ∧
  (∀ (s : State) (t : Nat),
      s.pwm.halted = some t →
      exec (.debugResume) s = .next (State.settle (s.resumeDevice t))) ∧
  (∀ (s : State),
      s.pwm.halted = none →
      exec (.debugResume) s = .next (State.settle ({ s with pwm := { s.pwm with satHalt := false, haltReq := false } })))

/-- ADC_SAMPLE at a sampling instant, WINDOW_DELIVERED of a window whose 200 ns have passed, VBUS_AGE_EXPIRY, HK_ROUND_START (with the converter free, and while a round still runs) and HK_CONVERSION_DONE answer a next state with their effect. -/
def Obligations.ConverterCommandsRun : Prop :=
  (∀ (s : State) (k : Fin 8) (code : BitVec 14) (orng : Bool),
      s.awake = true →
      (s.epoch + 10 - s.reg P.adcPhase k.val) % 10 = 0 →
      (s.conv k.val).last ≠ some s.epoch →
      exec (.adcSample k code orng) s = .next (State.settle (s.takeSample k.val code.toNat orng))) ∧
  (∀ (s : State) (b : Fin 4) (w : Window) (l : List Window),
      s.awake = true →
      (s.picker b.val).closed = w :: l →
      w.close + 40 * 32 ≤ s.epoch * 32 →
      exec (.windowDelivered b) s = .next (State.settle ((let t := s.setPicker b.val { s.picker b.val with closed := l }
      let p := t.plausCheck b.val w
      let u := p.1.captureWindow b.val p.2
      if p.2.tooLate then u else u.setPicker b.val { u.picker b.val with delivered := (u.picker b.val).delivered ++ [p.2] })))) ∧
  (∀ (s : State) (b : Fin 4),
      s.awake = true →
      expired (s.checker b.val).vbusAt (usTicks (s.reg P.adcVbusAgeMax b.val)) s.epoch = true →
      exec (.vbusAgeExpiry b) s = .next (State.settle (s.report K.vbusStale b.val s.epoch))) ∧
  (∀ (s : State),
      s.awake = true →
      s.hk.due ≤ s.epoch →
      s.flt.blk.contains .hk = false →
      s.hk.round = false →
      s.hk.conv = none →
      s.hk.due + msTicks (s.reg P.adcHkPeriod 0) > s.epoch →
      exec (.hkRoundStart) s = .next (State.settle (State.hkAdvance (State.hkBegin { s with hk := { s.hk with due := s.hk.due + msTicks (s.reg P.adcHkPeriod 0) } })))) ∧
  (∀ (s : State),
      s.awake = true →
      s.hk.due ≤ s.epoch →
      s.flt.blk.contains .hk = false →
      s.hk.round = true →
      s.hk.due + msTicks (s.reg P.adcHkPeriod 0) > s.epoch →
      exec (.hkRoundStart) s = .next (State.settle (State.report { s with hk := { s.hk with due := s.hk.due + msTicks (s.reg P.adcHkPeriod 0), late := true } } K.hkLate 0 s.epoch))) ∧
  (∀ (s : State) (code : Half) (ch t : Nat) (cmd : Option Cmd),
      s.hk.conv = some (ch, t, cmd) →
      s.awake = true →
      t + s.hkTicks ≤ s.epoch →
      s.flt.blk.contains .hk = false →
      exec (.hkConversionDone code) s = .next (State.settle (s.hkResult ch code.toNat cmd)))

/-- POS_INPUT_EDGE of a Hall input, POS_ZERO_TMO, ZC_COMPARATOR_EDGE of a listening drive, PRECHARGE_ELAPSED, LISTEN_EXPIRY, ALIGN_ELAPSED, OL_T_MAX_EXPIRY, ASC_STEP_EXPIRY in each of its states, BRAKE_MAX_EXPIRY, STOP_T_MAX_EXPIRY and SOFT_T_MAX_EXPIRY answer a next state with their effect. -/
def Obligations.PositionAndStartCommandsRun : Prop :=
  (∀ (s : State) (p : Fin 12) (level : Bool) (rawAgo : Half),
      let v := level != bit (s.reg P.posInCfg (p.val / 3)) (4 + p.val % 3)
      s.awake = true →
      s.flt.blk.contains .pos = false →
      v ≠ s.posPin (p.val / 3) (p.val % 3) →
      bits (s.reg P.posInCfg (p.val / 3)) 0 4 * 32 ≤ rawAgo.toNat →
      rawAgo.toNat ≤ (bits (s.reg P.posInCfg (p.val / 3)) 0 4 + 1) * 32 →
      exec (.posInputEdge p level rawAgo) s = .next (State.settle (s.posChange (p.val / 3) (p.val % 3) (s.nowF - rawAgo.toNat) v))) ∧
  (∀ (s : State) (p : Fin 12) (level : Bool) (rawAgo : Half) (d : Nat),
      let v := level != bit (s.reg P.posInCfg (p.val / 3)) (4 + p.val % 3)
      let x : State := { s with posIn := Smap.set (fun _ => false) s.posIn (3 * (p.val / 3) + p.val % 3) v }
      let y : State := if (hallIndex (x.hallState (p.val / 3))).isSome then { x with posSeen := x.posSeen ||| 2 ^ (p.val / 3) } else x
      s.awake = true →
      s.flt.blk.contains .pos = false →
      v ≠ s.posPin (p.val / 3) (p.val % 3) →
      bits (s.reg P.posInCfg (p.val / 3)) 0 4 * 32 ≤ rawAgo.toNat →
      rawAgo.toNat ≤ (bits (s.reg P.posInCfg (p.val / 3)) 0 4 + 1) * 32 →
      s.ownerOf (p.val / 3) = some d →
      s.lowBridge d = p.val / 3 →
      s.reg P.posSrc d ≠ 1 →
      s.reg P.posSrc d ≠ 3 →
      s.hallDecoded d = true →
      exec (.posInputEdge p level rawAgo) s = .next (State.settle (y.hallChange d (p.val / 3) (s.nowF - rawAgo.toNat)))) ∧
  (∀ (s : State) (d : Fin 4),
      s.awake = true →
      s.role d.val ≠ 0 →
      (s.drv d.val).trk.zeroed = false →
      s.hostSteers d.val = false →
      expired (s.drv d.val).trk.evTick (msTicks (s.reg P.posZeroTmo d.val)) s.epoch = true →
      s.hallDecoded d.val = false →
      exec (.posZeroTmo d) s = .next (State.settle (s.modDrv d.val (fun x => { x with trk := { x.trk with omega := 0#32, zeroed := true } })))) ∧
  (∀ (s : State) (d : Fin 4),
      s.awake = true →
      s.role d.val ≠ 0 →
      (s.drv d.val).trk.zeroed = true →
      s.hallDecoded d.val = true →
      (hallIndex (s.drv d.val).trk.hall).isNone = true →
      expired (s.drv d.val).trk.hallTick (msTicks (s.reg P.posZeroTmo d.val)) s.epoch = true →
      exec (.posZeroTmo d) s = .next (State.settle (s.report K.hallBad (s.lowBridge d.val) s.epoch))) ∧
  (∀ (s : State) (b : Fin 4) (line : Fin 3) (rising : Bool) (frac : Fin 32) (d : Nat),
      s.ownerOf b.val = some d →
      s.pwr.mode = .full →
      s.lowBridge d = b.val →
      (s.drv d).listening = true →
      s.underTest (b.val / 2 + 1) (18 + (3 * b.val + line.val) % 6) = false →
      exec (.zcComparatorEdge b line rising frac) s = .next (State.settle (s.crossing b.val d (s.nowF + frac.val) (zcAngle line.val rising)))) ∧
  (∀ (s : State) (d : Fin 4),
      s.awake = true →
      (s.drv d.val).phase = .precharge →
      (s.drv d.val).start.gangWait = none →
      (s.drv d.val).held (usTicks (s.reg P.gatePrecharge 0)) s.epoch = true →
      exec (.prechargeElapsed d) s = .next (State.settle (s.afterPrecharge d.val))) ∧
  (∀ (s : State) (d : Fin 4),
      s.pwr.mode = .full →
      (s.drv d.val).listening = true →
      (s.drv d.val).held (msTicks (s.reg P.posListen d.val)) s.epoch = true →
      exec (.listenExpiry d) s = .next (State.settle ((s.listenEnd d.val none).gangStop d.val))) ∧
  (∀ (s : State) (d : Fin 4),
      s.pwr.mode = .full →
      (s.drv d.val).phase = .align →
      (s.drv d.val).stop.byAction = false →
      expired (s.drv d.val).since (msTicks (s.reg P.posAlignT d.val)) s.epoch = true →
      exec (.alignElapsed d) s = .next (State.settle ((let θ := turn16 (s.reg P.posAlignAng d.val)
      let t := s.initTracker d.val θ 0#32 (s.drv d.val).trk.evSrc
      if t.reg P.posSrc d.val = 2 then
        (t.setPhase d.val .openLoop).modDrv d.val (fun x => { x with foc := { x.foc with olTheta := θ, olW := 0#32 }, ecl := { x.ecl with okRun := 0 } })
      else
        (if t.reg P.posSrc d.val = 1 then t.modDrv d.val (fun x => { x with trk := { x.trk with abs := true } }) else t).enterRunning d.val 2 3)))) ∧
  (∀ (s : State) (d : Fin 4),
      s.pwr.mode = .full →
      (s.drv d.val).phase = .openLoop →
      (s.drv d.val).start.failed = false →
      (s.drv d.val).stop.byAction = false →
      expired (s.drv d.val).since (msTicks (s.reg P.posOlTMax d.val)) s.epoch = true →
      exec (.olTMaxExpiry d) s = .next (State.settle ((s.modDrv d.val (fun x => { x with start := { x.start with failed := true } })).report K.startFail d.val s.epoch))) ∧
  (∀ (s : State) (d : Fin 4),
      s.pwr.mode = .full →
      (s.drv d.val).phase = .brake →
      (s.drv d.val).held (msTicks (s.reg P.posAscStep d.val)) s.epoch = true →
      exec (.ascStepExpiry d) s = .next (State.settle (s.setPhase d.val .listen))) ∧
  (∀ (s : State) (d : Fin 4),
      s.pwr.mode = .full →
      (s.drv d.val).phase = .lossBrake →
      (s.drv d.val).stop.byAction = false →
      expired (s.drv d.val).since (20000 * s.reg P.posAscStep d.val) s.epoch = true →
      exec (.ascStepExpiry d) s = .next (State.settle (s.setPhase d.val .listen))) ∧
  (∀ (s : State) (d : Fin 4),
      s.pwr.mode = .full →
      (s.drv d.val).phase = .stopping →
      (s.drv d.val).stop.ph = .short →
      (s.drv d.val).stop.listen = false →
      s.shortTracked d.val = false →
      (s.drv d.val).held (msTicks (s.reg P.posAscStep d.val)) s.epoch = true →
      exec (.ascStepExpiry d) s = .next (State.settle (s.modDrv d.val (fun x => { x with stop := { x.stop with listen := true }, inForce := none, listen := {} })))) ∧
  (∀ (s : State) (d : Fin 4),
      s.pwr.mode = .full →
      ((s.drv d.val).phase = .brake ∨ (s.drv d.val).phase = .lossBrake) →
      (s.drv d.val).start.failed = false →
      (s.drv d.val).stop.byAction = false →
      msTicks (s.reg P.posBrakeMax d.val) < (s.drv d.val).start.brakeTicks + (s.epoch - (s.drv d.val).since) →
      exec (.brakeMaxExpiry d) s = .next (State.settle ((s.modDrv d.val (fun x => { x with start := { x.start with failed := true } })).report K.flyFail d.val s.epoch))) ∧
  (∀ (s : State) (d : Fin 4),
      s.pwr.mode = .full →
      (s.drv d.val).phase = .listen →
      (s.drv d.val).start.failed = false →
      (s.drv d.val).stop.byAction = false →
      msTicks (s.reg P.posBrakeMax d.val) < (s.drv d.val).start.brakeTicks →
      exec (.brakeMaxExpiry d) s = .next (State.settle ((s.modDrv d.val (fun x => { x with start := { x.start with failed := true } })).report K.flyFail d.val s.epoch))) ∧
  (∀ (s : State) (d : Fin 4),
      s.pwr.mode = .full →
      (s.drv d.val).phase = .stopping →
      (s.drv d.val).stop.ph = .ramp →
      (s.drv d.val).stop.soft = none →
      expired (s.drv d.val).stop.entry (msTicks (s.reg P.focStopTMax d.val)) s.epoch = true →
      exec (.stopTMaxExpiry d) s = .next (State.settle (((s.modDrv d.val (fun x => { x with stop := { x.stop with timeout := true } })).shortOrOff d.val).gangStop d.val))) ∧
  (∀ (s : State) (d : Fin 4) (t : Nat),
      (s.drv d.val).stop.soft = some t →
      s.pwr.mode = .full →
      expired t (msTicks (s.reg P.focSoftTMax d.val)) s.epoch = true →
      exec (.softTMaxExpiry d) s = .next (State.settle ((if s.fasterThan d.val (s.f P.focAscSpeed d.val) then s.enterShort d.val else s.toStopped d.val).gangStop d.val)))

/-- ENG_RUN_START with the lane free starts the run with the earliest deadline, not before the lane is free (R293); ENG_DEADLINE_MISS marks a run whose deadline has passed and counts an overrun on the tick after the deadline (R296); ENG_RUN_FINISH of a run whose lane-cycles have ended finishes it (R294). -/
def Obligations.EngineRunsAreServed : Prop :=
  (∀ (s : State) (l : Fin 2) (t d : Nat),
      s.pwr.mode = .full →
      s.flt.blk.contains .eng = false →
      s.onLane l.val = none →
      s.nextRun l.val = some (t, d) →
      s.laneFree l.val ≤ 2 * s.epoch + 1 →
      exec (.engRunStart l) s = .next (State.settle (s.startRun d (Nat.max (s.laneFree l.val) (2 * s.epoch))))) ∧
  (∀ (s : State) (d : Fin 4) (r : Run),
      s.pwr.mode = .full →
      s.runOf d.val = some r →
      r.late = false →
      r.deadline < s.epoch →
      exec (.engDeadlineMiss d) s = .next (State.settle ((s.setRun d.val (some { r with late := true })).overrun d.val (r.deadline + 1)))) ∧
  (∀ (s : State) (l : Fin 2) (d : Nat) (r : Run) (e : Nat),
      s.onLane l.val = some d →
      s.runOf d = some r →
      r.endCycle = some e →
      s.pwr.mode = .full →
      s.flt.blk.contains .eng = false →
      (e - 1) / 2 ≤ s.epoch →
      exec (.engRunFinish l) s = .next (State.settle (s.finishRun d r e)))

/-- VDRV_UV_FALL and VDRV_UV_RISE, BST_UV, XCMD_DIE, DESAT_DETECT of an enabled comparator, HOC_EDGE and HOC_RELEASE, SOFT_TURNOFF_STEP2, STO_ACTIVE, STO_RELEASE, STO_DISC_TIMEOUT and SELFTEST_DONE (a command's test, and the one of PWR_SET full) answer a next state with their effect. -/
def Obligations.GateCommandsRun : Prop :=
  (∀ (s : State) (j : Fin 2),
      (s.die j.val).up = true →
      s.underTest (j.val + 1) 24 = false →
      exec (.vdrvUvFall j) s = .next (State.settle ((let t := (s.setDie j.val { s.die j.val with up := false })
      let t := t.setChop j.val { t.chop j.val with on := false, check := none }
      let t := t.bump P.gateVdrvUvCnt (j.val + 1) top32
      (t.report K.vdrvUv j.val t.epoch).regen (t.chopGroup j.val))))) ∧
  (∀ (s : State) (j : Fin 2),
      s.awake = true →
      (s.die j.val).up = false →
      exec (.vdrvUvRise j) s = .next (State.settle ((let t := (s.setDie j.val { s.die j.val with up := true, everUp := true }).unlive K.vdrvUv j.val
      t.regen (s.chopGroup j.val))))) ∧
  (∀ (s : State) (g : Fin 12),
      s.awake = true →
      (s.gen g.val).gh = true →
      s.underTest (g.val / 6 + 1) (12 + g.val % 6) = false →
      s.bstHold g.val = false →
      exec (.bstUv g) s = .next (State.settle ((s.bstLow g.val).shortToLow g.val))) ∧
  (∀ (s : State) (g : Fin 12),
      s.awake = true →
      (s.chan g.val).xcmd = false →
      exec (.xcmdDie g) s = .next (State.settle ((let t := s.setChan g.val { s.chan g.val with xcmd := true }
      (t.force 11 1 t.nowF (match t.ownerOf (g.val / 3) with | some d => t.gensOf d | none => [g.val])).report K.xcmdDie g.val t.epoch)))) ∧
  (∀ (s : State) (g : Fin 12) (low : Bool) (latched : Half),
      s.awake = true →
      s.desatEnabled g.val low (extendEpoch s.epoch latched.toNat) = true →
      s.underTest (g.val / 6 + 1) ((if low then 6 else 0) + g.val % 6) = false →
      exec (.desatDetect g low latched) s = .next (State.settle ((let t := s.setChan g.val (if low then { s.chan g.val with desatLo := true } else { s.chan g.val with desatHi := true })
      let t := t.startSoft (g.val / 3)
      let t := t.force 8 1 t.nowF (((t.affected (g.val / 3)).map gensOfBridge).flatten)
      (t.bump P.gateDesatCnt g.val top32).report K.desat (2 * g.val + low.toNat) (extendEpoch s.epoch latched.toNat))))) ∧
  (∀ (s : State) (b : Fin 4),
      s.awake = true →
      s.underTest 0 b.val = false →
      exec (.hocEdge b) s = .next (State.settle ((let t := State.startSoft { s with gate := { s.gate with hoc := putBit s.gate.hoc b.val true } } b.val
      let t := t.force 9 1 t.nowF (((t.affected b.val).map gensOfBridge).flatten)
      (t.bump P.gateHocCnt b.val top32).report K.hoc b.val t.epoch)))) ∧
  (∀ (s : State) (b : Fin 4),
      bit s.gate.hoc b.val = true →
      exec (.hocRelease b) s = .next (State.settle (State.unlive { s with gate := { s.gate with hoc := putBit s.gate.hoc b.val false } } K.hoc b.val))) ∧
  (∀ (s : State) (d : Fin 4) (b t : Nat),
      ((List.range 4).filter (fun b => (s.bridges d.val).contains b || (s.ownerOf b).isNone) = [b]) →
      s.softOf b = some t →
      t + s.softTicks b ≤ s.epoch →
      exec (.softTurnoffStep2 d) s = .next (State.settle ((s.setSoft b none).each (gensOfBridge b) (fun s g =>
        ((s.setChan g { s.chan g with desatHi := false, desatLo := false }).unlive K.desat (2 * g)).unlive K.desat (2 * g + 1))))) ∧
  (∀ (s : State) (j : Fin 2) (stob : Bool),
      let x := (if stob then { s.die j.val with lowB := true } else { s.die j.val with lowA := true }).setDiffer s.epoch
      let t := (s.setDie j.val x).setDie j.val { (s.setDie j.val x).die j.val with latch := true }
      let u := t.force 10 1 t.nowF ((dieBridges j.val).map gensOfBridge).flatten
      let v := (u.bump P.gateStoCnt (j.val + 1) top32).report K.stoAct (2 * j.val + stob.toNat) (u.bump P.gateStoCnt (j.val + 1) top32).epoch
      (if stob then (s.die j.val).lowB else (s.die j.val).lowA) = false →
      s.awake = true →
      exec (.stoActive j stob) s = .next (State.settle (if (v.die j.val).differ.isNone then v.unlive K.stoDisc j.val else v))) ∧
  (∀ (s : State) (j : Fin 2) (stob : Bool),
      let x := (if stob then { s.die j.val with lowB := true } else { s.die j.val with lowA := true }).setDiffer s.epoch
      (if stob then (s.die j.val).lowB else (s.die j.val).lowA) = false →
      s.pwr.mode = .boot →
      exec (.stoActive j stob) s = .next (State.settle (s.setDie j.val (if stob then { x with bootB := true } else { x with bootA := true })))) ∧
  (∀ (s : State) (stob : Bool),
      ((if stob then (s.die 0).lowB else (s.die 0).lowA) = true ∨ (if stob then (s.die 1).lowB else (s.die 1).lowA) = true) →
      exec (.stoRelease stob) s = .next (State.settle ((s.stoHigh stob 0).stoHigh stob 1))) ∧
  (∀ (s : State) (j : Fin 2) (t : Nat),
      (s.die j.val).differ = some t →
      s.awake = true →
      expired t (msTicks (s.reg P.gateStoDiscT 0)) s.epoch = true →
      exec (.stoDiscTimeout j) s = .next (State.settle (s.report K.stoDisc j.val s.epoch))) ∧
  (∀ (s : State) (res : SelftestResult) (t : SelfTest),
      s.endedTest = some t →
      (t.cmd ≠ none ∨ (s.endTest t res).gate.tests.length = s.gate.tests.length ∨ (s.endTest t res).pwr.mode ≠ .half) →
      exec (.selftestDone res) s = .next (State.settle (s.endTest t res))) ∧
  (∀ (s : State) (res : SelftestResult) (t : SelfTest),
      s.endedTest = some t →
      t.cmd = none →
      (s.endTest t res).gate.tests.length < s.gate.tests.length →
      (s.endTest t res).pwr.mode = .half →
      (s.endTest t res).pwr.entering = none →
      exec (.selftestDone res) s = .next (State.settle ((s.endTest t res).enterFull false)))

/-- UV_FILT_EXPIRY of both levels, OV4_EDGE, OV4_COMPARATOR_INACTIVE, OV4_RELEASE of a quiet group after its hold, CHOP_CHECK_EXPIRY of a check that runs and CHOP_DESAT of a chopper that is on answer a next state with their effect. -/
def Obligations.BusCommandsRun : Prop :=
  (∀ (s : State) (n : Fin 4) (uv2 : Bool) (t : Nat),
      s.awake = true →
      uv2 = false →
      (s.grp n.val).uv1 = false →
      (s.grp n.val).uv1At = some t →
      expired t (usTicks (s.reg P.busUvFilt n.val)) s.epoch = true →
      exec (.uvFiltExpiry n uv2) s = .next (State.settle ((s.setGrp n.val { s.grp n.val with uv1 := true }).report K.busUv1 n.val s.epoch))) ∧
  (∀ (s : State) (n : Fin 4) (uv2 : Bool) (t : Nat),
      s.awake = true →
      uv2 = true →
      (s.grp n.val).uv2 = false →
      (s.grp n.val).uv2At = some t →
      expired t (usTicks (s.reg P.busUvFilt n.val)) s.epoch = true →
      exec (.uvFiltExpiry n uv2) s = .next (State.settle ((s.setGrp n.val { s.grp n.val with uv2 := true }).report K.busUv2 n.val s.epoch))) ∧
  (∀ (s : State) (b : Fin 4),
      s.awake = true →
      s.underTest 0 (4 + b.val) = false →
      exec (.ov4Edge b) s = .next (State.settle ((let n := s.reg P.busGroup b.val
      let ds := s.groupDrives n
      let t := State.setGrp { s with bus := { s.bus with ov4 := putBit s.bus.ov4 b.val true } } n { s.grp n with ov4Latch := true }
      let t := (t.force 12 2 t.nowF (ds.map t.gensOf).flatten).bump P.busOv4Cnt n top32
      let t := t.each ds (fun s d => if (s.drv d).phase = .listen then
          (s.setPhase d .brake).modDrv d (fun x => { x with start := { x.start with braked := true } }) else s)
      (t.report K.busOv4 b.val t.epoch).regen n)))) ∧
  (∀ (s : State) (b : Fin 4),
      bit s.bus.ov4 b.val = true →
      exec (.ov4ComparatorInactive b) s = .next (State.settle ((let n := s.reg P.busGroup b.val
      let t := State.unlive { s with bus := { s.bus with ov4 := putBit s.bus.ov4 b.val false } } K.busOv4 b.val
      if t.ov4Quiet n then t.setGrp n { t.grp n with ov4Clear := t.epoch } else t)))) ∧
  (∀ (s : State) (n : Fin 4),
      (s.grp n.val).ov4Latch = true →
      s.ov4Quiet n.val = true →
      expired (s.grp n.val).ov4Clear (usTicks (s.reg P.busOv4Hold n.val)) s.epoch = true →
      exec (.ov4Release n) s = .next (State.settle (((s.setGrp n.val { s.grp n.val with ov4Latch := false }).unforce 12 ((s.groupDrives n.val).map s.gensOf).flatten).regen n.val))) ∧
  (∀ (s : State) (c : Fin 2) (t : Nat),
      (s.chop c.val).check = some t →
      s.pwm.halted = none →
      expired t (usTicks (s.reg P.busChopCheck c.val)) s.epoch = true →
      exec (.chopCheckExpiry c) s = .next (State.settle (((s.setChop c.val { s.chop c.val with on := false, check := none }).report K.chopFail c.val s.epoch).regen (s.chopGroup c.val)))) ∧
  (∀ (s : State) (c : Fin 2),
      s.awake = true →
      s.chopDesatEnabled c.val = true →
      s.underTest (c.val + 1) 25 = false →
      exec (.chopDesat c) s = .next (State.settle (((s.setChop c.val { s.chop c.val with on := false, check := none, desat := some s.epoch }).report K.chopFail (c.val + 2) s.epoch).regen (s.chopGroup c.val))))

/-- SHDN_RECORD_WRITE of the oldest waiting record, PENUMBRA_EXPIRY, MIRROR_WRITE, JOURNAL_TAIL_ENTRY, INJ_TIMEOUT and DEC_TMO_EXPIRY of an awaited decision answer a next state with their effect. -/
def Obligations.FaultTimersRun : Prop :=
  (∀ (s : State) (u : Nat) (words : List Nat) (rest : List (Nat × List Nat)),
      s.flt.shdnQ = (u, words) :: rest →
      (Smap.get (fun _ => none) s.therm.shdn u = none) →
      exec (.shdnRecordWrite) s = .next (State.settle ((let slot := s.reg P.thermShdnNext 0
      let t := (s.each (List.range 4) (fun s w => s.setReg P.thermShdnRec (4 * slot + w) (words.getD w 0))).setReg P.thermShdnNext 0 ((slot + 1) % 8)
      { t with flt := { t.flt with shdnQ := rest } })))) ∧
  (∀ (s : State),
      (s.flt.pens.filter (fun p => decide (p.stop < s.epoch)) ≠ []) →
      s.awake = true →
      exec (.penumbraExpiry) s = .next (State.settle ((let ended := s.flt.pens.filter (fun p => decide (p.stop < s.epoch))
      let left := s.flt.pens.filter (fun p => !decide (p.stop < s.epoch))
      let due := (s.flt.recs.filter (fun (k, x) => x.live && x.lastConseq && selClass k != .a
        && (match sourceRow (k / 256) with | some r => r.level | none => false)
        && ended.any (fun p => s.shadows p.kind (k / 256) (k % 256))
        && !left.any (fun p => s.shadows p.kind (k / 256) (k % 256)))).map (·.1)
      State.each { s with flt := { s.flt with pens := left } } due
        (fun s sel => (s.unlive (sel / 256) (sel % 256)).report (sel / 256) (sel % 256) s.epoch))))) ∧
  (∀ (s : State),
      s.awake = true →
      exec (.mirrorWrite) s = .next (State.settle (s.mirrorOne))) ∧
  (∀ (s : State),
      s.awake = true →
      exec (.journalTailEntry) s = .next (State.settle (s.enterTail))) ∧
  (∀ (s : State) (x : Inject),
      s.flt.inject = some x →
      s.awake = true →
      x.waits = false →
      expired x.epoch (usTicks 10) s.epoch = true →
      exec (.injTimeout) s = .next (State.settle ((s.endInject x St.ok false).report K.injMiss 0 s.epoch))) ∧
  (∀ (s : State) (kind inst : Byte),
      let sel := selector kind.toNat inst.toNat
      let u := s.setRec sel { s.frec sel with awaiting := none }
      let v := ((u.takeDeferred kind.toNat inst.toNat (u.reg P.fltReact kind.toNat)).bump P.hostDecLate 0 top32).bump P.hostDecRun 0 255
      s.awake = true →
      (s.frec sel).awaiting ≠ none →
      s.awaits (s.frec sel) = false →
      v.reg P.hostDecRun 0 < v.reg P.hostLateMax 0 →
      exec (.decTmoExpiry kind inst) s = .next (State.settle (v)))

/-- PERF_OVERFLOW of a running counter that reaches 2 to the 48, PERF_SAMPLE of a core that samples and PERF_DUMP_TICK on a dump tick answer a next state with the effect that their rules give; the dump of a dump tick, taken at its end, writes the records that PERF.DUMP_CFG selects. -/
def Obligations.PerfCommandsRun : Prop :=
  (∀ (s : State) (e : Fin 12) (two : Bool),
      s.awake = true →
      s.reg P.perfCtl (e.val / 6) = 1 →
      s.coreHalted (e.val / 6) = false →
      bits (s.reg P.perfEvt e.val) 0 8 ≠ 0 →
      2 ^ 48 ≤ s.reg P.perfCnt e.val + (if two then 2 else 1) →
      exec (.perfOverflow e two) s = .next (State.settle (s.countOn e.val (if two then 2 else 1)))) ∧
  (∀ (s : State) (c : Fin 2) (r : SampleInsn),
      s.awake = true →
      bit (s.reg P.perfSampleCfg c.val) 0 = true →
      s.coreHalted c.val = false →
      (c.val ≠ 0 ∨ s.susp0 = false) →
      exec (.perfSample c r) s = .next (State.settle ((let comp := r.insn.toNat % 4 != 3
      s.perfRecord (3 + c.val) 64 P.perfSampleDrop c.val (fun n drop =>
        leBytes 8 s.epoch ++ leBytes 4 r.pc.toNat ++ leBytes 4 (if comp then r.insn.toNat % 2 ^ 16 else r.insn.toNat) ++ leBytes 2 r.lat.toNat
          ++ leBytes 1 (bits (s.reg P.perfSampleCfg c.val) 8 8) ++ leBytes 1 (comp.toNat + r.wasted.toNat * 2 + r.user.toNat * 4 + drop.toNat * 8)
          ++ leBytes 4 (s.reg P.perfCycle c.val) ++ leBytes 4 n ++ zeros 4))))) ∧
  (∀ (s : State),
      s.atDump = true →
      exec (.perfDumpTick) s = .next (State.settle ({ s with perf := { s.perf with dumped := some s.epoch, dumpDue := true } }))) ∧
  (∀ (s : State),
      s.perf.dumpDue = true →
      s.takeDump =
      (let cfg := s.reg P.perfDumpCfg 0
      let t := State.each { s with perf := { s.perf with dumpDue := false } } [0, 1] (fun s c =>
        if bit cfg c then
          let s := s.perfRecord c 16 P.perfDumpDrop c (fun n drop => s.coreRecord c false n drop)
          { s with perf := { s.perf with ovf := Smap.set (fun _ => 0) s.perf.ovf c 0 } }
        else s)
      if bit cfg 2 then
        (let t := t.each t.engDrives (fun s d => s.perfRecord 2 64 P.perfDumpDrop 2 (fun n drop => s.engRecord d n drop))
         if bit cfg 3 then t.each t.engDrives (fun s d => (s.setReg P.engCycMax d 0).setReg P.engWaitMax d 0) else t)
      else t))

/-- PORT_UP, PORT_DOWN, DLY_REQ_TIMER, DLY_RESP_TIMEOUT, UPSTREAM_CLOCK_LOSS, PORT_FREE, FRAME_CRC_FAIL, SYNC_SEND_TIMER, SYNC_MISSING_TIMEOUT, RETX_TMO_EXPIRY, MBOX_SEG_TIMEOUT, ENUM_REPLY at the root and elsewhere, ENUM_COLLECT_END, GANG_ACK_TIMEOUT and REPORT_WAIT_EXPIRY answer a next state with the effect that their rules give. -/
def Obligations.LinkPortsAndTimersRun : Prop :=
  (∀ (s : State) (p : Fin 3) (inverted : Bool),
      s.awake = true →
      (s.portState p.val = portTrain ∨ s.portState p.val = portDown) →
      s.linkClock = true →
      (s.port p.val).exchanged = true →
      exec (.portUp p inverted) s = .next (State.settle ((let t := ((s.setPortState p.val portUp).setPortTree p.val 0).setBit P.linkPortStat p.val 5 inverted
      (t.setPort p.val { t.port p.val with resp := t.epoch, req := t.epoch }).unlive K.linkDown p.val)))) ∧
  (∀ (s : State) (p : Fin 3),
      s.awake = true →
      (s.portState p.val = portUp ∨ s.portState p.val = portSpare) →
      exec (.portDown p) s = .next (State.settle (s.portLost p.val portDown))) ∧
  (∀ (s : State) (p : Fin 3),
      s.awake = true →
      (s.portState p.val = portUp ∨ s.portState p.val = portSpare) →
      expired (s.port p.val).resp (3 * usTicks (s.reg P.linkDlyInt 0)) s.epoch = true →
      exec (.dlyRespTimeout p) s = .next (State.settle (s.portLost p.val portDown))) ∧
  (∀ (s : State) (p : Fin 3),
      s.awake = true →
      s.portState p.val ≠ portOff →
      (s.portState p.val = portTrain ∨ s.portState p.val = portDown ∨ (s.port p.val).req + usTicks (s.reg P.linkDlyInt 0) ≤ s.epoch) →
      exec (.dlyReqTimer p) s = .next (State.settle ((let t := s.setPort p.val { s.port p.val with req := s.epoch }
      t.sendNeighbour p.val 0x02 (zeros 9 ++ leBytes 8 (t.reg P.linkUid 0)) (some 0))))) ∧
  (∀ (s : State),
      s.awake = true →
      bit (s.reg P.linkStat 0) 1 = true →
      exec (.upstreamClockLoss) s = .next (State.settle ((s.setBit P.linkStat 0 1 false).holdPorts))) ∧
  (∀ (s : State) (p : Fin 3),
      s.awake = true →
      exec (.portFree p) s = .next (State.settle (s.portSend p.val))) ∧
  (∀ (s : State) (p : Fin 3) (why : FrameFault),
      s.awake = true →
      s.portState p.val ≠ portOff →
      s.injectFrame p.val = none →
      exec (.frameCrcFail p why) s = .next (State.settle (s.frameFail p.val why))) ∧
  (∀ (s : State),
      s.awake = true →
      s.isRoot = true →
      s.joined = true →
      s.link.lastSync + usTicks (s.reg P.linkSyncInt 0) ≤ s.epoch →
      s.sendSync.link.enum = none →
      exec (.syncSendTimer) s = .next (State.settle ({ s.sendSync with link := { s.sendSync.link with lastSync := s.epoch } }))) ∧
  (∀ (s : State),
      s.awake = true →
      s.joined = true →
      s.isRoot = false →
      s.link.acq = none →
      expired s.link.lastSync (3 * usTicks (s.reg P.linkSyncInt 0)) s.epoch = true →
      exec (.syncMissingTimeout) s = .next (State.settle ((s.report K.linkSync 0 s.epoch).setBit P.linkStat 0 2 false))) ∧
  (∀ (s : State) (p : Fin 3),
      s.awake = true →
      exec (.retxTmoExpiry p) s = .next (State.settle ((let x := s.port p.val
      let due (u : Unacked) : Bool := expired u.at_ (usTicks (s.reg P.linkRetxTmo 0)) s.epoch
      let again := x.unacked.filter (fun u => due u && decide (u.tries < s.reg P.linkRetxMax 0))
      let keep := x.unacked.filter (fun u => !due u || decide (u.tries < s.reg P.linkRetxMax 0))
      (s.setPort p.val { x with unacked := keep.map (fun u => if due u then { u with tries := u.tries + 1, at_ := s.epoch } else u) }).each again
        (fun s u => (s.bump P.linkRetxCnt p.val top32).enqueue p.val u.frame))))) ∧
  (∀ (s : State) (src : Byte) (m : Reasm),
      (Smap.get (fun _ => none) s.host.linkIn src.toNat = some m) →
      s.awake = true →
      expired m.stamp (msTicks 1) s.epoch = true →
      exec (.mboxSegTimeout src) s = .next (State.settle ({ s with host := { s.host with linkIn := Smap.set (fun _ => none) s.host.linkIn src.toNat none } }))) ∧
  (∀ (s : State) (e : EnumSt),
      s.link.enum = some e →
      s.awake = true →
      e.joined = false →
      expired e.start (msTicks 2) s.epoch = true →
      exec (.enumCollectEnd) s = .next (State.settle (s.enumJoin e))) ∧
  (∀ (s : State) (d : Fin 4) (t : Nat) (l : List Nat),
      (s.drv d.val).start.gangWait = some (t, l) →
      s.awake = true →
      expired t (msTicks 1) s.epoch = true →
      exec (.gangAckTimeout d) s = .next (State.settle (((s.endStart d.val St.badState 0 0).toStopped d.val).gangStop d.val))) ∧
  (∀ (s : State) (d : Fin 4) (r : Run),
      (s.drv d.val).foc.run = some r →
      s.pwr.mode = .full →
      s.role d.val = 2 →
      r.ready = false →
      expired r.boundary (s.reg P.linkWait d.val) s.epoch = true →
      ((s.members d.val).filter (fun v => !s.reportIn v d.val) = []) →
      exec (.reportWaitExpiry d) s = .next (State.settle (s.homeReady d.val (r.boundary + s.reg P.linkWait d.val)))) ∧
  (∀ (s : State) (d : Fin 4) (r : Run),
      let l := (s.members d.val).filter (fun v => !s.reportIn v d.val)
      (s.drv d.val).foc.run = some r →
      s.pwr.mode = .full →
      s.role d.val = 2 →
      r.ready = false →
      expired r.boundary (s.reg P.linkWait d.val) s.epoch = true →
      l ≠ [] →
      exec (.reportWaitExpiry d) s = .next (State.settle ((let t := (s.homeReady d.val (r.boundary + s.reg P.linkWait d.val)).bumpBy P.linkRepLate d.val top32 l.length
      let n := Smap.get (fun _ => 0) t.link.lateRun d.val + 1
      let u := { t with link := { t.link with lateRun := Smap.set (fun _ => 0) t.link.lateRun d.val (if n = t.reg P.linkLateMax 0 then 0 else n) } }
      if n = t.reg P.linkLateMax 0 then u.report K.linkLate d.val u.epoch else u)))) ∧
  (∀ (s : State) (f : Frame) (e : EnumSt),
      s.awake = true →
      s.portState f.port.val ≠ portOff →
      s.injectFrame f.port.val = none →
      s.portTakes 0x41 f = true →
      (s.linkAuth = true → bit f.flags.toNat 0 = true) →
      s.isRoot = true →
      s.link.enum = some e →
      e.joined = false →
      (e.replies.any (fun r => r.uid == fld f 0 8) = false) →
      exec (.enumReply f) s = .next (State.settle ((let r : EnumReply := { uid := fld f 0 8, epoch := fld f 8 8 + s.reg P.linkDly f.port.val / 32, up := fld f 17 1, hops := fld f 18 1, busy := fld f 19 1 != 0, peers := [fld f 20 8, fld f 28 8, fld f 36 8], at_ := s.epoch }
      { s with link := { s.link with enum := some { e with replies := e.replies ++ [r] } } })))) ∧
  (∀ (s : State) (f : Frame) (a b up : Nat),
      s.awake = true →
      s.portState f.port.val ≠ portOff →
      s.injectFrame f.port.val = none →
      s.portTakes 0x41 f = true →
      (s.linkAuth = true → bit f.flags.toNat 0 = true) →
      s.isRoot = false →
      s.link.enumSeen = some (a, b, up) →
      up ≠ f.port.val →
      exec (.enumReply f) s = .next (State.settle (s.enqueue up (forwarded 0x41 f))))

/-- A received frame of each type that passes reception (its port takes it, it is authentic, for this device and, in class 3, new) answers a next state: it is forwarded, acknowledged and marked as R444, R447 and R448 say, and then handled as its type's rule says; TROUBLE writes event 0x5B10 with the source ID and the entry. -/
def Obligations.LinkFramesAreHandled : Prop :=
  (∀ (s : State) (f : Frame),
      s.takesFrame 0x02 f = true →
      exec (.dlyReq f) s = .next (State.settle ((s.arrived 0x02 f).onDlyReq f))) ∧
  (∀ (s : State) (f : Frame),
      s.takesFrame 0x03 f = true →
      exec (.dlyResp f) s = .next (State.settle ((s.arrived 0x03 f).onDlyResp f))) ∧
  (∀ (s : State) (f : Frame),
      s.takesFrame 0x01 f = true →
      exec (.sync f) s = .next (State.settle ((s.arrived 0x01 f).onSync f))) ∧
  (∀ (s : State) (f : Frame),
      s.takesFrame 0x04 f = true →
      exec (.heal f) s = .next (State.settle ((s.arrived 0x04 f).onHeal f))) ∧
  (∀ (s : State) (f : Frame),
      s.takesFrame 0x32 f = true →
      exec (.ack f) s = .next (State.settle ((s.arrived 0x32 f).onAck f))) ∧
  (∀ (s : State) (f : Frame),
      s.takesFrame 0x30 f = true →
      exec (.mbox f) s = .next (State.settle ((s.arrived 0x30 f).onMbox f))) ∧
  (∀ (s : State) (f : Frame),
      s.takesFrame 0x20 f = true →
      exec (.ha f) s = .next (State.settle ((s.arrived 0x20 f).onHa f))) ∧
  (∀ (s : State) (f : Frame),
      s.takesFrame 0x40 f = true →
      exec (.enum f) s = .next (State.settle ((s.arrived 0x40 f).onEnum f))) ∧
  (∀ (s : State) (f : Frame),
      s.takesFrame 0x42 f = true →
      exec (.join f) s = .next (State.settle ((s.arrived 0x42 f).onJoin f))) ∧
  (∀ (s : State) (f : Frame),
      s.takesFrame 0x43 f = true →
      exec (.gang f) s = .next (State.settle ((s.arrived 0x43 f).onGang f))) ∧
  (∀ (s : State) (f : Frame),
      s.takesFrame 0x44 f = true →
      exec (.gangAck f) s = .next (State.settle ((s.arrived 0x44 f).onGangAck f))) ∧
  (∀ (s : State) (f : Frame),
      s.takesFrame 0x10 f = true →
      exec (.report f) s = .next (State.settle ((s.arrived 0x10 f).onReport f))) ∧
  (∀ (s : State) (f : Frame),
      s.takesFrame 0x11 f = true →
      exec (.duty f) s = .next (State.settle ((s.arrived 0x11 f).onDuty f))) ∧
  (∀ (s : State) (f : Frame),
      s.takesFrame 0x31 f = true →
      exec (.trouble f) s = .next (State.settle ((let t := s.arrived 0x31 f
      t.event .other 0x5B10 0 0 t.epoch (leBytes 1 f.src.toNat ++ f.payload.take 32)))))

/-- With command c at the front of the queue, step is exec of c on the state with the rest of the queue; an answer of exec is the answer of step. -/
def Obligations.StepRunsTheFrontCommand : Prop :=
  ∀ (s : State) (c : Instr) (rest : List Instr), s.pending = c :: rest →
    step s = exec c { s with pending := rest }

/-- With an empty queue, step answers the state after one tick (the model's choice, assumption log 8); while the device boots or is in a reset the tick advances the epoch by one and leaves every register, the ring pool and the byte memory as they are, and an unpowered device keeps its epoch. -/
def Obligations.StepOnAnEmptyQueueIsATick : Prop :=
  (∀ s : State, s.pending = [] → step s = .next s.tick) ∧
  (∀ s : State, s.pending = [] → s.pwr.mode = .boot ∨ s.pwr.mode = .reset →
    ∃ t, step s = .next t ∧ t.epoch = s.epoch + 1 ∧ t.r = s.r ∧ t.pool = s.pool ∧ t.mem = s.mem) ∧
  (∀ s : State, s.pending = [] → s.pwr.mode = .unpowered →
    ∃ t, step s = .next t ∧ t.epoch = s.epoch ∧ t.r = s.r ∧ t.pool = s.pool ∧ t.mem = s.mem)

/-- From every state a step, be it a command or a tick, answers a next state, never a fault or a refusal, and in that state nIRQ is asserted exactly while (IRQ_PEND AND IRQ_EN) or (GSTAT AND IRQ_GEN) is non-zero, but for the hold-off after a release. -/
def Obligations.EveryStepAnswersAndKeepsNirqHonest : Prop :=
  ∀ s : State, ∃ t, step s = .next t ∧ t.irqHonest

/-- After reset the queue is empty, the epoch is 0, the memories hold nothing, memory is in its canonical form, nIRQ is honest, and of rings 0 to 31 exactly rings 0, 1, 6, 7 and 16 are enabled, with the bases and sizes of R84. That the state stands in HALF after a first boot with its BOOT_DONE taken is the model's choice (assumption log 1). -/
def Obligations.ResetState : Prop :=
  State.reset.pending = [] ∧ State.reset.epoch = 0 ∧ State.reset.pool = [] ∧ State.reset.mem = [] ∧
  State.reset.memOk ∧ State.reset.irqHonest ∧ State.reset.awake = true ∧
  (∀ r : Fin 32, State.reset.ringOn r.val = [0, 1, 6, 7, 16].contains r.val) ∧
  [0, 1, 6, 7, 16].map (fun r => (cfgBase (State.reset.ringCfg r), State.reset.ringEntries r, State.reset.ringEsize r,
      cfgDir (State.reset.ringCfg r))) =
    [(0x00000, 64, 64, false), (0x01000, 64, 64, true), (0x02000, 16, 64, false), (0x02400, 16, 64, true),
     (0x04000, 256, 32, true)]

/-- Over the ASCII string 123456789 the CRC-16 of SPI frames is 0x29B1 and the CRC-32C of messages is 0xE3069283. -/
def Obligations.CheckValues : Prop :=
  crc16 [0x31#8, 0x32#8, 0x33#8, 0x34#8, 0x35#8, 0x36#8, 0x37#8, 0x38#8, 0x39#8] = 0x29B1 ∧
  crc32C [0x31#8, 0x32#8, 0x33#8, 0x34#8, 0x35#8, 0x36#8, 0x37#8, 0x38#8, 0x39#8] = 0xE3069283

/-- A read of the low word of a 64-bit value copies the high word of the same tick into the interface's snapshot and marks it fresh. The high word then read is the snapshot where the address matches, which is marked used, or where it was used already STALE_HI is set; where the address differs it is the live high word, and STALE_HI is set. No read changes the snapshot of another interface. -/
def Obligations.SixtyFourBitValuesReadWhole : Prop :=
  (∀ (s : State) (i : Iface) (id : Half) (inst : Byte) (row : ParamRow), s.serving = true →
    directRow id.toNat inst.toNat = some row → paramSize row = 8 →
    ∃ t, exec (.lowWordRead i id inst) s = .next t ∧
      (Smap.get (fun _ => 0) t.host.rdata (ifaceNo i) = (s.readParam (ifaceNo i) row inst.toNat).2 % 2 ^ 32) ∧
      (t.snap (ifaceNo i)).addr = some (snapAddr row.id inst.toNat) ∧
      (t.snap (ifaceNo i)).hi = (s.readParam (ifaceNo i) row inst.toNat).2 / 2 ^ 32 ∧
      (t.snap (ifaceNo i)).fresh = true ∧ ∀ k, k ≠ ifaceNo i → t.snap k = s.snap k) ∧
  (∀ (s : State) (i : Iface) (id : Half) (inst : Byte) (row : ParamRow), s.serving = true →
    directRow id.toNat inst.toNat = some row → paramSize row = 8 →
    (s.snap (ifaceNo i)).addr = some (snapAddr row.id inst.toNat) → (s.snap (ifaceNo i)).fresh = true →
    ∃ t, exec (.highWordRead i id inst) s = .next t ∧
      Smap.get (fun _ => 0) t.host.rdata (ifaceNo i) = (s.snap (ifaceNo i)).hi ∧
      t.snap (ifaceNo i) = { s.snap (ifaceNo i) with fresh := false } ∧ t.r = s.r ∧
      ∀ k, k ≠ ifaceNo i → t.snap k = s.snap k) ∧
  (∀ (s : State) (i : Iface) (id : Half) (inst : Byte) (row : ParamRow), s.serving = true →
    directRow id.toNat inst.toNat = some row → paramSize row = 8 →
    (s.snap (ifaceNo i)).addr = some (snapAddr row.id inst.toNat) → (s.snap (ifaceNo i)).fresh = false →
    ∃ t, exec (.highWordRead i id inst) s = .next t ∧
      Smap.get (fun _ => 0) t.host.rdata (ifaceNo i) = (s.snap (ifaceNo i)).hi ∧
      t.reg P.timeSnapStat (ifaceNo i) = putBit (s.reg P.timeSnapStat (ifaceNo i)) 0 true ∧
      ∀ k, t.snap k = s.snap k) ∧
  (∀ (s : State) (i : Iface) (id : Half) (inst : Byte) (row : ParamRow), s.serving = true →
    directRow id.toNat inst.toNat = some row → paramSize row = 8 →
    (s.snap (ifaceNo i)).addr ≠ some (snapAddr row.id inst.toNat) →
    ∃ t, exec (.highWordRead i id inst) s = .next t ∧
      Smap.get (fun _ => 0) t.host.rdata (ifaceNo i) = (s.readParam (ifaceNo i) row inst.toNat).2 / 2 ^ 32 ∧
      bit (t.reg P.timeSnapStat (ifaceNo i)) 0 = true ∧
      ∀ k, t.snap k = s.snap k)

/-- A write of the low word of a writable 64-bit value is held and changes nothing else; a following write of its high word writes both words on one tick; without a held low word the high word is written over the live low word and STALE_LO is set. -/
def Obligations.SixtyFourBitValuesAreWrittenWhole : Prop :=
  (∀ (s : State) (i : Iface) (id : Half) (inst : Byte) (row : ParamRow) (v : Word),
    directRow id.toNat inst.toNat = some row → s.wordWritable row inst.toNat = true →
    exec (.lowWordWrite i id inst v) s = .next (State.settle (s.setSnap (ifaceNo i)
      { s.snap (ifaceNo i) with heldAddr := some (snapAddr id.toNat inst.toNat), heldLow := v.toNat }))) ∧
  (∀ (s : State) (i : Iface) (id : Half) (inst : Byte) (row : ParamRow) (v : Word),
    directRow id.toNat inst.toNat = some row → s.wordWritable row inst.toNat = true →
    (s.snap (ifaceNo i)).heldAddr = some (snapAddr id.toNat inst.toNat) →
    exec (.highWordWrite i id inst v) s = .next (State.settle ((s.setSnap (ifaceNo i)
      { s.snap (ifaceNo i) with heldAddr := none, heldLow := 0 }).directWrite (ifaceNo i) row inst.toNat
        ((s.snap (ifaceNo i)).heldLow + v.toNat * 2 ^ 32)))) ∧
  (∀ (s : State) (i : Iface) (id : Half) (inst : Byte) (row : ParamRow) (v : Word),
    directRow id.toNat inst.toNat = some row → s.wordWritable row inst.toNat = true →
    (s.snap (ifaceNo i)).heldAddr ≠ some (snapAddr id.toNat inst.toNat) →
    exec (.highWordWrite i id inst v) s = .next (State.settle ((s.setBit P.timeSnapStat (ifaceNo i) 1 true).directWrite
      (ifaceNo i) row inst.toNat (s.view (ifaceNo i) row.id inst.toNat % 2 ^ 32 + v.toNat * 2 ^ 32))))

/-- A mailbox command with RETRY and the SEQUENCE of the command executed last on its ring, taken while its response ring has room, answers a next state that differs at most in the registers, the ring pool, the host interface, the idle timers and the performance counters: its body does not run. Where the stored response is there, the state is the one in which it has been written once more; where the command still executes, nothing is written. -/
def Obligations.RetryIsNotExecutedAgain : Prop :=
  ∀ (s : State) (op : Nat) (h : Hdr) (pl : List Byte) (i : Instr), mailboxInstr op h pl = some i →
    (ringIface h.ring.val).isSome = true → s.serving = true → (s.recovery && h.ring.val != 0) = false →
    s.hasRoom (h.ring.val + 1) 1004 = true → (s.hear (cmdOf h op s.epoch)).asksAgain (cmdOf h op s.epoch) = true →
    ∃ t, exec i s = .next t ∧ t = { s with r := t.r, pool := t.pool, host := t.host, pwr := t.pwr, perf := t.perf } ∧
      (((s.hear (cmdOf h op s.epoch)).ring h.ring.val).executing = true →
        t = (s.hear (cmdOf h op s.epoch)).settle) ∧
      (∀ o tag inst low rp, ((s.hear (cmdOf h op s.epoch)).ring h.ring.val).executing = false →
        ((s.hear (cmdOf h op s.epoch)).ring h.ring.val).resp = some (o, tag, inst, low, rp) →
        t = ((s.hear (cmdOf h op s.epoch)).writeResponse h.ring.val o tag inst low rp).settle)

/-- A mailbox command with DL_EN whose deadline has passed when it is taken is counted in HOST.LATE_CNT and answered `late`, and its body does not run, and the stored response of its ring stays: the next state differs at most in the registers, the ring pool, the host interface, the idle timers and the performance counters. -/
def Obligations.LateCommandsAreRefused : Prop :=
  ∀ (s : State) (op : Nat) (h : Hdr) (pl : List Byte) (i : Instr), mailboxInstr op h pl = some i →
    (ringIface h.ring.val).isSome = true → s.serving = true → (s.recovery && h.ring.val != 0) = false →
    s.hasRoom (h.ring.val + 1) 1004 = true → (s.hear (cmdOf h op s.epoch)).asksAgain (cmdOf h op s.epoch) = false →
    tooLate (cmdOf h op s.epoch) h.deadline.toNat = true →
    let u := (s.hear (cmdOf h op s.epoch)).noteSeq (cmdOf h op s.epoch)
    ∃ t, exec i s = .next t ∧ t = { s with r := t.r, pool := t.pool, host := t.host, pwr := t.pwr, perf := t.perf } ∧
      t = ((u.bump P.hostLateCnt 0 top32).writeResponse h.ring.val op h.tag.toNat h.inst.toNat (s.epoch % 2 ^ 32)
        (leBytes 2 St.late ++ leBytes 2 0xFFFF)).settle ∧
      ∀ r, (t.ring r).resp = (u.ring r).resp

/-- Where the entries at TAIL of a command ring that the device serves and whose turn it is hold the message of an opcode of R96 with a header and a payload of up to 1,004 bytes, and HEAD covers all its entries, MAILBOX_MESSAGE_TAKEN is that command, run on the state in which the entries are consumed. -/
def Obligations.MailboxRunsTheSpelledCommand : Prop :=
  ∀ (s : State) (op : Nat) (h : Hdr) (pl : List Byte) (i : Instr), mailboxInstr op h pl = some i →
    s.takesFrom h.ring.val = true → s.inTurn h.ring.val = true → s.hasRoom (h.ring.val + 1) 1004 = true → pl.length ≤ 1004 →
    s.entriesFor h.ring.val pl.length ≤ s.ringFilled h.ring.val →
    (s.readEntries h.ring.val (s.ringTail h.ring.val) (s.entriesFor h.ring.val pl.length)).take (20 + pl.length) =
      messageBytes op h.tag.toNat h.inst.toNat h.flags.toNat h.deadline.toNat h.seq.toNat pl →
    exec (.mailboxMessageTaken h.ring) s = exec i ((s.takeTurn h.ring.val).consumeMsg h.ring.val (s.entriesFor h.ring.val pl.length))

/-- A doorbell write whose new index is out of step with its ring, or that addresses a disabled ring or a ring in 32 to 63, moves neither index: the write is counted in HOST.DB_ERR, and RING_CFG.ERR and GSTAT.DB_ERR are set. Nothing but registers and the host interface changes. -/
def Obligations.DoorbellOutOfStepIsIgnored : Prop :=
  ∀ (s : State) (r : Fin 64) (v : Half), s.awake = true →
    (31 < r.val ∨ s.ringOn r.val = false ∨
      (cfgDir (s.ringCfg r.val) = true ∧ s.ringFilled r.val < (v.toNat + 2 ^ 16 - s.ringTail r.val) % 2 ^ 16) ∨
      (cfgDir (s.ringCfg r.val) = false ∧ s.ringFree r.val < (v.toNat + 2 ^ 16 - s.ringHead r.val) % 2 ^ 16)) →
    ∃ t, exec (.doorbellWrite r v) s = .next t ∧ t = { s with r := t.r, host := t.host } ∧
      t.reg P.hostRingIdx r.val = s.reg P.hostRingIdx r.val ∧
      t.reg P.hostDbErr 0 = satInc top32 (s.reg P.hostDbErr 0) ∧
      t.reg P.hostRingCfg r.val = putBit (s.reg P.hostRingCfg r.val) 30 true ∧
      t.reg P.hostGstat 0 = putBit (s.reg P.hostGstat 0) 7 true

/-- A doorbell write in step moves HEAD of an enabled to_device ring in 0 to 31, or TAIL of a to_host one, to the value written, leaves the other index, stamps the movement, and leaves every other ring's indices alone; a ring that held at most as many entries as it has still does. Where the room that a to_host ring gains lets responses that wait be written, they are written then (R91); with none waiting, nothing else happens. -/
def Obligations.DoorbellInStepMovesItsIndex : Prop :=
  ∀ (s : State) (r : Fin 64) (v : Half), s.awake = true → r.val ≤ 31 → s.ringOn r.val = true →
    s.ringFilled r.val ≤ s.ringEntries r.val →
    (cfgDir (s.ringCfg r.val) = true → (v.toNat + 2 ^ 16 - s.ringTail r.val) % 2 ^ 16 ≤ s.ringFilled r.val) →
    (cfgDir (s.ringCfg r.val) = false → (v.toNat + 2 ^ 16 - s.ringHead r.val) % 2 ^ 16 ≤ s.ringFree r.val) →
    ∃ t, exec (.doorbellWrite r v) s = .next (State.settle (if cfgDir (s.ringCfg r.val) then t.flushResponses else t)) ∧
      (t.host.respQ = [] → t.flushResponses = t) ∧ t = { s with r := t.r, host := t.host } ∧
      t.ringHead r.val = (if cfgDir (s.ringCfg r.val) then s.ringHead r.val else v.toNat) ∧
      t.ringTail r.val = (if cfgDir (s.ringCfg r.val) then v.toNat else s.ringTail r.val) ∧
      t.reg P.hostRingStamp r.val = s.epoch ∧ t.ringFilled r.val ≤ t.ringEntries r.val ∧
      ∀ id i, i < 256 → id ≠ P.hostRingIdx ∧ id ≠ P.hostRingStamp ∨ i ≠ r.val → t.reg id i = s.reg id i

/-- A mailbox command that nothing refuses, and that clears or commits on a tick at whose end the last conversion of a housekeeping round completes (or follows a command that waits), answers a next state in which it is kept with its payload, and nothing else happens; at the end of the tick, after the round, a command that waits alone runs its body and is answered, busy where the same command still runs. -/
def Obligations.CommandsOfARoundsEndWait : Prop :=
  (∀ (s : State) (op : Nat) (h : Hdr) (pl : List Byte) (i : Instr), mailboxInstr op h pl = some i → s.admits h op = true →
    (s.bodyState h op).waitsForRound (cmdOf h op s.epoch) = true →
    exec i s = .next (State.settle { s.bodyState h op with
      host := { (s.bodyState h op).host with atEnd := (s.bodyState h op).host.atEnd ++ [(cmdOf h op s.epoch, pl)] } })) ∧
  (∀ (s : State) (c : Cmd) (pl : List Byte) (takes deferred : Bool), s.host.atEnd = [(c, pl)] → opcodeInfo c.opcode = some (takes, deferred) →
    let u : State := { s with host := { s.host with atEnd := [] } }
    s.serveAll = if (deferred && u.isRunning c.opcode c.inst) = true then u.respond c St.busy 0xFFFF []
      else (bodyOf c.opcode u c pl).1.reply c (bodyOf c.opcode u c pl).2)

/-- A class 3 frame for this device whose SEQ is one of those already accepted of its type from its source, on a link without authentication, has no effect of its own: it is forwarded where its destination asks for it, acknowledged where it asks for an ACK, and nothing but the link and nIRQ changes. -/
def Obligations.DuplicateFramesAreDiscarded : Prop :=
  ∀ (s : State) (t : Nat) (f : Frame) (i : Instr), class3Instr t f = some i → s.duplicate t f = true →
    ∃ u, exec i s = .next u ∧ u = ((s.forwardFrame t f).ackFrame t f).settle ∧
      u = { s with link := u.link, host := { s.host with nirq := u.host.nirq, nirqOff := u.host.nirqOff } }

/-- In provision a write of a word of slots 2 to 4 that has not been written stores it; a write of a word of slots 0 and 1, of a word written before, or of any word in field changes nothing. SEC_LOCK with slots 2 and 3 full enters field and locks debug; with either incomplete, or in field, it changes nothing. That a second write of a key word is refused is the model's reading (assumption log 27). -/
def Obligations.KeysAreWrittenOnce : Prop :=
  (∀ (s : State) (e : Byte) (v : DWord), s.serving = true → s.inField = false → 16 ≤ e.toNat → e.toNat < 34 →
    Smap.get (fun _ => none) s.keys e.toNat = none →
    exec (.keyWr e v) s = .next (State.settle { s with keys := Smap.set (fun _ => none) s.keys e.toNat (some v.toNat) })) ∧
  (∀ (s : State) (e : Byte) (v : DWord),
    s.inField = true ∨ e.toNat < 16 ∨ 34 ≤ e.toNat ∨ (Smap.get (fun _ => none) s.keys e.toNat).isSome = true →
    exec (.keyWr e v) s = .next s.settle) ∧
  (∀ s : State, s.serving = true → s.inField = false → s.slotFull 2 = true → s.slotFull 3 = true →
    exec .secLock s = .next (State.settle (s.setReg P.secStat 0 (putBits (s.reg P.secStat 0 ||| 1) 4 2 0)))) ∧
  (∀ s : State, s.inField = true ∨ s.slotFull 2 = false ∨ s.slotFull 3 = false → exec .secLock s = .next s.settle)

/-- A CAN frame from a device (DIR = 1), for another node, of KIND event, with a reserved identifier bit set, a remote frame or one that is not FD changes nothing, and no counter counts it. -/
def Obligations.CanFramesOfOthersAreIgnored : Prop :=
  ∀ (s : State) (fr : CanFrame),
    bit fr.ident.toNat 25 = true ∨ bits fr.ident.toNat 17 8 ≠ s.reg P.hostCanNode 0 ∨ bit fr.ident.toNat 16 = true ∨
      bits fr.ident.toNat 0 16 ≠ 0 ∨ fr.fd = false ∨ fr.remote = true →
    exec (.canFrameReceived fr) s = .next s.settle

/-- While a record of class A has CAUSE = 1, or one whose class is in FLT.HEALTH_MASK or whose kind's FLT.REACT has HEALTH = 1, and while the device is not in HALF or FULL, the HEALTH pin is low; it is high in HALF and FULL outside recovery where no record has CAUSE = 1. -/
def Obligations.HealthFollowsTheFaults : Prop :=
  (∀ (s : State) (sel : Nat), (s.frec sel).cause = true →
    selClass sel = .a ∨ bit (s.reg P.fltHealthMask 0) (selClass sel).code = true ∨ bit (s.reg P.fltReact (sel / 256)) 5 = true →
    s.health = false) ∧
  (∀ s : State, s.awake = false → s.health = false) ∧
  (∀ s : State, s.awake = true → s.recovery = false → (∀ p ∈ s.flt.recs, p.2.cause = false) → s.health = true)

/-- A direct write of HOST.IRQ_PEND by an interface clears exactly the bits written as 1 that were not set on the same tick: every other bit keeps its value, and of the registers only HOST.IRQ_PEND changes. -/
def Obligations.FlagsSetOnTheTickOfAClearStay : Prop :=
  ∀ (s : State) (i : Iface) (v : DWord), s.serving = true →
    ∃ t, exec (.registerWrite i (BitVec.ofNat 16 P.hostIrqPend) 0 v) s = .next t ∧
      (∀ n, bit (t.reg P.hostIrqPend 0) n = (bit (s.reg P.hostIrqPend 0) n &&
        (!(bit v.toNat n) || (decide (s.host.setAt = s.epoch) && bit s.host.setPend n)))) ∧
      (∀ id j, j < 256 → id ≠ P.hostIrqPend → t.reg id j = s.reg id j) ∧ t = { s with r := t.r, host := t.host }

/-- An SPI write frame whose CRC fails is counted in HOST.SPI_CRC_ERR and answered 0xC3, 0x3C; one whose address is refused is counted in HOST.SPI_FRAME_ERR and answered 0x3C, 0xC3; one that ends early is counted in HOST.SPI_FRAME_ERR. Each sets GSTAT.SPI_ERR; no other register, no memory and no other part of the device outside the host interface changes. -/
def Obligations.RefusedSpiWritesChangeNothing : Prop :=
  (∀ (s : State) (sdi : List Byte), s.spiUp = true → fieldAt sdi 0 1 = 0x02 → 4 ≤ sdi.length →
    4 * fieldAt sdi 3 1 + 12 ≤ sdi.length →
    (sdi.drop (4 * fieldAt sdi 3 1 + 8)).take 2 ≠ spiCrc (sdi.take (4 * fieldAt sdi 3 1 + 8)) →
    ∃ t, exec (.spiWriteFrame sdi) s = .next t ∧ t = { s with r := t.r, host := t.host } ∧
      t.reg P.hostSpiCrcErr 0 = satInc top32 (s.reg P.hostSpiCrcErr 0) ∧
      t.reg P.hostGstat 0 = putBit (s.reg P.hostGstat 0) 6 true ∧
      (∀ id i, i < 256 → id ≠ P.hostSpiCrcErr → id ≠ P.hostGstat → t.reg id i = s.reg id i) ∧
      (t.host.sdo.drop (4 * fieldAt sdi 3 1 + 10)).take 2 = [0xC3#8, 0x3C#8]) ∧
  (∀ (s : State) (sdi : List Byte), s.spiUp = true → fieldAt sdi 0 1 = 0x02 → 4 ≤ sdi.length →
    4 * fieldAt sdi 3 1 + 12 ≤ sdi.length →
    (sdi.drop (4 * fieldAt sdi 3 1 + 8)).take 2 = spiCrc (sdi.take (4 * fieldAt sdi 3 1 + 8)) →
    spiAddrOk (fieldAt sdi 1 1 * 256 + fieldAt sdi 2 1) (fieldAt sdi 3 1 + 1) = false →
    ∃ t, exec (.spiWriteFrame sdi) s = .next t ∧ t = { s with r := t.r, host := t.host } ∧
      t.reg P.hostSpiFrameErr 0 = satInc top32 (s.reg P.hostSpiFrameErr 0) ∧
      t.reg P.hostGstat 0 = putBit (s.reg P.hostGstat 0) 6 true ∧
      (∀ id i, i < 256 → id ≠ P.hostSpiFrameErr → id ≠ P.hostGstat → t.reg id i = s.reg id i) ∧
      (t.host.sdo.drop (4 * fieldAt sdi 3 1 + 10)).take 2 = [0x3C#8, 0xC3#8]) ∧
  (∀ (s : State) (sdi : List Byte), s.spiUp = true → fieldAt sdi 0 1 = 0x02 → 4 ≤ sdi.length →
    sdi.length < 4 * fieldAt sdi 3 1 + 12 →
    ∃ t, exec (.spiWriteFrame sdi) s = .next t ∧ t = { s with r := t.r, host := t.host } ∧
      t.reg P.hostSpiFrameErr 0 = satInc top32 (s.reg P.hostSpiFrameErr 0) ∧
      t.reg P.hostGstat 0 = putBit (s.reg P.hostGstat 0) 6 true ∧
      (∀ id i, i < 256 → id ≠ P.hostSpiFrameErr → id ≠ P.hostGstat → t.reg id i = s.reg id i))

/-- An SPI write frame whose CRC passes and whose address, a multiple of 4, lies in the aperture from 0x8000 up and fits it writes its data to the ring pool at the aperture's page; every other byte of the pool, the byte memory and every register stay, nothing else outside the host interface changes, and the write status is 0x5A, 0xA5. -/
def Obligations.SpiWritesReachTheAperture : Prop :=
  ∀ (s : State) (sdi : List Byte), s.spiUp = true → fieldAt sdi 0 1 = 0x02 → 4 * fieldAt sdi 3 1 + 12 ≤ sdi.length →
    (sdi.drop (4 * fieldAt sdi 3 1 + 8)).take 2 = spiCrc (sdi.take (4 * fieldAt sdi 3 1 + 8)) →
    spiAddrOk (fieldAt sdi 1 1 * 256 + fieldAt sdi 2 1) (fieldAt sdi 3 1 + 1) = true → 0x8000 ≤ fieldAt sdi 1 1 * 256 + fieldAt sdi 2 1 →
    ∃ t, exec (.spiWriteFrame sdi) s = .next t ∧
      t.pool.readBytes (s.poolAddr (fieldAt sdi 1 1 * 256 + fieldAt sdi 2 1)) (4 * fieldAt sdi 3 1 + 4) = (sdi.drop 4).take (4 * fieldAt sdi 3 1 + 4) ∧
      (∀ a, a < s.poolAddr (fieldAt sdi 1 1 * 256 + fieldAt sdi 2 1) ∨ s.poolAddr (fieldAt sdi 1 1 * 256 + fieldAt sdi 2 1) + 4 * fieldAt sdi 3 1 + 4 ≤ a →
        t.pool.read a = s.pool.read a) ∧
      t = { s with pool := t.pool, host := t.host } ∧
      (t.host.sdo.drop (4 * fieldAt sdi 3 1 + 10)).take 2 = [0x5A#8, 0xA5#8]

/-- A served TXN_COMMIT of an open transaction whose validation fails answers the status of the failed check, with INDEX the staging position of the named pair or 0xFFFF and the named ID and INST as data; the transaction stays open with all its pairs, no pair is applied or waits, and no register but the interface's own, TXN.FAIL_CNT and the ERR bit of a refused ring descriptor changes. -/
def Obligations.FailedCommitAppliesNothing : Prop :=
  ∀ (s : State) (h : Hdr) (pl : List Byte) (v : Viol),
    s.serves h 0x0502 = true →
    let c := cmdOf h 0x0502 s.epoch
    let u := s.bodyState h 0x0502
    pl.length = 1 → (u.txnOf c.iface).isOpen = true → (bit (fieldAt pl 0 1) 0 = false ∨ u.txn.saving = none) →
    u.validate (u.txnOf c.iface).pairs = some v → v.inst < 256 →
    ∃ t, exec (.txnCommit h pl) s = .next t ∧
      t = (((u.commitFails v).restartIdle c.iface).reply c
        (.now v.status (stagedAt (u.txnOf c.iface).pairs v) (leBytes 2 v.id ++ leBytes 1 v.inst ++ zeros 1))).settle ∧
      (t.txnOf c.iface).isOpen = true ∧ (t.txnOf c.iface).pairs = (u.txnOf c.iface).pairs ∧
      (∀ k, k ≠ c.iface → t.txnOf k = u.txnOf k) ∧ t.txn.waiting = u.txn.waiting ∧ t.txn.commits = u.txn.commits ∧
      t = { u with r := t.r, pool := t.pool, host := t.host, txn := t.txn } ∧
      (∀ id i, i < 256 → id ∉ hostOwn → id ≠ P.txnFailCnt → id ≠ P.hostRingCfg → t.reg id i = u.reg id i)

/-- A served FW_CHUNK of the interface and target of an open update, with 1 to 992 data bytes whose OFFSET is the number of bytes received so far and which does not pass TOTAL, writes its data at that offset of the target and no other byte of memory, adds its length to the bytes received, and changes no register but the interface's own. A chunk with another OFFSET, or past TOTAL, is refused with `range` and writes nothing. -/
def Obligations.FwChunksWriteTheirBytes : Prop :=
  (∀ (s : State) (h : Hdr) (pl : List Byte) (f : FwUpdate), s.serves h 0x1C02 = true →
    let c := cmdOf h 0x1C02 s.epoch
    let u := s.bodyState h 0x1C02
    h.inst.toNat ≤ 3 → 5 ≤ pl.length → pl.length ≤ 996 → u.sec.fw = some f → f.iface = c.iface → f.target = h.inst.toNat →
    f.finish = none → fieldAt pl 0 4 = f.got → f.got + (pl.length - 4) ≤ f.total →
    ∃ t, exec (.fwChunk h pl) s = .next t ∧
      t.mem.readBytes (targetBase f.target + f.got) (pl.length - 4) = pl.drop 4 ∧
      (∀ a, a < targetBase f.target + f.got ∨ targetBase f.target + f.got + (pl.length - 4) ≤ a → t.mem.read a = s.mem.read a) ∧
      t.sec.fw = some { f with got := f.got + (pl.length - 4), last := u.epoch } ∧
      (∀ id i, i < 256 → id ∉ hostOwn → t.reg id i = s.reg id i)) ∧
  (∀ (s : State) (h : Hdr) (pl : List Byte) (f : FwUpdate), s.serves h 0x1C02 = true →
    let c := cmdOf h 0x1C02 s.epoch
    let u := s.bodyState h 0x1C02
    h.inst.toNat ≤ 3 → 5 ≤ pl.length → pl.length ≤ 996 → u.sec.fw = some f → f.iface = c.iface → f.target = h.inst.toNat →
    f.finish = none → (fieldAt pl 0 4 ≠ f.got ∨ f.total < f.got + (pl.length - 4)) →
    ∃ t, exec (.fwChunk h pl) s = .next t ∧ t = (u.reply c (.now St.range 0xFFFF [])).settle ∧
      t.mem = s.mem ∧ t.sec = s.sec)

/-- A served ENG_SWAP of a drive with ROLE local or home that takes its pairs at once, outside a transaction and with no swap pending, changes ACTIVE of that drive on the tick it is taken: every banked parameter then reads what the inactive bank held, with COPY the new inactive bank holds those values too, and every register of another drive or that is not banked keeps its value. -/
def Obligations.SwapsExchangeTheBanks : Prop :=
  ∀ (s : State) (h : Hdr) (pl : List Byte), s.serves h 0x1501 = true →
    let c := cmdOf h 0x1501 s.epoch
    let u := s.bodyState h 0x1501
    let d := h.inst.toNat
    d ≤ 3 → pl.length = 1 → (u.txnOf c.iface).isOpen = false → u.computes d = true → u.swapPending d = false →
    u.takesLater d = false →
    ∃ t, exec (.engSwap h pl) s = .next t ∧
      t.reg P.engBank d = 1 - u.reg P.engBank d % 2 ∧
      t = ((u.swapBanks d (bit (fieldAt pl 0 1) 0)).reply c (.ok (leBytes 8 u.epoch ++ leBytes 1 (1 - u.reg P.engBank d % 2)))).settle ∧
      (∀ id, isBanked id = true → t.reg id d = u.r.getInactive id d) ∧
      (bit (fieldAt pl 0 1) 0 = true → ∀ id, isBanked id = true →
        (u.swapBanks d true).r.getInactive id d = u.r.getInactive id d) ∧
      (∀ id i, i < 256 → id ∉ hostOwn → id ≠ P.engBank → (isBanked id = false ∨ i ≠ d) → t.reg id i = s.reg id i)

/-- When STOA or STOB of a driver die goes low in HALF or FULL, every generator of the die whose interlock group holds it ends the tick with GH and GL off and the STO source latched, whatever its request, its override, a debug freeze or another latched source of forcing says. -/
def Obligations.StoTurnsEveryGateOff : Prop :=
  ∀ (s : State) (j : Fin 2) (stob : Bool), s.awake = true →
    (if stob then (s.die j.val).lowB else (s.die j.val).lowA) = false →
    (∀ g, 6 * j.val ≤ g → g < 6 * j.val + 6 → bit (s.reg P.pwmIlMap g) g = true) →
    ∃ t, exec (.stoActive j stob) s = .next t ∧
      ∀ g, 6 * j.val ≤ g → g < 6 * j.val + 6 →
        (t.gen g).gh = false ∧ (t.gen g).gl = false ∧ bit (t.gen g).fOff 10 = true

/-- Where no generator has GH and GL on together, none has after a compare edge, the end of a dead time, the filtered edge of a trip input or STO. -/
def Obligations.DriveGatesKeepTheirLegs : Prop :=
  (∀ (s : State) (g : Fin 12) (frac : Fin 32), (∀ k, (s.gen k).legSafe) →
    ∃ t, exec (.compareEdge g frac) s = .next t ∧ ∀ k, (t.gen k).legSafe) ∧
  (∀ (s : State) (g : Fin 12), (∀ k, (s.gen k).legSafe) →
    ∃ t, exec (.deadTimeEnd g) s = .next t ∧ ∀ k, (t.gen k).legSafe) ∧
  (∀ (s : State) (n : Fin 8), (∀ k, (s.gen k).legSafe) →
    ∃ t, exec (.tripFilteredEdge n) s = .next t ∧ ∀ k, (t.gen k).legSafe) ∧
  (∀ (s : State) (j : Fin 2) (stob : Bool), (∀ k, (s.gen k).legSafe) →
    ∃ t, exec (.stoActive j stob) s = .next t ∧ ∀ k, (t.gen k).legSafe)

/-- PING and a JOURNAL_READ that consumes nothing change at most the registers that the host interface and the performance counters own, the ring pool, the host interface, the idle timers and the counters. TXN_BEGIN and TXN_ROLLBACK change besides them only the transaction of their interface; INJECT_SET and CAPTURE_ARM only the drive of their instance. This holds in every state, whether the command is executed, refused, late or left waiting. -/
def Obligations.CommandFrames : Prop :=
  (∀ (s : State) (h : Hdr) (pl : List Byte), 
    ∃ t, exec (.ping h pl) s = .next t ∧ t = { s with r := t.r, pool := t.pool, host := t.host, pwr := t.pwr, perf := t.perf } ∧
      (∀ id i, i < 256 → id ∉ hostOwn → id ≠ P.hostLateCnt → id ≠ P.hostRespStall → t.reg id i = s.reg id i)) ∧
  (∀ (s : State) (h : Hdr) (pl : List Byte), bit (fieldAt pl 1 1) 0 = false →
    ∃ t, exec (.journalRead h pl) s = .next t ∧ t = { s with r := t.r, pool := t.pool, host := t.host, pwr := t.pwr, perf := t.perf } ∧
      (∀ id i, i < 256 → id ∉ hostOwn → id ≠ P.hostLateCnt → id ≠ P.hostRespStall → t.reg id i = s.reg id i)) ∧
  (∀ (s : State) (h : Hdr) (pl : List Byte),
    ∃ t, exec (.txnBegin h pl) s = .next t ∧ t = { s with r := t.r, pool := t.pool, host := t.host, pwr := t.pwr, perf := t.perf, txn := { s.txn with txns := t.txn.txns } } ∧
      (∀ k, k ≠ (cmdOf h 0x0501 s.epoch).iface → t.txnOf k = s.txnOf k) ∧
      (∀ id i, i < 256 → id ∉ hostOwn → id ≠ P.hostLateCnt → id ≠ P.hostRespStall → t.reg id i = s.reg id i)) ∧
  (∀ (s : State) (h : Hdr) (pl : List Byte),
    ∃ t, exec (.txnRollback h pl) s = .next t ∧ t = { s with r := t.r, pool := t.pool, host := t.host, pwr := t.pwr, perf := t.perf, txn := { s.txn with txns := t.txn.txns } } ∧
      (∀ k, k ≠ (cmdOf h 0x0503 s.epoch).iface → t.txnOf k = s.txnOf k) ∧
      (∀ id i, i < 256 → id ∉ hostOwn → id ≠ P.hostLateCnt → id ≠ P.hostRespStall → t.reg id i = s.reg id i)) ∧
  (∀ (s : State) (h : Hdr) (pl : List Byte),
    ∃ t, exec (.injectSet h pl) s = .next t ∧ t = { s with r := t.r, pool := t.pool, host := t.host, pwr := t.pwr, perf := t.perf, drives := t.drives } ∧
      (∀ d, d ≠ h.inst.toNat → t.drv d = s.drv d) ∧
      (∀ id i, i < 256 → id ∉ hostOwn → id ≠ P.hostLateCnt → id ≠ P.hostRespStall → t.reg id i = s.reg id i)) ∧
  (∀ (s : State) (h : Hdr) (pl : List Byte),
    ∃ t, exec (.captureArm h pl) s = .next t ∧ t = { s with r := t.r, pool := t.pool, host := t.host, pwr := t.pwr, perf := t.perf, drives := t.drives } ∧
      (∀ d, d ≠ h.inst.toNat → t.drv d = s.drv d) ∧
      (∀ id i, i < 256 → id ∉ hostOwn → id ≠ P.hostLateCnt → id ≠ P.hostRespStall → t.reg id i = s.reg id i))

/-- A served TRIP_CLEAR of an instance from 0 to 7 whose input is sampled active is refused with `cause_active`, counts in PWM.CLEAR_REFUSED of that input and leaves the latch; one of a latch that is not set is `ok` and changes nothing; an instance above 7 is refused with `bad_inst`; a payload is refused with `length`. -/
def Obligations.TripClearAsksItsInput : Prop :=
  (∀ (s : State) (h : Hdr),
      let c := cmdOf h 0x1001 s.epoch
      let u := s.bodyState h 0x1001
      s.serves h 0x1001 = true →
      c.inst ≤ 7 →
      u.tripLevel c.inst = true →
      exec (.tripClear h []) s = .next (State.settle (State.reply (u.bump P.pwmClearRefused c.inst top16) c (.refuse St.causeActive)))) ∧
  (∀ (s : State) (h : Hdr),
      let c := cmdOf h 0x1001 s.epoch
      let u := s.bodyState h 0x1001
      s.serves h 0x1001 = true →
      c.inst ≤ 7 →
      u.tripLevel c.inst = false →
      bit (u.reg P.pwmTripStat 0) c.inst = false →
      exec (.tripClear h []) s = .next (State.settle (State.reply (u) c (.ok [])))) ∧
  (∀ (s : State) (h : Hdr) (pl : List Byte),
      let c := cmdOf h 0x1001 s.epoch
      let u := s.bodyState h 0x1001
      s.serves h 0x1001 = true →
      7 < c.inst →
      exec (.tripClear h pl) s = .next (State.settle (State.reply (u) c (.refuse St.badInst)))) ∧
  (∀ (s : State) (h : Hdr) (pl : List Byte),
      let c := cmdOf h 0x1001 s.epoch
      let u := s.bodyState h 0x1001
      s.serves h 0x1001 = true →
      c.inst ≤ 7 →
      pl.length ≠ 0 →
      exec (.tripClear h pl) s = .next (State.settle (State.reply (u) c (.refuse St.length))))

/-- A served ADC_URGENT of a channel from 0 to 31 is refused with `dropped`, counted in ADC.URG_DROP and changes nothing else while a conversion or a round is under way, or where the conversion would not end before the next round is due; an instance above 31 is refused with `bad_inst`. -/
def Obligations.UrgentConversionsWaitForNobody : Prop :=
  (∀ (s : State) (h : Hdr),
      let c := cmdOf h 0x1101 s.epoch
      let u := s.bodyState h 0x1101
      s.serves h 0x1101 = true →
      c.inst ≤ 31 →
      ((u.hk.conv.isSome = true ∨ u.hk.round = true ∨ u.hk.due ≤ u.epoch + u.hkTicks)) →
      exec (.adcUrgent h []) s = .next (State.settle (State.reply (u.bump P.adcUrgDrop 0 top32) c (.refuse St.dropped)))) ∧
  (∀ (s : State) (h : Hdr) (pl : List Byte),
      let c := cmdOf h 0x1101 s.epoch
      let u := s.bodyState h 0x1101
      s.serves h 0x1101 = true →
      31 < c.inst →
      exec (.adcUrgent h pl) s = .next (State.settle (State.reply (u) c (.refuse St.badInst))))

/-- A served DRV_START with its one byte is refused with `bad_state` where the device is not in FULL, ROLE is off or member, test mode is on, the drive is in a state other than stopped and mw_hold, an uncleared fault has a drive reaction on it or a latch forces one of its generators; otherwise with `uvlo` while a gate rail is down; an instance above 3 with `bad_inst`, another payload with `length`. The body changes nothing. -/
def Obligations.StartsAreRefused : Prop :=
  (∀ (s : State) (h : Hdr) (pl : List Byte),
      let c := cmdOf h 0x1401 s.epoch
      let u := s.bodyState h 0x1401
      s.serves h 0x1401 = true →
      c.inst ≤ 3 →
      pl.length = 1 →
      ((u.pwr.mode ≠ .full ∨ u.computes c.inst = false ∨ u.reg P.pwmTestEn c.inst = 1 ∨ ¬ ((u.drv c.inst).phase = .stopped ∨ (u.drv c.inst).phase = .mwHold) ∨ u.hasReaction c.inst = true ∨ u.anyForced c.inst = true)) →
      exec (.drvStart h pl) s = .next (State.settle (State.reply (u) c (.refuse St.badState)))) ∧
  (∀ (s : State) (h : Hdr) (pl : List Byte),
      let c := cmdOf h 0x1401 s.epoch
      let u := s.bodyState h 0x1401
      s.serves h 0x1401 = true →
      c.inst ≤ 3 →
      pl.length = 1 →
      (¬ (u.pwr.mode ≠ .full ∨ u.computes c.inst = false ∨ u.reg P.pwmTestEn c.inst = 1 ∨ ¬ ((u.drv c.inst).phase = .stopped ∨ (u.drv c.inst).phase = .mwHold) ∨ u.hasReaction c.inst = true ∨ u.anyForced c.inst = true)) →
      u.anyUvlo = true →
      exec (.drvStart h pl) s = .next (State.settle (State.reply (u) c (.refuse St.uvlo)))) ∧
  (∀ (s : State) (h : Hdr) (pl : List Byte),
      let c := cmdOf h 0x1401 s.epoch
      let u := s.bodyState h 0x1401
      s.serves h 0x1401 = true →
      3 < c.inst →
      exec (.drvStart h pl) s = .next (State.settle (State.reply (u) c (.refuse St.badInst)))) ∧
  (∀ (s : State) (h : Hdr) (pl : List Byte),
      let c := cmdOf h 0x1401 s.epoch
      let u := s.bodyState h 0x1401
      s.serves h 0x1401 = true →
      c.inst ≤ 3 →
      pl.length ≠ 1 →
      exec (.drvStart h pl) s = .next (State.settle (State.reply (u) c (.refuse St.length))))

/-- A served TXN_BEGIN on an interface whose transaction is open is refused with `txn_open`, and TXN_COMMIT and TXN_ROLLBACK on one whose transaction is not open with `no_txn`; none of them changes any transaction. -/
def Obligations.OneTransactionPerInterface : Prop :=
  (∀ (s : State) (h : Hdr),
      let c := cmdOf h 0x0501 s.epoch
      let u := s.bodyState h 0x0501
      s.serves h 0x0501 = true →
      (u.txnOf c.iface).isOpen = true →
      exec (.txnBegin h []) s = .next (State.settle (State.reply (u) c (.refuse St.txnOpen)))) ∧
  (∀ (s : State) (h : Hdr) (pl : List Byte),
      let c := cmdOf h 0x0502 s.epoch
      let u := s.bodyState h 0x0502
      s.serves h 0x0502 = true →
      pl.length = 1 →
      (u.txnOf c.iface).isOpen = false →
      exec (.txnCommit h pl) s = .next (State.settle (State.reply (u) c (.refuse St.noTxn)))) ∧
  (∀ (s : State) (h : Hdr),
      let c := cmdOf h 0x0503 s.epoch
      let u := s.bodyState h 0x0503
      s.serves h 0x0503 = true →
      (u.txnOf c.iface).isOpen = false →
      exec (.txnRollback h []) s = .next (State.settle (State.reply (u) c (.refuse St.noTxn))))

/-- A served CHK_SCAN of an instance of 3 or more is refused with `bad_inst`, of a unit in run or held with `busy`, and with a preset above 4, a length of 0 or above 0x0040_0000 or a range not wholly inside one memory with `range`; the unit keeps its state. -/
def Obligations.ScansAreRefused : Prop :=
  (∀ (s : State) (h : Hdr) (pl : List Byte),
      let c := cmdOf h 0x1A01 s.epoch
      let u := s.bodyState h 0x1A01
      s.serves h 0x1A01 = true →
      2 < c.inst →
      exec (.chkScan h pl) s = .next (State.settle (State.reply (u) c (.refuse St.badInst)))) ∧
  (∀ (s : State) (h : Hdr) (pl : List Byte),
      let c := cmdOf h 0x1A01 s.epoch
      let u := s.bodyState h 0x1A01
      s.serves h 0x1A01 = true →
      c.inst ≤ 2 →
      pl.length = 16 →
      ((u.chkState c.inst = 1 ∨ u.chkState c.inst = 2)) →
      exec (.chkScan h pl) s = .next (State.settle (State.reply (u) c (.refuse St.busy)))) ∧
  (∀ (s : State) (h : Hdr) (pl : List Byte),
      let c := cmdOf h 0x1A01 s.epoch
      let u := s.bodyState h 0x1A01
      s.serves h 0x1A01 = true →
      c.inst ≤ 2 →
      pl.length = 16 →
      (¬ (u.chkState c.inst = 1 ∨ u.chkState c.inst = 2)) →
      ((4 < fieldAt pl 0 1 ∨ fieldAt pl 8 4 = 0 ∨ 0x400000 < fieldAt pl 8 4 ∨ inOneMemory (fieldAt pl 4 4) (fieldAt pl 8 4) = false)) →
      exec (.chkScan h pl) s = .next (State.settle (State.reply (u) c (.refuse St.range))))

/-- A served JOURNAL_READ of 4 bytes is refused with `range` where SRC is above 1, MAX is outside its range for SRC, START is above 63 or not 0 for the journal, or the mirror is to be consumed; otherwise with `bad_state` where the journal is to be consumed while FLT.STREAM = 1; the journal stays. -/
def Obligations.JournalReadsAreRefused : Prop :=
  (∀ (s : State) (h : Hdr) (pl : List Byte),
      let c := cmdOf h 0x1903 s.epoch
      let u := s.bodyState h 0x1903
      s.serves h 0x1903 = true →
      pl.length = 4 →
      ((1 < fieldAt pl 0 1 ∨ fieldAt pl 2 1 = 0 ∨ (if fieldAt pl 0 1 = 0 then 31 else 27) < fieldAt pl 2 1 ∨ 63 < fieldAt pl 3 1 ∨ (fieldAt pl 0 1 = 0 ∧ fieldAt pl 3 1 ≠ 0) ∨ (fieldAt pl 0 1 = 1 ∧ bit (fieldAt pl 1 1) 0 = true))) →
      exec (.journalRead h pl) s = .next (State.settle (State.reply (u) c (.refuse St.range)))) ∧
  (∀ (s : State) (h : Hdr) (pl : List Byte),
      let c := cmdOf h 0x1903 s.epoch
      let u := s.bodyState h 0x1903
      s.serves h 0x1903 = true →
      pl.length = 4 →
      (¬ (1 < fieldAt pl 0 1 ∨ fieldAt pl 2 1 = 0 ∨ (if fieldAt pl 0 1 = 0 then 31 else 27) < fieldAt pl 2 1 ∨ 63 < fieldAt pl 3 1 ∨ (fieldAt pl 0 1 = 0 ∧ fieldAt pl 3 1 ≠ 0) ∨ (fieldAt pl 0 1 = 1 ∧ bit (fieldAt pl 1 1) 0 = true))) →
      (bit (fieldAt pl 1 1) 0 = true ∧ u.reg P.fltStream 0 = 1) →
      exec (.journalRead h pl) s = .next (State.settle (State.reply (u) c (.refuse St.badState))))

/-- A served FLT_CLEAR of one item that names one instance is refused with `bad_inst` where it names no record; an uncleared class A or B record is refused with `bad_state`, one of class C whose cause is present with `cause_active`; the records stay as they are. A record with CAUSE = 0 stays and is in neither count. A class D record, or one of class C without its cause, is cleared and counted; where the record was reported on the tick of the clear, CAUSE stays and FIRST_EPOCH is that tick. -/
def Obligations.ClearsFollowTheTable : Prop :=
  (∀ (s : State) (h : Hdr) (k i : Byte), s.serves h 0x1901 = true → k ≠ 0xFF#8 → i ≠ 0xFF#8 →
    let c := cmdOf h 0x1901 s.epoch
    let v := (s.bodyState h 0x1901)
    (sourceRow k.toNat = none ∨ (sourceRow k.toNat).map (·.n) ≠ none ∧ ((sourceRow k.toNat).map (·.n)).getD 0 ≤ i.toNat) →
    ∃ w, exec (.fltClear h [k, i]) s = .next (State.settle (State.reply w c (.now St.badInst 0 (leBytes 2 0 ++ leBytes 2 0)))) ∧
      ∀ sel, w.frec sel = (v).frec sel) ∧
  (∀ (s : State) (h : Hdr) (k i : Byte), s.serves h 0x1901 = true → k ≠ 0xFF#8 → i ≠ 0xFF#8 →
    let c := cmdOf h 0x1901 s.epoch
    let v := (s.bodyState h 0x1901)
    (sourceRow k.toNat).map (·.n) ≠ none ∧ i.toNat < ((sourceRow k.toNat).map (·.n)).getD 0 →
    (v.frec (selector k.toNat i.toNat)).cause = false →
    ∃ w, exec (.fltClear h [k, i]) s = .next (State.settle (State.reply w c (.now St.ok 0xFFFF (leBytes 2 0 ++ leBytes 2 0)))) ∧
      ∀ sel, w.frec sel = (v).frec sel) ∧
  (∀ (s : State) (h : Hdr) (k i : Byte), s.serves h 0x1901 = true → k ≠ 0xFF#8 → i ≠ 0xFF#8 →
    let c := cmdOf h 0x1901 s.epoch
    let v := (s.bodyState h 0x1901)
    (sourceRow k.toNat).map (·.n) ≠ none ∧ i.toNat < ((sourceRow k.toNat).map (·.n)).getD 0 →
    (v.frec (selector k.toNat i.toNat)).cause = true →
    ((sourceRow k.toNat).map (·.cls) = some .a ∨ (sourceRow k.toNat).map (·.cls) = some .b) →
    ∃ w, exec (.fltClear h [k, i]) s = .next (State.settle (State.reply w c (.now St.badState 0 (leBytes 2 0 ++ leBytes 2 0)))) ∧
      ∀ sel, w.frec sel = (v).frec sel) ∧
  (∀ (s : State) (h : Hdr) (k i : Byte), s.serves h 0x1901 = true → k ≠ 0xFF#8 → i ≠ 0xFF#8 →
    let c := cmdOf h 0x1901 s.epoch
    let v := (s.bodyState h 0x1901)
    (sourceRow k.toNat).map (·.n) ≠ none ∧ i.toNat < ((sourceRow k.toNat).map (·.n)).getD 0 →
    (v.frec (selector k.toNat i.toNat)).cause = true →
    (sourceRow k.toNat).map (·.cls) = some .c →
    v.causePresent k.toNat i.toNat = true →
    ∃ w, exec (.fltClear h [k, i]) s = .next (State.settle (State.reply w c (.now St.causeActive 0 (leBytes 2 0 ++ leBytes 2 0)))) ∧
      ∀ sel, w.frec sel = (v).frec sel) ∧
  (∀ (s : State) (h : Hdr) (k i : Byte), s.serves h 0x1901 = true → k ≠ 0xFF#8 → i ≠ 0xFF#8 →
    let c := cmdOf h 0x1901 s.epoch
    let v := (s.bodyState h 0x1901)
    (sourceRow k.toNat).map (·.n) ≠ none ∧ i.toNat < ((sourceRow k.toNat).map (·.n)).getD 0 →
    (v.frec (selector k.toNat i.toNat)).cause = true →
    ((sourceRow k.toNat).map (·.cls) = some .d ∨ (sourceRow k.toNat).map (·.cls) = some .c ∧ v.causePresent k.toNat i.toNat = false) →
    (v.frec (selector k.toNat i.toNat)).setAt ≠ some v.epoch →
    ∃ w, exec (.fltClear h [k, i]) s = .next (State.settle (State.reply w c (.now St.ok 0xFFFF (leBytes 2 1 ++ leBytes 2 0)))) ∧
      ∀ sel, w.frec sel = (v.clearRec (selector k.toNat i.toNat)).frec sel) ∧
  (∀ (s : State) (h : Hdr) (k i : Byte), s.serves h 0x1901 = true → k ≠ 0xFF#8 → i ≠ 0xFF#8 →
    let c := cmdOf h 0x1901 s.epoch
    let v := (s.bodyState h 0x1901)
    (sourceRow k.toNat).map (·.n) ≠ none ∧ i.toNat < ((sourceRow k.toNat).map (·.n)).getD 0 →
    (v.frec (selector k.toNat i.toNat)).cause = true →
    ((sourceRow k.toNat).map (·.cls) = some .d ∨ (sourceRow k.toNat).map (·.cls) = some .c ∧ v.causePresent k.toNat i.toNat = false) →
    (v.frec (selector k.toNat i.toNat)).setAt = some v.epoch →
    ∃ w, exec (.fltClear h [k, i]) s = .next (State.settle (State.reply w c (.now St.ok 0xFFFF (leBytes 2 ((v.frec (selector k.toNat i.toNat)).wasSet v.epoch).toNat ++ leBytes 2 0)))) ∧
      ∀ sel, w.frec sel = (v.setRec (selector k.toNat i.toNat) { v.frec (selector k.toNat i.toNat) with firstEpoch := (v.frec (selector k.toNat i.toNat)).lastEpoch }).frec sel)
end

