-- ==== Sys2Proof/Laws/Smap.lean ====
section
/-! SUPPORT. Laws of sparse maps and of memory: what a read gives after a write, for every map, and that
every write keeps the canonical form. -/

namespace Sys2Proof.Laws
open Sys2Proof.Machine

variable {α : Type}

@[simp] theorem get_nil (d : Nat → α) (k : Nat) : Smap.get d [] k = d k := rfl

@[simp] theorem get_cons (d : Nat → α) (j k : Nat) (v : α) (r : Smap α) :
    Smap.get d ((j, v) :: r) k = if k = j then v else Smap.get d r k := rfl

@[simp] theorem get_insert_same (d : Nat → α) (m : Smap α) (k : Nat) (v : α) :
    Smap.get d (Smap.insert m k v) k = v := by
  induction m with
  | nil => simp [Smap.insert]
  | cons p r ih =>
    obtain ⟨j, w⟩ := p
    unfold Smap.insert
    split
    · simp
    · split
      · simp
      · simpa [*] using ih

theorem get_insert_ne (d : Nat → α) (m : Smap α) (k l : Nat) (v : α) (h : l ≠ k) :
    Smap.get d (Smap.insert m k v) l = Smap.get d m l := by
  induction m with
  | nil => simp [Smap.insert, h]
  | cons p r ih =>
    obtain ⟨j, w⟩ := p
    unfold Smap.insert
    split
    · simp [h]
    · split
      · next e => subst e; simp [h]
      · simp [ih]

@[simp] theorem get_erase_same (d : Nat → α) (m : Smap α) (k : Nat) : Smap.get d (Smap.erase m k) k = d k := by
  induction m with
  | nil => rfl
  | cons p r ih =>
    obtain ⟨j, w⟩ := p
    unfold Smap.erase
    split
    · exact ih
    · next e => simpa [e] using ih

theorem get_erase_ne (d : Nat → α) (m : Smap α) (k l : Nat) (h : l ≠ k) :
    Smap.get d (Smap.erase m k) l = Smap.get d m l := by
  induction m with
  | nil => rfl
  | cons p r ih =>
    obtain ⟨j, w⟩ := p
    unfold Smap.erase
    split
    · next e => subst e; simpa [h] using ih
    · simp [ih]

variable [DecidableEq α]

/-- A read of the key just written gives the value written. -/
@[simp] theorem get_set_same (d : Nat → α) (m : Smap α) (k : Nat) (v : α) :
    Smap.get d (Smap.set d m k v) k = v := by
  unfold Smap.set
  split
  · next e => rw [get_erase_same, e]
  · exact get_insert_same d m k v

/-- A write leaves every other key alone. -/
theorem get_set_ne (d : Nat → α) (m : Smap α) (k l : Nat) (v : α) (h : l ≠ k) :
    Smap.get d (Smap.set d m k v) l = Smap.get d m l := by
  unfold Smap.set
  split
  · exact get_erase_ne d m k l h
  · exact get_insert_ne d m k l v h

/-! The canonical form. -/

theorem wfFrom_mono (d : Nat → α) {a b : Nat} (m : Smap α) (h : a ≤ b) (hm : Smap.wfFrom d b m = true) :
    Smap.wfFrom d a m = true := by
  cases m with
  | nil => rfl
  | cons p r =>
    simp only [Smap.wfFrom, Bool.and_eq_true, decide_eq_true_eq] at *
    exact ⟨⟨by omega, hm.1.2⟩, hm.2⟩

theorem wfFrom_insert (d : Nat → α) {b : Nat} (m : Smap α) (k : Nat) (v : α) (h : Smap.wfFrom d b m = true)
    (hb : b ≤ k) (hv : v ≠ d k) : Smap.wfFrom d b (Smap.insert m k v) = true := by
  induction m generalizing b with
  | nil => simp [Smap.insert, Smap.wfFrom, hb, hv]
  | cons p r ih =>
    obtain ⟨j, w⟩ := p
    simp only [Smap.wfFrom, Bool.and_eq_true, decide_eq_true_eq] at h
    by_cases hk : k < j
    · simp only [Smap.insert, hk, if_true, Smap.wfFrom, Bool.and_eq_true, decide_eq_true_eq]
      exact ⟨⟨hb, hv⟩, ⟨by omega, h.1.2⟩, h.2⟩
    · by_cases e : k = j
      · subst e
        simp only [Smap.insert, Nat.lt_irrefl, if_false, if_true, Smap.wfFrom, Bool.and_eq_true, decide_eq_true_eq]
        exact ⟨⟨hb, hv⟩, h.2⟩
      · simp only [Smap.insert, hk, if_false, e, Smap.wfFrom, Bool.and_eq_true, decide_eq_true_eq]
        exact ⟨h.1, ih h.2 (by omega)⟩

theorem wfFrom_erase (d : Nat → α) {b : Nat} (m : Smap α) (k : Nat) (h : Smap.wfFrom d b m = true) :
    Smap.wfFrom d b (Smap.erase m k) = true := by
  induction m generalizing b with
  | nil => rfl
  | cons p r ih =>
    obtain ⟨j, w⟩ := p
    simp only [Smap.wfFrom, Bool.and_eq_true, decide_eq_true_eq] at h
    by_cases e : k = j
    · simp only [Smap.erase, e, if_true]
      exact wfFrom_mono d _ (by omega) (e ▸ ih h.2)
    · simp only [Smap.erase, e, if_false, Smap.wfFrom, Bool.and_eq_true, decide_eq_true_eq]
      exact ⟨h.1, ih h.2⟩

/-- A write keeps the canonical form. -/
theorem wf_set (d : Nat → α) (m : Smap α) (k : Nat) (v : α) (h : Smap.wf d m = true) :
    Smap.wf d (Smap.set d m k v) = true := by
  unfold Smap.set
  split
  · exact wfFrom_erase d m k h
  · next e => exact wfFrom_insert d m k v h (Nat.zero_le k) e

/-- The canonical form survives a filter. -/
theorem wfFrom_filter (d : Nat → α) {b : Nat} (m : Smap α) (f : Nat × α → Bool) (h : Smap.wfFrom d b m = true) :
    Smap.wfFrom d b (m.filter f) = true := by
  induction m generalizing b with
  | nil => rfl
  | cons p r ih =>
    obtain ⟨j, w⟩ := p
    simp only [Smap.wfFrom, Bool.and_eq_true, decide_eq_true_eq] at h
    by_cases hp : f (j, w) = true
    · simp only [List.filter_cons, hp, if_true, Smap.wfFrom, Bool.and_eq_true, decide_eq_true_eq]
      exact ⟨h.1, ih h.2⟩
    · simp only [List.filter_cons, hp]
      exact wfFrom_mono d _ (by omega) (ih h.2)

/-! Memory. -/

/-- Writing a byte keeps the canonical form. -/
theorem memory_wf_write (m : Memory) (a : Nat) (b : Byte) (h : m.wf = true) : (m.write a b).wf = true :=
  wf_set Memory.unlisted m a b h

/-- Writing a run of bytes keeps the canonical form. -/
theorem memory_wf_writeBytes (m : Memory) (a : Nat) (bs : List Byte) (h : m.wf = true) :
    (m.writeBytes a bs).wf = true := by
  induction bs generalizing m a with
  | nil => exact h
  | cons b bs ih => exact ih _ _ (memory_wf_write m a b h)

/-- A byte reads back as written. -/
@[simp] theorem memory_read_write_same (m : Memory) (a : Nat) (b : Byte) : (m.write a b).read a = b :=
  get_set_same Memory.unlisted m a b

/-- A write leaves every other byte alone. -/
theorem memory_read_write_ne (m : Memory) (a c : Nat) (b : Byte) (hc : c ≠ a) :
    (m.write a b).read c = m.read c := get_set_ne Memory.unlisted m a c b hc

/-- Bytes outside a written run keep their value. -/
theorem memory_read_writeBytes_outside (m : Memory) (a c : Nat) (bs : List Byte)
    (hc : c < a ∨ a + bs.length ≤ c) : (m.writeBytes a bs).read c = m.read c := by
  induction bs generalizing m a with
  | nil => rfl
  | cons b bs ih =>
    simp only [List.length_cons] at hc
    rw [Memory.writeBytes, ih _ _ (by omega), memory_read_write_ne m a c b (by omega)]

/-- A written run reads back. -/
theorem memory_readBytes_writeBytes (m : Memory) (a : Nat) (bs : List Byte) :
    (m.writeBytes a bs).readBytes a bs.length = bs := by
  induction bs generalizing m a with
  | nil => rfl
  | cons b bs ih =>
    simp only [Memory.writeBytes, List.length_cons, Memory.readBytes, ih]
    rw [memory_read_writeBytes_outside _ _ _ _ (by omega), memory_read_write_same m a b]

end Sys2Proof.Laws
end

