-- ==== Sys2Proof/Laws/State.lean ====
section
/-! SUPPORT. For each primitive update of the state, one lemma for every field that it leaves alone. -/

namespace Sys2Proof.Laws
open Sys2Proof.Machine

variable (s : State)

@[simp] theorem setReg_pending (id i v : Nat) : (s.setReg id i v).pending = s.pending := rfl
@[simp] theorem setReg_epoch (id i v : Nat) : (s.setReg id i v).epoch = s.epoch := rfl
@[simp] theorem setReg_rcTab (id i v : Nat) : (s.setReg id i v).rcTab = s.rcTab := rfl
@[simp] theorem setReg_pool (id i v : Nat) : (s.setReg id i v).pool = s.pool := rfl
@[simp] theorem setReg_mem (id i v : Nat) : (s.setReg id i v).mem = s.mem := rfl
@[simp] theorem setReg_free (id i v : Nat) : (s.setReg id i v).free = s.free := rfl
@[simp] theorem setReg_host (id i v : Nat) : (s.setReg id i v).host = s.host := rfl
@[simp] theorem setReg_txn (id i v : Nat) : (s.setReg id i v).txn = s.txn := rfl
@[simp] theorem setReg_pwr (id i v : Nat) : (s.setReg id i v).pwr = s.pwr := rfl
@[simp] theorem setReg_flt (id i v : Nat) : (s.setReg id i v).flt = s.flt := rfl
@[simp] theorem setReg_pwm (id i v : Nat) : (s.setReg id i v).pwm = s.pwm := rfl
@[simp] theorem setReg_drives (id i v : Nat) : (s.setReg id i v).drives = s.drives := rfl
@[simp] theorem setReg_pickers (id i v : Nat) : (s.setReg id i v).pickers = s.pickers := rfl
@[simp] theorem setReg_lanes (id i v : Nat) : (s.setReg id i v).lanes = s.lanes := rfl
@[simp] theorem setReg_gate (id i v : Nat) : (s.setReg id i v).gate = s.gate := rfl
@[simp] theorem setReg_bus (id i v : Nat) : (s.setReg id i v).bus = s.bus := rfl
@[simp] theorem setReg_convs (id i v : Nat) : (s.setReg id i v).convs = s.convs := rfl
@[simp] theorem setReg_fcQ (id i v : Nat) : (s.setReg id i v).fcQ = s.fcQ := rfl
@[simp] theorem setReg_checkers (id i v : Nat) : (s.setReg id i v).checkers = s.checkers := rfl
@[simp] theorem setReg_hk (id i v : Nat) : (s.setReg id i v).hk = s.hk := rfl
@[simp] theorem setReg_therm (id i v : Nat) : (s.setReg id i v).therm = s.therm := rfl
@[simp] theorem setReg_link (id i v : Nat) : (s.setReg id i v).link = s.link := rfl
@[simp] theorem setReg_chk (id i v : Nat) : (s.setReg id i v).chk = s.chk := rfl
@[simp] theorem setReg_sec (id i v : Nat) : (s.setReg id i v).sec = s.sec := rfl
@[simp] theorem setReg_perf (id i v : Nat) : (s.setReg id i v).perf = s.perf := rfl
@[simp] theorem setReg_posIn (id i v : Nat) : (s.setReg id i v).posIn = s.posIn := rfl
@[simp] theorem setReg_posSeen (id i v : Nat) : (s.setReg id i v).posSeen = s.posSeen := rfl
@[simp] theorem setReg_keys (id i v : Nat) : (s.setReg id i v).keys = s.keys := rfl

@[simp] theorem setF_pending (id i : Nat) (v : F32) : (s.setF id i v).pending = s.pending := rfl
@[simp] theorem setF_epoch (id i : Nat) (v : F32) : (s.setF id i v).epoch = s.epoch := rfl
@[simp] theorem setF_rcTab (id i : Nat) (v : F32) : (s.setF id i v).rcTab = s.rcTab := rfl
@[simp] theorem setF_pool (id i : Nat) (v : F32) : (s.setF id i v).pool = s.pool := rfl
@[simp] theorem setF_mem (id i : Nat) (v : F32) : (s.setF id i v).mem = s.mem := rfl
@[simp] theorem setF_free (id i : Nat) (v : F32) : (s.setF id i v).free = s.free := rfl
@[simp] theorem setF_host (id i : Nat) (v : F32) : (s.setF id i v).host = s.host := rfl
@[simp] theorem setF_txn (id i : Nat) (v : F32) : (s.setF id i v).txn = s.txn := rfl
@[simp] theorem setF_pwr (id i : Nat) (v : F32) : (s.setF id i v).pwr = s.pwr := rfl
@[simp] theorem setF_flt (id i : Nat) (v : F32) : (s.setF id i v).flt = s.flt := rfl
@[simp] theorem setF_pwm (id i : Nat) (v : F32) : (s.setF id i v).pwm = s.pwm := rfl
@[simp] theorem setF_drives (id i : Nat) (v : F32) : (s.setF id i v).drives = s.drives := rfl
@[simp] theorem setF_pickers (id i : Nat) (v : F32) : (s.setF id i v).pickers = s.pickers := rfl
@[simp] theorem setF_lanes (id i : Nat) (v : F32) : (s.setF id i v).lanes = s.lanes := rfl
@[simp] theorem setF_gate (id i : Nat) (v : F32) : (s.setF id i v).gate = s.gate := rfl
@[simp] theorem setF_bus (id i : Nat) (v : F32) : (s.setF id i v).bus = s.bus := rfl
@[simp] theorem setF_convs (id i : Nat) (v : F32) : (s.setF id i v).convs = s.convs := rfl
@[simp] theorem setF_fcQ (id i : Nat) (v : F32) : (s.setF id i v).fcQ = s.fcQ := rfl
@[simp] theorem setF_checkers (id i : Nat) (v : F32) : (s.setF id i v).checkers = s.checkers := rfl
@[simp] theorem setF_hk (id i : Nat) (v : F32) : (s.setF id i v).hk = s.hk := rfl
@[simp] theorem setF_therm (id i : Nat) (v : F32) : (s.setF id i v).therm = s.therm := rfl
@[simp] theorem setF_link (id i : Nat) (v : F32) : (s.setF id i v).link = s.link := rfl
@[simp] theorem setF_chk (id i : Nat) (v : F32) : (s.setF id i v).chk = s.chk := rfl
@[simp] theorem setF_sec (id i : Nat) (v : F32) : (s.setF id i v).sec = s.sec := rfl
@[simp] theorem setF_perf (id i : Nat) (v : F32) : (s.setF id i v).perf = s.perf := rfl
@[simp] theorem setF_posIn (id i : Nat) (v : F32) : (s.setF id i v).posIn = s.posIn := rfl
@[simp] theorem setF_posSeen (id i : Nat) (v : F32) : (s.setF id i v).posSeen = s.posSeen := rfl
@[simp] theorem setF_keys (id i : Nat) (v : F32) : (s.setF id i v).keys = s.keys := rfl

@[simp] theorem bump_pending (id i t : Nat) : (s.bump id i t).pending = s.pending := rfl
@[simp] theorem bump_epoch (id i t : Nat) : (s.bump id i t).epoch = s.epoch := rfl
@[simp] theorem bump_rcTab (id i t : Nat) : (s.bump id i t).rcTab = s.rcTab := rfl
@[simp] theorem bump_pool (id i t : Nat) : (s.bump id i t).pool = s.pool := rfl
@[simp] theorem bump_mem (id i t : Nat) : (s.bump id i t).mem = s.mem := rfl
@[simp] theorem bump_free (id i t : Nat) : (s.bump id i t).free = s.free := rfl
@[simp] theorem bump_host (id i t : Nat) : (s.bump id i t).host = s.host := rfl
@[simp] theorem bump_txn (id i t : Nat) : (s.bump id i t).txn = s.txn := rfl
@[simp] theorem bump_pwr (id i t : Nat) : (s.bump id i t).pwr = s.pwr := rfl
@[simp] theorem bump_flt (id i t : Nat) : (s.bump id i t).flt = s.flt := rfl
@[simp] theorem bump_pwm (id i t : Nat) : (s.bump id i t).pwm = s.pwm := rfl
@[simp] theorem bump_drives (id i t : Nat) : (s.bump id i t).drives = s.drives := rfl
@[simp] theorem bump_pickers (id i t : Nat) : (s.bump id i t).pickers = s.pickers := rfl
@[simp] theorem bump_lanes (id i t : Nat) : (s.bump id i t).lanes = s.lanes := rfl
@[simp] theorem bump_gate (id i t : Nat) : (s.bump id i t).gate = s.gate := rfl
@[simp] theorem bump_bus (id i t : Nat) : (s.bump id i t).bus = s.bus := rfl
@[simp] theorem bump_convs (id i t : Nat) : (s.bump id i t).convs = s.convs := rfl
@[simp] theorem bump_fcQ (id i t : Nat) : (s.bump id i t).fcQ = s.fcQ := rfl
@[simp] theorem bump_checkers (id i t : Nat) : (s.bump id i t).checkers = s.checkers := rfl
@[simp] theorem bump_hk (id i t : Nat) : (s.bump id i t).hk = s.hk := rfl
@[simp] theorem bump_therm (id i t : Nat) : (s.bump id i t).therm = s.therm := rfl
@[simp] theorem bump_link (id i t : Nat) : (s.bump id i t).link = s.link := rfl
@[simp] theorem bump_chk (id i t : Nat) : (s.bump id i t).chk = s.chk := rfl
@[simp] theorem bump_sec (id i t : Nat) : (s.bump id i t).sec = s.sec := rfl
@[simp] theorem bump_perf (id i t : Nat) : (s.bump id i t).perf = s.perf := rfl
@[simp] theorem bump_posIn (id i t : Nat) : (s.bump id i t).posIn = s.posIn := rfl
@[simp] theorem bump_posSeen (id i t : Nat) : (s.bump id i t).posSeen = s.posSeen := rfl
@[simp] theorem bump_keys (id i t : Nat) : (s.bump id i t).keys = s.keys := rfl

@[simp] theorem bumpBy_pending (id i t k : Nat) : (s.bumpBy id i t k).pending = s.pending := rfl
@[simp] theorem bumpBy_epoch (id i t k : Nat) : (s.bumpBy id i t k).epoch = s.epoch := rfl
@[simp] theorem bumpBy_rcTab (id i t k : Nat) : (s.bumpBy id i t k).rcTab = s.rcTab := rfl
@[simp] theorem bumpBy_pool (id i t k : Nat) : (s.bumpBy id i t k).pool = s.pool := rfl
@[simp] theorem bumpBy_mem (id i t k : Nat) : (s.bumpBy id i t k).mem = s.mem := rfl
@[simp] theorem bumpBy_free (id i t k : Nat) : (s.bumpBy id i t k).free = s.free := rfl
@[simp] theorem bumpBy_host (id i t k : Nat) : (s.bumpBy id i t k).host = s.host := rfl
@[simp] theorem bumpBy_txn (id i t k : Nat) : (s.bumpBy id i t k).txn = s.txn := rfl
@[simp] theorem bumpBy_pwr (id i t k : Nat) : (s.bumpBy id i t k).pwr = s.pwr := rfl
@[simp] theorem bumpBy_flt (id i t k : Nat) : (s.bumpBy id i t k).flt = s.flt := rfl
@[simp] theorem bumpBy_pwm (id i t k : Nat) : (s.bumpBy id i t k).pwm = s.pwm := rfl
@[simp] theorem bumpBy_drives (id i t k : Nat) : (s.bumpBy id i t k).drives = s.drives := rfl
@[simp] theorem bumpBy_pickers (id i t k : Nat) : (s.bumpBy id i t k).pickers = s.pickers := rfl
@[simp] theorem bumpBy_lanes (id i t k : Nat) : (s.bumpBy id i t k).lanes = s.lanes := rfl
@[simp] theorem bumpBy_gate (id i t k : Nat) : (s.bumpBy id i t k).gate = s.gate := rfl
@[simp] theorem bumpBy_bus (id i t k : Nat) : (s.bumpBy id i t k).bus = s.bus := rfl
@[simp] theorem bumpBy_convs (id i t k : Nat) : (s.bumpBy id i t k).convs = s.convs := rfl
@[simp] theorem bumpBy_fcQ (id i t k : Nat) : (s.bumpBy id i t k).fcQ = s.fcQ := rfl
@[simp] theorem bumpBy_checkers (id i t k : Nat) : (s.bumpBy id i t k).checkers = s.checkers := rfl
@[simp] theorem bumpBy_hk (id i t k : Nat) : (s.bumpBy id i t k).hk = s.hk := rfl
@[simp] theorem bumpBy_therm (id i t k : Nat) : (s.bumpBy id i t k).therm = s.therm := rfl
@[simp] theorem bumpBy_link (id i t k : Nat) : (s.bumpBy id i t k).link = s.link := rfl
@[simp] theorem bumpBy_chk (id i t k : Nat) : (s.bumpBy id i t k).chk = s.chk := rfl
@[simp] theorem bumpBy_sec (id i t k : Nat) : (s.bumpBy id i t k).sec = s.sec := rfl
@[simp] theorem bumpBy_perf (id i t k : Nat) : (s.bumpBy id i t k).perf = s.perf := rfl
@[simp] theorem bumpBy_posIn (id i t k : Nat) : (s.bumpBy id i t k).posIn = s.posIn := rfl
@[simp] theorem bumpBy_posSeen (id i t k : Nat) : (s.bumpBy id i t k).posSeen = s.posSeen := rfl
@[simp] theorem bumpBy_keys (id i t k : Nat) : (s.bumpBy id i t k).keys = s.keys := rfl

@[simp] theorem setBit_pending (id i n : Nat) (b : Bool) : (s.setBit id i n b).pending = s.pending := rfl
@[simp] theorem setBit_epoch (id i n : Nat) (b : Bool) : (s.setBit id i n b).epoch = s.epoch := rfl
@[simp] theorem setBit_rcTab (id i n : Nat) (b : Bool) : (s.setBit id i n b).rcTab = s.rcTab := rfl
@[simp] theorem setBit_pool (id i n : Nat) (b : Bool) : (s.setBit id i n b).pool = s.pool := rfl
@[simp] theorem setBit_mem (id i n : Nat) (b : Bool) : (s.setBit id i n b).mem = s.mem := rfl
@[simp] theorem setBit_free (id i n : Nat) (b : Bool) : (s.setBit id i n b).free = s.free := rfl
@[simp] theorem setBit_host (id i n : Nat) (b : Bool) : (s.setBit id i n b).host = s.host := rfl
@[simp] theorem setBit_txn (id i n : Nat) (b : Bool) : (s.setBit id i n b).txn = s.txn := rfl
@[simp] theorem setBit_pwr (id i n : Nat) (b : Bool) : (s.setBit id i n b).pwr = s.pwr := rfl
@[simp] theorem setBit_flt (id i n : Nat) (b : Bool) : (s.setBit id i n b).flt = s.flt := rfl
@[simp] theorem setBit_pwm (id i n : Nat) (b : Bool) : (s.setBit id i n b).pwm = s.pwm := rfl
@[simp] theorem setBit_drives (id i n : Nat) (b : Bool) : (s.setBit id i n b).drives = s.drives := rfl
@[simp] theorem setBit_pickers (id i n : Nat) (b : Bool) : (s.setBit id i n b).pickers = s.pickers := rfl
@[simp] theorem setBit_lanes (id i n : Nat) (b : Bool) : (s.setBit id i n b).lanes = s.lanes := rfl
@[simp] theorem setBit_gate (id i n : Nat) (b : Bool) : (s.setBit id i n b).gate = s.gate := rfl
@[simp] theorem setBit_bus (id i n : Nat) (b : Bool) : (s.setBit id i n b).bus = s.bus := rfl
@[simp] theorem setBit_convs (id i n : Nat) (b : Bool) : (s.setBit id i n b).convs = s.convs := rfl
@[simp] theorem setBit_fcQ (id i n : Nat) (b : Bool) : (s.setBit id i n b).fcQ = s.fcQ := rfl
@[simp] theorem setBit_checkers (id i n : Nat) (b : Bool) : (s.setBit id i n b).checkers = s.checkers := rfl
@[simp] theorem setBit_hk (id i n : Nat) (b : Bool) : (s.setBit id i n b).hk = s.hk := rfl
@[simp] theorem setBit_therm (id i n : Nat) (b : Bool) : (s.setBit id i n b).therm = s.therm := rfl
@[simp] theorem setBit_link (id i n : Nat) (b : Bool) : (s.setBit id i n b).link = s.link := rfl
@[simp] theorem setBit_chk (id i n : Nat) (b : Bool) : (s.setBit id i n b).chk = s.chk := rfl
@[simp] theorem setBit_sec (id i n : Nat) (b : Bool) : (s.setBit id i n b).sec = s.sec := rfl
@[simp] theorem setBit_perf (id i n : Nat) (b : Bool) : (s.setBit id i n b).perf = s.perf := rfl
@[simp] theorem setBit_posIn (id i n : Nat) (b : Bool) : (s.setBit id i n b).posIn = s.posIn := rfl
@[simp] theorem setBit_posSeen (id i n : Nat) (b : Bool) : (s.setBit id i n b).posSeen = s.posSeen := rfl
@[simp] theorem setBit_keys (id i n : Nat) (b : Bool) : (s.setBit id i n b).keys = s.keys := rfl

@[simp] theorem noteSet_pending (p g : Nat) : (s.noteSet p g).pending = s.pending := rfl
@[simp] theorem noteSet_epoch (p g : Nat) : (s.noteSet p g).epoch = s.epoch := rfl
@[simp] theorem noteSet_r (p g : Nat) : (s.noteSet p g).r = s.r := rfl
@[simp] theorem noteSet_rcTab (p g : Nat) : (s.noteSet p g).rcTab = s.rcTab := rfl
@[simp] theorem noteSet_pool (p g : Nat) : (s.noteSet p g).pool = s.pool := rfl
@[simp] theorem noteSet_mem (p g : Nat) : (s.noteSet p g).mem = s.mem := rfl
@[simp] theorem noteSet_free (p g : Nat) : (s.noteSet p g).free = s.free := rfl
@[simp] theorem noteSet_txn (p g : Nat) : (s.noteSet p g).txn = s.txn := rfl
@[simp] theorem noteSet_pwr (p g : Nat) : (s.noteSet p g).pwr = s.pwr := rfl
@[simp] theorem noteSet_flt (p g : Nat) : (s.noteSet p g).flt = s.flt := rfl
@[simp] theorem noteSet_pwm (p g : Nat) : (s.noteSet p g).pwm = s.pwm := rfl
@[simp] theorem noteSet_drives (p g : Nat) : (s.noteSet p g).drives = s.drives := rfl
@[simp] theorem noteSet_pickers (p g : Nat) : (s.noteSet p g).pickers = s.pickers := rfl
@[simp] theorem noteSet_lanes (p g : Nat) : (s.noteSet p g).lanes = s.lanes := rfl
@[simp] theorem noteSet_gate (p g : Nat) : (s.noteSet p g).gate = s.gate := rfl
@[simp] theorem noteSet_bus (p g : Nat) : (s.noteSet p g).bus = s.bus := rfl
@[simp] theorem noteSet_convs (p g : Nat) : (s.noteSet p g).convs = s.convs := rfl
@[simp] theorem noteSet_fcQ (p g : Nat) : (s.noteSet p g).fcQ = s.fcQ := rfl
@[simp] theorem noteSet_checkers (p g : Nat) : (s.noteSet p g).checkers = s.checkers := rfl
@[simp] theorem noteSet_hk (p g : Nat) : (s.noteSet p g).hk = s.hk := rfl
@[simp] theorem noteSet_therm (p g : Nat) : (s.noteSet p g).therm = s.therm := rfl
@[simp] theorem noteSet_link (p g : Nat) : (s.noteSet p g).link = s.link := rfl
@[simp] theorem noteSet_chk (p g : Nat) : (s.noteSet p g).chk = s.chk := rfl
@[simp] theorem noteSet_sec (p g : Nat) : (s.noteSet p g).sec = s.sec := rfl
@[simp] theorem noteSet_perf (p g : Nat) : (s.noteSet p g).perf = s.perf := rfl
@[simp] theorem noteSet_posIn (p g : Nat) : (s.noteSet p g).posIn = s.posIn := rfl
@[simp] theorem noteSet_posSeen (p g : Nat) : (s.noteSet p g).posSeen = s.posSeen := rfl
@[simp] theorem noteSet_keys (p g : Nat) : (s.noteSet p g).keys = s.keys := rfl

@[simp] theorem flagGstat_pending (n : Nat) : (s.flagGstat n).pending = s.pending := rfl
@[simp] theorem flagGstat_epoch (n : Nat) : (s.flagGstat n).epoch = s.epoch := rfl
@[simp] theorem flagGstat_rcTab (n : Nat) : (s.flagGstat n).rcTab = s.rcTab := rfl
@[simp] theorem flagGstat_pool (n : Nat) : (s.flagGstat n).pool = s.pool := rfl
@[simp] theorem flagGstat_mem (n : Nat) : (s.flagGstat n).mem = s.mem := rfl
@[simp] theorem flagGstat_free (n : Nat) : (s.flagGstat n).free = s.free := rfl
@[simp] theorem flagGstat_txn (n : Nat) : (s.flagGstat n).txn = s.txn := rfl
@[simp] theorem flagGstat_pwr (n : Nat) : (s.flagGstat n).pwr = s.pwr := rfl
@[simp] theorem flagGstat_flt (n : Nat) : (s.flagGstat n).flt = s.flt := rfl
@[simp] theorem flagGstat_pwm (n : Nat) : (s.flagGstat n).pwm = s.pwm := rfl
@[simp] theorem flagGstat_drives (n : Nat) : (s.flagGstat n).drives = s.drives := rfl
@[simp] theorem flagGstat_pickers (n : Nat) : (s.flagGstat n).pickers = s.pickers := rfl
@[simp] theorem flagGstat_lanes (n : Nat) : (s.flagGstat n).lanes = s.lanes := rfl
@[simp] theorem flagGstat_gate (n : Nat) : (s.flagGstat n).gate = s.gate := rfl
@[simp] theorem flagGstat_bus (n : Nat) : (s.flagGstat n).bus = s.bus := rfl
@[simp] theorem flagGstat_convs (n : Nat) : (s.flagGstat n).convs = s.convs := rfl
@[simp] theorem flagGstat_fcQ (n : Nat) : (s.flagGstat n).fcQ = s.fcQ := rfl
@[simp] theorem flagGstat_checkers (n : Nat) : (s.flagGstat n).checkers = s.checkers := rfl
@[simp] theorem flagGstat_hk (n : Nat) : (s.flagGstat n).hk = s.hk := rfl
@[simp] theorem flagGstat_therm (n : Nat) : (s.flagGstat n).therm = s.therm := rfl
@[simp] theorem flagGstat_link (n : Nat) : (s.flagGstat n).link = s.link := rfl
@[simp] theorem flagGstat_chk (n : Nat) : (s.flagGstat n).chk = s.chk := rfl
@[simp] theorem flagGstat_sec (n : Nat) : (s.flagGstat n).sec = s.sec := rfl
@[simp] theorem flagGstat_perf (n : Nat) : (s.flagGstat n).perf = s.perf := rfl
@[simp] theorem flagGstat_posIn (n : Nat) : (s.flagGstat n).posIn = s.posIn := rfl
@[simp] theorem flagGstat_posSeen (n : Nat) : (s.flagGstat n).posSeen = s.posSeen := rfl
@[simp] theorem flagGstat_keys (n : Nat) : (s.flagGstat n).keys = s.keys := rfl

@[simp] theorem setDrv_pending (d : Nat) (x : DriveSt) : (s.setDrv d x).pending = s.pending := rfl
@[simp] theorem setDrv_epoch (d : Nat) (x : DriveSt) : (s.setDrv d x).epoch = s.epoch := rfl
@[simp] theorem setDrv_r (d : Nat) (x : DriveSt) : (s.setDrv d x).r = s.r := rfl
@[simp] theorem setDrv_rcTab (d : Nat) (x : DriveSt) : (s.setDrv d x).rcTab = s.rcTab := rfl
@[simp] theorem setDrv_pool (d : Nat) (x : DriveSt) : (s.setDrv d x).pool = s.pool := rfl
@[simp] theorem setDrv_mem (d : Nat) (x : DriveSt) : (s.setDrv d x).mem = s.mem := rfl
@[simp] theorem setDrv_free (d : Nat) (x : DriveSt) : (s.setDrv d x).free = s.free := rfl
@[simp] theorem setDrv_host (d : Nat) (x : DriveSt) : (s.setDrv d x).host = s.host := rfl
@[simp] theorem setDrv_txn (d : Nat) (x : DriveSt) : (s.setDrv d x).txn = s.txn := rfl
@[simp] theorem setDrv_pwr (d : Nat) (x : DriveSt) : (s.setDrv d x).pwr = s.pwr := rfl
@[simp] theorem setDrv_flt (d : Nat) (x : DriveSt) : (s.setDrv d x).flt = s.flt := rfl
@[simp] theorem setDrv_pwm (d : Nat) (x : DriveSt) : (s.setDrv d x).pwm = s.pwm := rfl
@[simp] theorem setDrv_pickers (d : Nat) (x : DriveSt) : (s.setDrv d x).pickers = s.pickers := rfl
@[simp] theorem setDrv_lanes (d : Nat) (x : DriveSt) : (s.setDrv d x).lanes = s.lanes := rfl
@[simp] theorem setDrv_gate (d : Nat) (x : DriveSt) : (s.setDrv d x).gate = s.gate := rfl
@[simp] theorem setDrv_bus (d : Nat) (x : DriveSt) : (s.setDrv d x).bus = s.bus := rfl
@[simp] theorem setDrv_convs (d : Nat) (x : DriveSt) : (s.setDrv d x).convs = s.convs := rfl
@[simp] theorem setDrv_fcQ (d : Nat) (x : DriveSt) : (s.setDrv d x).fcQ = s.fcQ := rfl
@[simp] theorem setDrv_checkers (d : Nat) (x : DriveSt) : (s.setDrv d x).checkers = s.checkers := rfl
@[simp] theorem setDrv_hk (d : Nat) (x : DriveSt) : (s.setDrv d x).hk = s.hk := rfl
@[simp] theorem setDrv_therm (d : Nat) (x : DriveSt) : (s.setDrv d x).therm = s.therm := rfl
@[simp] theorem setDrv_link (d : Nat) (x : DriveSt) : (s.setDrv d x).link = s.link := rfl
@[simp] theorem setDrv_chk (d : Nat) (x : DriveSt) : (s.setDrv d x).chk = s.chk := rfl
@[simp] theorem setDrv_sec (d : Nat) (x : DriveSt) : (s.setDrv d x).sec = s.sec := rfl
@[simp] theorem setDrv_perf (d : Nat) (x : DriveSt) : (s.setDrv d x).perf = s.perf := rfl
@[simp] theorem setDrv_posIn (d : Nat) (x : DriveSt) : (s.setDrv d x).posIn = s.posIn := rfl
@[simp] theorem setDrv_posSeen (d : Nat) (x : DriveSt) : (s.setDrv d x).posSeen = s.posSeen := rfl
@[simp] theorem setDrv_keys (d : Nat) (x : DriveSt) : (s.setDrv d x).keys = s.keys := rfl

@[simp] theorem modDrv_pending (d : Nat) (f : DriveSt → DriveSt) : (s.modDrv d f).pending = s.pending := rfl
@[simp] theorem modDrv_epoch (d : Nat) (f : DriveSt → DriveSt) : (s.modDrv d f).epoch = s.epoch := rfl
@[simp] theorem modDrv_r (d : Nat) (f : DriveSt → DriveSt) : (s.modDrv d f).r = s.r := rfl
@[simp] theorem modDrv_rcTab (d : Nat) (f : DriveSt → DriveSt) : (s.modDrv d f).rcTab = s.rcTab := rfl
@[simp] theorem modDrv_pool (d : Nat) (f : DriveSt → DriveSt) : (s.modDrv d f).pool = s.pool := rfl
@[simp] theorem modDrv_mem (d : Nat) (f : DriveSt → DriveSt) : (s.modDrv d f).mem = s.mem := rfl
@[simp] theorem modDrv_free (d : Nat) (f : DriveSt → DriveSt) : (s.modDrv d f).free = s.free := rfl
@[simp] theorem modDrv_host (d : Nat) (f : DriveSt → DriveSt) : (s.modDrv d f).host = s.host := rfl
@[simp] theorem modDrv_txn (d : Nat) (f : DriveSt → DriveSt) : (s.modDrv d f).txn = s.txn := rfl
@[simp] theorem modDrv_pwr (d : Nat) (f : DriveSt → DriveSt) : (s.modDrv d f).pwr = s.pwr := rfl
@[simp] theorem modDrv_flt (d : Nat) (f : DriveSt → DriveSt) : (s.modDrv d f).flt = s.flt := rfl
@[simp] theorem modDrv_pwm (d : Nat) (f : DriveSt → DriveSt) : (s.modDrv d f).pwm = s.pwm := rfl
@[simp] theorem modDrv_pickers (d : Nat) (f : DriveSt → DriveSt) : (s.modDrv d f).pickers = s.pickers := rfl
@[simp] theorem modDrv_lanes (d : Nat) (f : DriveSt → DriveSt) : (s.modDrv d f).lanes = s.lanes := rfl
@[simp] theorem modDrv_gate (d : Nat) (f : DriveSt → DriveSt) : (s.modDrv d f).gate = s.gate := rfl
@[simp] theorem modDrv_bus (d : Nat) (f : DriveSt → DriveSt) : (s.modDrv d f).bus = s.bus := rfl
@[simp] theorem modDrv_convs (d : Nat) (f : DriveSt → DriveSt) : (s.modDrv d f).convs = s.convs := rfl
@[simp] theorem modDrv_fcQ (d : Nat) (f : DriveSt → DriveSt) : (s.modDrv d f).fcQ = s.fcQ := rfl
@[simp] theorem modDrv_checkers (d : Nat) (f : DriveSt → DriveSt) : (s.modDrv d f).checkers = s.checkers := rfl
@[simp] theorem modDrv_hk (d : Nat) (f : DriveSt → DriveSt) : (s.modDrv d f).hk = s.hk := rfl
@[simp] theorem modDrv_therm (d : Nat) (f : DriveSt → DriveSt) : (s.modDrv d f).therm = s.therm := rfl
@[simp] theorem modDrv_link (d : Nat) (f : DriveSt → DriveSt) : (s.modDrv d f).link = s.link := rfl
@[simp] theorem modDrv_chk (d : Nat) (f : DriveSt → DriveSt) : (s.modDrv d f).chk = s.chk := rfl
@[simp] theorem modDrv_sec (d : Nat) (f : DriveSt → DriveSt) : (s.modDrv d f).sec = s.sec := rfl
@[simp] theorem modDrv_perf (d : Nat) (f : DriveSt → DriveSt) : (s.modDrv d f).perf = s.perf := rfl
@[simp] theorem modDrv_posIn (d : Nat) (f : DriveSt → DriveSt) : (s.modDrv d f).posIn = s.posIn := rfl
@[simp] theorem modDrv_posSeen (d : Nat) (f : DriveSt → DriveSt) : (s.modDrv d f).posSeen = s.posSeen := rfl
@[simp] theorem modDrv_keys (d : Nat) (f : DriveSt → DriveSt) : (s.modDrv d f).keys = s.keys := rfl

@[simp] theorem setGen_pending (g : Nat) (x : Gen) : (s.setGen g x).pending = s.pending := rfl
@[simp] theorem setGen_epoch (g : Nat) (x : Gen) : (s.setGen g x).epoch = s.epoch := rfl
@[simp] theorem setGen_r (g : Nat) (x : Gen) : (s.setGen g x).r = s.r := rfl
@[simp] theorem setGen_rcTab (g : Nat) (x : Gen) : (s.setGen g x).rcTab = s.rcTab := rfl
@[simp] theorem setGen_pool (g : Nat) (x : Gen) : (s.setGen g x).pool = s.pool := rfl
@[simp] theorem setGen_mem (g : Nat) (x : Gen) : (s.setGen g x).mem = s.mem := rfl
@[simp] theorem setGen_free (g : Nat) (x : Gen) : (s.setGen g x).free = s.free := rfl
@[simp] theorem setGen_host (g : Nat) (x : Gen) : (s.setGen g x).host = s.host := rfl
@[simp] theorem setGen_txn (g : Nat) (x : Gen) : (s.setGen g x).txn = s.txn := rfl
@[simp] theorem setGen_pwr (g : Nat) (x : Gen) : (s.setGen g x).pwr = s.pwr := rfl
@[simp] theorem setGen_flt (g : Nat) (x : Gen) : (s.setGen g x).flt = s.flt := rfl
@[simp] theorem setGen_drives (g : Nat) (x : Gen) : (s.setGen g x).drives = s.drives := rfl
@[simp] theorem setGen_pickers (g : Nat) (x : Gen) : (s.setGen g x).pickers = s.pickers := rfl
@[simp] theorem setGen_lanes (g : Nat) (x : Gen) : (s.setGen g x).lanes = s.lanes := rfl
@[simp] theorem setGen_gate (g : Nat) (x : Gen) : (s.setGen g x).gate = s.gate := rfl
@[simp] theorem setGen_bus (g : Nat) (x : Gen) : (s.setGen g x).bus = s.bus := rfl
@[simp] theorem setGen_convs (g : Nat) (x : Gen) : (s.setGen g x).convs = s.convs := rfl
@[simp] theorem setGen_fcQ (g : Nat) (x : Gen) : (s.setGen g x).fcQ = s.fcQ := rfl
@[simp] theorem setGen_checkers (g : Nat) (x : Gen) : (s.setGen g x).checkers = s.checkers := rfl
@[simp] theorem setGen_hk (g : Nat) (x : Gen) : (s.setGen g x).hk = s.hk := rfl
@[simp] theorem setGen_therm (g : Nat) (x : Gen) : (s.setGen g x).therm = s.therm := rfl
@[simp] theorem setGen_link (g : Nat) (x : Gen) : (s.setGen g x).link = s.link := rfl
@[simp] theorem setGen_chk (g : Nat) (x : Gen) : (s.setGen g x).chk = s.chk := rfl
@[simp] theorem setGen_sec (g : Nat) (x : Gen) : (s.setGen g x).sec = s.sec := rfl
@[simp] theorem setGen_perf (g : Nat) (x : Gen) : (s.setGen g x).perf = s.perf := rfl
@[simp] theorem setGen_posIn (g : Nat) (x : Gen) : (s.setGen g x).posIn = s.posIn := rfl
@[simp] theorem setGen_posSeen (g : Nat) (x : Gen) : (s.setGen g x).posSeen = s.posSeen := rfl
@[simp] theorem setGen_keys (g : Nat) (x : Gen) : (s.setGen g x).keys = s.keys := rfl

@[simp] theorem modGen_pending (g : Nat) (f : Gen → Gen) : (s.modGen g f).pending = s.pending := rfl
@[simp] theorem modGen_epoch (g : Nat) (f : Gen → Gen) : (s.modGen g f).epoch = s.epoch := rfl
@[simp] theorem modGen_r (g : Nat) (f : Gen → Gen) : (s.modGen g f).r = s.r := rfl
@[simp] theorem modGen_rcTab (g : Nat) (f : Gen → Gen) : (s.modGen g f).rcTab = s.rcTab := rfl
@[simp] theorem modGen_pool (g : Nat) (f : Gen → Gen) : (s.modGen g f).pool = s.pool := rfl
@[simp] theorem modGen_mem (g : Nat) (f : Gen → Gen) : (s.modGen g f).mem = s.mem := rfl
@[simp] theorem modGen_free (g : Nat) (f : Gen → Gen) : (s.modGen g f).free = s.free := rfl
@[simp] theorem modGen_host (g : Nat) (f : Gen → Gen) : (s.modGen g f).host = s.host := rfl
@[simp] theorem modGen_txn (g : Nat) (f : Gen → Gen) : (s.modGen g f).txn = s.txn := rfl
@[simp] theorem modGen_pwr (g : Nat) (f : Gen → Gen) : (s.modGen g f).pwr = s.pwr := rfl
@[simp] theorem modGen_flt (g : Nat) (f : Gen → Gen) : (s.modGen g f).flt = s.flt := rfl
@[simp] theorem modGen_drives (g : Nat) (f : Gen → Gen) : (s.modGen g f).drives = s.drives := rfl
@[simp] theorem modGen_pickers (g : Nat) (f : Gen → Gen) : (s.modGen g f).pickers = s.pickers := rfl
@[simp] theorem modGen_lanes (g : Nat) (f : Gen → Gen) : (s.modGen g f).lanes = s.lanes := rfl
@[simp] theorem modGen_gate (g : Nat) (f : Gen → Gen) : (s.modGen g f).gate = s.gate := rfl
@[simp] theorem modGen_bus (g : Nat) (f : Gen → Gen) : (s.modGen g f).bus = s.bus := rfl
@[simp] theorem modGen_convs (g : Nat) (f : Gen → Gen) : (s.modGen g f).convs = s.convs := rfl
@[simp] theorem modGen_fcQ (g : Nat) (f : Gen → Gen) : (s.modGen g f).fcQ = s.fcQ := rfl
@[simp] theorem modGen_checkers (g : Nat) (f : Gen → Gen) : (s.modGen g f).checkers = s.checkers := rfl
@[simp] theorem modGen_hk (g : Nat) (f : Gen → Gen) : (s.modGen g f).hk = s.hk := rfl
@[simp] theorem modGen_therm (g : Nat) (f : Gen → Gen) : (s.modGen g f).therm = s.therm := rfl
@[simp] theorem modGen_link (g : Nat) (f : Gen → Gen) : (s.modGen g f).link = s.link := rfl
@[simp] theorem modGen_chk (g : Nat) (f : Gen → Gen) : (s.modGen g f).chk = s.chk := rfl
@[simp] theorem modGen_sec (g : Nat) (f : Gen → Gen) : (s.modGen g f).sec = s.sec := rfl
@[simp] theorem modGen_perf (g : Nat) (f : Gen → Gen) : (s.modGen g f).perf = s.perf := rfl
@[simp] theorem modGen_posIn (g : Nat) (f : Gen → Gen) : (s.modGen g f).posIn = s.posIn := rfl
@[simp] theorem modGen_posSeen (g : Nat) (f : Gen → Gen) : (s.modGen g f).posSeen = s.posSeen := rfl
@[simp] theorem modGen_keys (g : Nat) (f : Gen → Gen) : (s.modGen g f).keys = s.keys := rfl

@[simp] theorem setPicker_pending (b : Nat) (x : Picker) : (s.setPicker b x).pending = s.pending := rfl
@[simp] theorem setPicker_epoch (b : Nat) (x : Picker) : (s.setPicker b x).epoch = s.epoch := rfl
@[simp] theorem setPicker_r (b : Nat) (x : Picker) : (s.setPicker b x).r = s.r := rfl
@[simp] theorem setPicker_rcTab (b : Nat) (x : Picker) : (s.setPicker b x).rcTab = s.rcTab := rfl
@[simp] theorem setPicker_pool (b : Nat) (x : Picker) : (s.setPicker b x).pool = s.pool := rfl
@[simp] theorem setPicker_mem (b : Nat) (x : Picker) : (s.setPicker b x).mem = s.mem := rfl
@[simp] theorem setPicker_free (b : Nat) (x : Picker) : (s.setPicker b x).free = s.free := rfl
@[simp] theorem setPicker_host (b : Nat) (x : Picker) : (s.setPicker b x).host = s.host := rfl
@[simp] theorem setPicker_txn (b : Nat) (x : Picker) : (s.setPicker b x).txn = s.txn := rfl
@[simp] theorem setPicker_pwr (b : Nat) (x : Picker) : (s.setPicker b x).pwr = s.pwr := rfl
@[simp] theorem setPicker_flt (b : Nat) (x : Picker) : (s.setPicker b x).flt = s.flt := rfl
@[simp] theorem setPicker_pwm (b : Nat) (x : Picker) : (s.setPicker b x).pwm = s.pwm := rfl
@[simp] theorem setPicker_drives (b : Nat) (x : Picker) : (s.setPicker b x).drives = s.drives := rfl
@[simp] theorem setPicker_lanes (b : Nat) (x : Picker) : (s.setPicker b x).lanes = s.lanes := rfl
@[simp] theorem setPicker_gate (b : Nat) (x : Picker) : (s.setPicker b x).gate = s.gate := rfl
@[simp] theorem setPicker_bus (b : Nat) (x : Picker) : (s.setPicker b x).bus = s.bus := rfl
@[simp] theorem setPicker_convs (b : Nat) (x : Picker) : (s.setPicker b x).convs = s.convs := rfl
@[simp] theorem setPicker_fcQ (b : Nat) (x : Picker) : (s.setPicker b x).fcQ = s.fcQ := rfl
@[simp] theorem setPicker_checkers (b : Nat) (x : Picker) : (s.setPicker b x).checkers = s.checkers := rfl
@[simp] theorem setPicker_hk (b : Nat) (x : Picker) : (s.setPicker b x).hk = s.hk := rfl
@[simp] theorem setPicker_therm (b : Nat) (x : Picker) : (s.setPicker b x).therm = s.therm := rfl
@[simp] theorem setPicker_link (b : Nat) (x : Picker) : (s.setPicker b x).link = s.link := rfl
@[simp] theorem setPicker_chk (b : Nat) (x : Picker) : (s.setPicker b x).chk = s.chk := rfl
@[simp] theorem setPicker_sec (b : Nat) (x : Picker) : (s.setPicker b x).sec = s.sec := rfl
@[simp] theorem setPicker_perf (b : Nat) (x : Picker) : (s.setPicker b x).perf = s.perf := rfl
@[simp] theorem setPicker_posIn (b : Nat) (x : Picker) : (s.setPicker b x).posIn = s.posIn := rfl
@[simp] theorem setPicker_posSeen (b : Nat) (x : Picker) : (s.setPicker b x).posSeen = s.posSeen := rfl
@[simp] theorem setPicker_keys (b : Nat) (x : Picker) : (s.setPicker b x).keys = s.keys := rfl

@[simp] theorem setRing_pending (r : Nat) (x : RingSt) : (s.setRing r x).pending = s.pending := rfl
@[simp] theorem setRing_epoch (r : Nat) (x : RingSt) : (s.setRing r x).epoch = s.epoch := rfl
@[simp] theorem setRing_r (r : Nat) (x : RingSt) : (s.setRing r x).r = s.r := rfl
@[simp] theorem setRing_rcTab (r : Nat) (x : RingSt) : (s.setRing r x).rcTab = s.rcTab := rfl
@[simp] theorem setRing_pool (r : Nat) (x : RingSt) : (s.setRing r x).pool = s.pool := rfl
@[simp] theorem setRing_mem (r : Nat) (x : RingSt) : (s.setRing r x).mem = s.mem := rfl
@[simp] theorem setRing_free (r : Nat) (x : RingSt) : (s.setRing r x).free = s.free := rfl
@[simp] theorem setRing_txn (r : Nat) (x : RingSt) : (s.setRing r x).txn = s.txn := rfl
@[simp] theorem setRing_pwr (r : Nat) (x : RingSt) : (s.setRing r x).pwr = s.pwr := rfl
@[simp] theorem setRing_flt (r : Nat) (x : RingSt) : (s.setRing r x).flt = s.flt := rfl
@[simp] theorem setRing_pwm (r : Nat) (x : RingSt) : (s.setRing r x).pwm = s.pwm := rfl
@[simp] theorem setRing_drives (r : Nat) (x : RingSt) : (s.setRing r x).drives = s.drives := rfl
@[simp] theorem setRing_pickers (r : Nat) (x : RingSt) : (s.setRing r x).pickers = s.pickers := rfl
@[simp] theorem setRing_lanes (r : Nat) (x : RingSt) : (s.setRing r x).lanes = s.lanes := rfl
@[simp] theorem setRing_gate (r : Nat) (x : RingSt) : (s.setRing r x).gate = s.gate := rfl
@[simp] theorem setRing_bus (r : Nat) (x : RingSt) : (s.setRing r x).bus = s.bus := rfl
@[simp] theorem setRing_convs (r : Nat) (x : RingSt) : (s.setRing r x).convs = s.convs := rfl
@[simp] theorem setRing_fcQ (r : Nat) (x : RingSt) : (s.setRing r x).fcQ = s.fcQ := rfl
@[simp] theorem setRing_checkers (r : Nat) (x : RingSt) : (s.setRing r x).checkers = s.checkers := rfl
@[simp] theorem setRing_hk (r : Nat) (x : RingSt) : (s.setRing r x).hk = s.hk := rfl
@[simp] theorem setRing_therm (r : Nat) (x : RingSt) : (s.setRing r x).therm = s.therm := rfl
@[simp] theorem setRing_link (r : Nat) (x : RingSt) : (s.setRing r x).link = s.link := rfl
@[simp] theorem setRing_chk (r : Nat) (x : RingSt) : (s.setRing r x).chk = s.chk := rfl
@[simp] theorem setRing_sec (r : Nat) (x : RingSt) : (s.setRing r x).sec = s.sec := rfl
@[simp] theorem setRing_perf (r : Nat) (x : RingSt) : (s.setRing r x).perf = s.perf := rfl
@[simp] theorem setRing_posIn (r : Nat) (x : RingSt) : (s.setRing r x).posIn = s.posIn := rfl
@[simp] theorem setRing_posSeen (r : Nat) (x : RingSt) : (s.setRing r x).posSeen = s.posSeen := rfl
@[simp] theorem setRing_keys (r : Nat) (x : RingSt) : (s.setRing r x).keys = s.keys := rfl

@[simp] theorem setTxn_pending (i : Nat) (x : Txn) : (s.setTxn i x).pending = s.pending := rfl
@[simp] theorem setTxn_epoch (i : Nat) (x : Txn) : (s.setTxn i x).epoch = s.epoch := rfl
@[simp] theorem setTxn_r (i : Nat) (x : Txn) : (s.setTxn i x).r = s.r := rfl
@[simp] theorem setTxn_rcTab (i : Nat) (x : Txn) : (s.setTxn i x).rcTab = s.rcTab := rfl
@[simp] theorem setTxn_pool (i : Nat) (x : Txn) : (s.setTxn i x).pool = s.pool := rfl
@[simp] theorem setTxn_mem (i : Nat) (x : Txn) : (s.setTxn i x).mem = s.mem := rfl
@[simp] theorem setTxn_free (i : Nat) (x : Txn) : (s.setTxn i x).free = s.free := rfl
@[simp] theorem setTxn_host (i : Nat) (x : Txn) : (s.setTxn i x).host = s.host := rfl
@[simp] theorem setTxn_pwr (i : Nat) (x : Txn) : (s.setTxn i x).pwr = s.pwr := rfl
@[simp] theorem setTxn_flt (i : Nat) (x : Txn) : (s.setTxn i x).flt = s.flt := rfl
@[simp] theorem setTxn_pwm (i : Nat) (x : Txn) : (s.setTxn i x).pwm = s.pwm := rfl
@[simp] theorem setTxn_drives (i : Nat) (x : Txn) : (s.setTxn i x).drives = s.drives := rfl
@[simp] theorem setTxn_pickers (i : Nat) (x : Txn) : (s.setTxn i x).pickers = s.pickers := rfl
@[simp] theorem setTxn_lanes (i : Nat) (x : Txn) : (s.setTxn i x).lanes = s.lanes := rfl
@[simp] theorem setTxn_gate (i : Nat) (x : Txn) : (s.setTxn i x).gate = s.gate := rfl
@[simp] theorem setTxn_bus (i : Nat) (x : Txn) : (s.setTxn i x).bus = s.bus := rfl
@[simp] theorem setTxn_convs (i : Nat) (x : Txn) : (s.setTxn i x).convs = s.convs := rfl
@[simp] theorem setTxn_fcQ (i : Nat) (x : Txn) : (s.setTxn i x).fcQ = s.fcQ := rfl
@[simp] theorem setTxn_checkers (i : Nat) (x : Txn) : (s.setTxn i x).checkers = s.checkers := rfl
@[simp] theorem setTxn_hk (i : Nat) (x : Txn) : (s.setTxn i x).hk = s.hk := rfl
@[simp] theorem setTxn_therm (i : Nat) (x : Txn) : (s.setTxn i x).therm = s.therm := rfl
@[simp] theorem setTxn_link (i : Nat) (x : Txn) : (s.setTxn i x).link = s.link := rfl
@[simp] theorem setTxn_chk (i : Nat) (x : Txn) : (s.setTxn i x).chk = s.chk := rfl
@[simp] theorem setTxn_sec (i : Nat) (x : Txn) : (s.setTxn i x).sec = s.sec := rfl
@[simp] theorem setTxn_perf (i : Nat) (x : Txn) : (s.setTxn i x).perf = s.perf := rfl
@[simp] theorem setTxn_posIn (i : Nat) (x : Txn) : (s.setTxn i x).posIn = s.posIn := rfl
@[simp] theorem setTxn_posSeen (i : Nat) (x : Txn) : (s.setTxn i x).posSeen = s.posSeen := rfl
@[simp] theorem setTxn_keys (i : Nat) (x : Txn) : (s.setTxn i x).keys = s.keys := rfl

@[simp] theorem setSnap_pending (i : Nat) (x : Snapshot) : (s.setSnap i x).pending = s.pending := rfl
@[simp] theorem setSnap_epoch (i : Nat) (x : Snapshot) : (s.setSnap i x).epoch = s.epoch := rfl
@[simp] theorem setSnap_r (i : Nat) (x : Snapshot) : (s.setSnap i x).r = s.r := rfl
@[simp] theorem setSnap_rcTab (i : Nat) (x : Snapshot) : (s.setSnap i x).rcTab = s.rcTab := rfl
@[simp] theorem setSnap_pool (i : Nat) (x : Snapshot) : (s.setSnap i x).pool = s.pool := rfl
@[simp] theorem setSnap_mem (i : Nat) (x : Snapshot) : (s.setSnap i x).mem = s.mem := rfl
@[simp] theorem setSnap_free (i : Nat) (x : Snapshot) : (s.setSnap i x).free = s.free := rfl
@[simp] theorem setSnap_txn (i : Nat) (x : Snapshot) : (s.setSnap i x).txn = s.txn := rfl
@[simp] theorem setSnap_pwr (i : Nat) (x : Snapshot) : (s.setSnap i x).pwr = s.pwr := rfl
@[simp] theorem setSnap_flt (i : Nat) (x : Snapshot) : (s.setSnap i x).flt = s.flt := rfl
@[simp] theorem setSnap_pwm (i : Nat) (x : Snapshot) : (s.setSnap i x).pwm = s.pwm := rfl
@[simp] theorem setSnap_drives (i : Nat) (x : Snapshot) : (s.setSnap i x).drives = s.drives := rfl
@[simp] theorem setSnap_pickers (i : Nat) (x : Snapshot) : (s.setSnap i x).pickers = s.pickers := rfl
@[simp] theorem setSnap_lanes (i : Nat) (x : Snapshot) : (s.setSnap i x).lanes = s.lanes := rfl
@[simp] theorem setSnap_gate (i : Nat) (x : Snapshot) : (s.setSnap i x).gate = s.gate := rfl
@[simp] theorem setSnap_bus (i : Nat) (x : Snapshot) : (s.setSnap i x).bus = s.bus := rfl
@[simp] theorem setSnap_convs (i : Nat) (x : Snapshot) : (s.setSnap i x).convs = s.convs := rfl
@[simp] theorem setSnap_fcQ (i : Nat) (x : Snapshot) : (s.setSnap i x).fcQ = s.fcQ := rfl
@[simp] theorem setSnap_checkers (i : Nat) (x : Snapshot) : (s.setSnap i x).checkers = s.checkers := rfl
@[simp] theorem setSnap_hk (i : Nat) (x : Snapshot) : (s.setSnap i x).hk = s.hk := rfl
@[simp] theorem setSnap_therm (i : Nat) (x : Snapshot) : (s.setSnap i x).therm = s.therm := rfl
@[simp] theorem setSnap_link (i : Nat) (x : Snapshot) : (s.setSnap i x).link = s.link := rfl
@[simp] theorem setSnap_chk (i : Nat) (x : Snapshot) : (s.setSnap i x).chk = s.chk := rfl
@[simp] theorem setSnap_sec (i : Nat) (x : Snapshot) : (s.setSnap i x).sec = s.sec := rfl
@[simp] theorem setSnap_perf (i : Nat) (x : Snapshot) : (s.setSnap i x).perf = s.perf := rfl
@[simp] theorem setSnap_posIn (i : Nat) (x : Snapshot) : (s.setSnap i x).posIn = s.posIn := rfl
@[simp] theorem setSnap_posSeen (i : Nat) (x : Snapshot) : (s.setSnap i x).posSeen = s.posSeen := rfl
@[simp] theorem setSnap_keys (i : Nat) (x : Snapshot) : (s.setSnap i x).keys = s.keys := rfl

@[simp] theorem setRdata_pending (i v : Nat) : (s.setRdata i v).pending = s.pending := rfl
@[simp] theorem setRdata_epoch (i v : Nat) : (s.setRdata i v).epoch = s.epoch := rfl
@[simp] theorem setRdata_r (i v : Nat) : (s.setRdata i v).r = s.r := rfl
@[simp] theorem setRdata_rcTab (i v : Nat) : (s.setRdata i v).rcTab = s.rcTab := rfl
@[simp] theorem setRdata_pool (i v : Nat) : (s.setRdata i v).pool = s.pool := rfl
@[simp] theorem setRdata_mem (i v : Nat) : (s.setRdata i v).mem = s.mem := rfl
@[simp] theorem setRdata_free (i v : Nat) : (s.setRdata i v).free = s.free := rfl
@[simp] theorem setRdata_txn (i v : Nat) : (s.setRdata i v).txn = s.txn := rfl
@[simp] theorem setRdata_pwr (i v : Nat) : (s.setRdata i v).pwr = s.pwr := rfl
@[simp] theorem setRdata_flt (i v : Nat) : (s.setRdata i v).flt = s.flt := rfl
@[simp] theorem setRdata_pwm (i v : Nat) : (s.setRdata i v).pwm = s.pwm := rfl
@[simp] theorem setRdata_drives (i v : Nat) : (s.setRdata i v).drives = s.drives := rfl
@[simp] theorem setRdata_pickers (i v : Nat) : (s.setRdata i v).pickers = s.pickers := rfl
@[simp] theorem setRdata_lanes (i v : Nat) : (s.setRdata i v).lanes = s.lanes := rfl
@[simp] theorem setRdata_gate (i v : Nat) : (s.setRdata i v).gate = s.gate := rfl
@[simp] theorem setRdata_bus (i v : Nat) : (s.setRdata i v).bus = s.bus := rfl
@[simp] theorem setRdata_convs (i v : Nat) : (s.setRdata i v).convs = s.convs := rfl
@[simp] theorem setRdata_fcQ (i v : Nat) : (s.setRdata i v).fcQ = s.fcQ := rfl
@[simp] theorem setRdata_checkers (i v : Nat) : (s.setRdata i v).checkers = s.checkers := rfl
@[simp] theorem setRdata_hk (i v : Nat) : (s.setRdata i v).hk = s.hk := rfl
@[simp] theorem setRdata_therm (i v : Nat) : (s.setRdata i v).therm = s.therm := rfl
@[simp] theorem setRdata_link (i v : Nat) : (s.setRdata i v).link = s.link := rfl
@[simp] theorem setRdata_chk (i v : Nat) : (s.setRdata i v).chk = s.chk := rfl
@[simp] theorem setRdata_sec (i v : Nat) : (s.setRdata i v).sec = s.sec := rfl
@[simp] theorem setRdata_perf (i v : Nat) : (s.setRdata i v).perf = s.perf := rfl
@[simp] theorem setRdata_posIn (i v : Nat) : (s.setRdata i v).posIn = s.posIn := rfl
@[simp] theorem setRdata_posSeen (i v : Nat) : (s.setRdata i v).posSeen = s.posSeen := rfl
@[simp] theorem setRdata_keys (i v : Nat) : (s.setRdata i v).keys = s.keys := rfl

@[simp] theorem setTrip_pending (t : Nat) (x : TripSt) : (s.setTrip t x).pending = s.pending := rfl
@[simp] theorem setTrip_epoch (t : Nat) (x : TripSt) : (s.setTrip t x).epoch = s.epoch := rfl
@[simp] theorem setTrip_r (t : Nat) (x : TripSt) : (s.setTrip t x).r = s.r := rfl
@[simp] theorem setTrip_rcTab (t : Nat) (x : TripSt) : (s.setTrip t x).rcTab = s.rcTab := rfl
@[simp] theorem setTrip_pool (t : Nat) (x : TripSt) : (s.setTrip t x).pool = s.pool := rfl
@[simp] theorem setTrip_mem (t : Nat) (x : TripSt) : (s.setTrip t x).mem = s.mem := rfl
@[simp] theorem setTrip_free (t : Nat) (x : TripSt) : (s.setTrip t x).free = s.free := rfl
@[simp] theorem setTrip_host (t : Nat) (x : TripSt) : (s.setTrip t x).host = s.host := rfl
@[simp] theorem setTrip_txn (t : Nat) (x : TripSt) : (s.setTrip t x).txn = s.txn := rfl
@[simp] theorem setTrip_pwr (t : Nat) (x : TripSt) : (s.setTrip t x).pwr = s.pwr := rfl
@[simp] theorem setTrip_flt (t : Nat) (x : TripSt) : (s.setTrip t x).flt = s.flt := rfl
@[simp] theorem setTrip_drives (t : Nat) (x : TripSt) : (s.setTrip t x).drives = s.drives := rfl
@[simp] theorem setTrip_pickers (t : Nat) (x : TripSt) : (s.setTrip t x).pickers = s.pickers := rfl
@[simp] theorem setTrip_lanes (t : Nat) (x : TripSt) : (s.setTrip t x).lanes = s.lanes := rfl
@[simp] theorem setTrip_gate (t : Nat) (x : TripSt) : (s.setTrip t x).gate = s.gate := rfl
@[simp] theorem setTrip_bus (t : Nat) (x : TripSt) : (s.setTrip t x).bus = s.bus := rfl
@[simp] theorem setTrip_convs (t : Nat) (x : TripSt) : (s.setTrip t x).convs = s.convs := rfl
@[simp] theorem setTrip_fcQ (t : Nat) (x : TripSt) : (s.setTrip t x).fcQ = s.fcQ := rfl
@[simp] theorem setTrip_checkers (t : Nat) (x : TripSt) : (s.setTrip t x).checkers = s.checkers := rfl
@[simp] theorem setTrip_hk (t : Nat) (x : TripSt) : (s.setTrip t x).hk = s.hk := rfl
@[simp] theorem setTrip_therm (t : Nat) (x : TripSt) : (s.setTrip t x).therm = s.therm := rfl
@[simp] theorem setTrip_link (t : Nat) (x : TripSt) : (s.setTrip t x).link = s.link := rfl
@[simp] theorem setTrip_chk (t : Nat) (x : TripSt) : (s.setTrip t x).chk = s.chk := rfl
@[simp] theorem setTrip_sec (t : Nat) (x : TripSt) : (s.setTrip t x).sec = s.sec := rfl
@[simp] theorem setTrip_perf (t : Nat) (x : TripSt) : (s.setTrip t x).perf = s.perf := rfl
@[simp] theorem setTrip_posIn (t : Nat) (x : TripSt) : (s.setTrip t x).posIn = s.posIn := rfl
@[simp] theorem setTrip_posSeen (t : Nat) (x : TripSt) : (s.setTrip t x).posSeen = s.posSeen := rfl
@[simp] theorem setTrip_keys (t : Nat) (x : TripSt) : (s.setTrip t x).keys = s.keys := rfl

@[simp] theorem setDie_pending (j : Nat) (x : DieSt) : (s.setDie j x).pending = s.pending := rfl
@[simp] theorem setDie_epoch (j : Nat) (x : DieSt) : (s.setDie j x).epoch = s.epoch := rfl
@[simp] theorem setDie_r (j : Nat) (x : DieSt) : (s.setDie j x).r = s.r := rfl
@[simp] theorem setDie_rcTab (j : Nat) (x : DieSt) : (s.setDie j x).rcTab = s.rcTab := rfl
@[simp] theorem setDie_pool (j : Nat) (x : DieSt) : (s.setDie j x).pool = s.pool := rfl
@[simp] theorem setDie_mem (j : Nat) (x : DieSt) : (s.setDie j x).mem = s.mem := rfl
@[simp] theorem setDie_free (j : Nat) (x : DieSt) : (s.setDie j x).free = s.free := rfl
@[simp] theorem setDie_host (j : Nat) (x : DieSt) : (s.setDie j x).host = s.host := rfl
@[simp] theorem setDie_txn (j : Nat) (x : DieSt) : (s.setDie j x).txn = s.txn := rfl
@[simp] theorem setDie_pwr (j : Nat) (x : DieSt) : (s.setDie j x).pwr = s.pwr := rfl
@[simp] theorem setDie_flt (j : Nat) (x : DieSt) : (s.setDie j x).flt = s.flt := rfl
@[simp] theorem setDie_pwm (j : Nat) (x : DieSt) : (s.setDie j x).pwm = s.pwm := rfl
@[simp] theorem setDie_drives (j : Nat) (x : DieSt) : (s.setDie j x).drives = s.drives := rfl
@[simp] theorem setDie_pickers (j : Nat) (x : DieSt) : (s.setDie j x).pickers = s.pickers := rfl
@[simp] theorem setDie_lanes (j : Nat) (x : DieSt) : (s.setDie j x).lanes = s.lanes := rfl
@[simp] theorem setDie_bus (j : Nat) (x : DieSt) : (s.setDie j x).bus = s.bus := rfl
@[simp] theorem setDie_convs (j : Nat) (x : DieSt) : (s.setDie j x).convs = s.convs := rfl
@[simp] theorem setDie_fcQ (j : Nat) (x : DieSt) : (s.setDie j x).fcQ = s.fcQ := rfl
@[simp] theorem setDie_checkers (j : Nat) (x : DieSt) : (s.setDie j x).checkers = s.checkers := rfl
@[simp] theorem setDie_hk (j : Nat) (x : DieSt) : (s.setDie j x).hk = s.hk := rfl
@[simp] theorem setDie_therm (j : Nat) (x : DieSt) : (s.setDie j x).therm = s.therm := rfl
@[simp] theorem setDie_link (j : Nat) (x : DieSt) : (s.setDie j x).link = s.link := rfl
@[simp] theorem setDie_chk (j : Nat) (x : DieSt) : (s.setDie j x).chk = s.chk := rfl
@[simp] theorem setDie_sec (j : Nat) (x : DieSt) : (s.setDie j x).sec = s.sec := rfl
@[simp] theorem setDie_perf (j : Nat) (x : DieSt) : (s.setDie j x).perf = s.perf := rfl
@[simp] theorem setDie_posIn (j : Nat) (x : DieSt) : (s.setDie j x).posIn = s.posIn := rfl
@[simp] theorem setDie_posSeen (j : Nat) (x : DieSt) : (s.setDie j x).posSeen = s.posSeen := rfl
@[simp] theorem setDie_keys (j : Nat) (x : DieSt) : (s.setDie j x).keys = s.keys := rfl

@[simp] theorem setChan_pending (g : Nat) (x : ChanSt) : (s.setChan g x).pending = s.pending := rfl
@[simp] theorem setChan_epoch (g : Nat) (x : ChanSt) : (s.setChan g x).epoch = s.epoch := rfl
@[simp] theorem setChan_r (g : Nat) (x : ChanSt) : (s.setChan g x).r = s.r := rfl
@[simp] theorem setChan_rcTab (g : Nat) (x : ChanSt) : (s.setChan g x).rcTab = s.rcTab := rfl
@[simp] theorem setChan_pool (g : Nat) (x : ChanSt) : (s.setChan g x).pool = s.pool := rfl
@[simp] theorem setChan_mem (g : Nat) (x : ChanSt) : (s.setChan g x).mem = s.mem := rfl
@[simp] theorem setChan_free (g : Nat) (x : ChanSt) : (s.setChan g x).free = s.free := rfl
@[simp] theorem setChan_host (g : Nat) (x : ChanSt) : (s.setChan g x).host = s.host := rfl
@[simp] theorem setChan_txn (g : Nat) (x : ChanSt) : (s.setChan g x).txn = s.txn := rfl
@[simp] theorem setChan_pwr (g : Nat) (x : ChanSt) : (s.setChan g x).pwr = s.pwr := rfl
@[simp] theorem setChan_flt (g : Nat) (x : ChanSt) : (s.setChan g x).flt = s.flt := rfl
@[simp] theorem setChan_pwm (g : Nat) (x : ChanSt) : (s.setChan g x).pwm = s.pwm := rfl
@[simp] theorem setChan_drives (g : Nat) (x : ChanSt) : (s.setChan g x).drives = s.drives := rfl
@[simp] theorem setChan_pickers (g : Nat) (x : ChanSt) : (s.setChan g x).pickers = s.pickers := rfl
@[simp] theorem setChan_lanes (g : Nat) (x : ChanSt) : (s.setChan g x).lanes = s.lanes := rfl
@[simp] theorem setChan_bus (g : Nat) (x : ChanSt) : (s.setChan g x).bus = s.bus := rfl
@[simp] theorem setChan_convs (g : Nat) (x : ChanSt) : (s.setChan g x).convs = s.convs := rfl
@[simp] theorem setChan_fcQ (g : Nat) (x : ChanSt) : (s.setChan g x).fcQ = s.fcQ := rfl
@[simp] theorem setChan_checkers (g : Nat) (x : ChanSt) : (s.setChan g x).checkers = s.checkers := rfl
@[simp] theorem setChan_hk (g : Nat) (x : ChanSt) : (s.setChan g x).hk = s.hk := rfl
@[simp] theorem setChan_therm (g : Nat) (x : ChanSt) : (s.setChan g x).therm = s.therm := rfl
@[simp] theorem setChan_link (g : Nat) (x : ChanSt) : (s.setChan g x).link = s.link := rfl
@[simp] theorem setChan_chk (g : Nat) (x : ChanSt) : (s.setChan g x).chk = s.chk := rfl
@[simp] theorem setChan_sec (g : Nat) (x : ChanSt) : (s.setChan g x).sec = s.sec := rfl
@[simp] theorem setChan_perf (g : Nat) (x : ChanSt) : (s.setChan g x).perf = s.perf := rfl
@[simp] theorem setChan_posIn (g : Nat) (x : ChanSt) : (s.setChan g x).posIn = s.posIn := rfl
@[simp] theorem setChan_posSeen (g : Nat) (x : ChanSt) : (s.setChan g x).posSeen = s.posSeen := rfl
@[simp] theorem setChan_keys (g : Nat) (x : ChanSt) : (s.setChan g x).keys = s.keys := rfl

@[simp] theorem setSoft_pending (b : Nat) (x : Option Nat) : (s.setSoft b x).pending = s.pending := rfl
@[simp] theorem setSoft_epoch (b : Nat) (x : Option Nat) : (s.setSoft b x).epoch = s.epoch := rfl
@[simp] theorem setSoft_r (b : Nat) (x : Option Nat) : (s.setSoft b x).r = s.r := rfl
@[simp] theorem setSoft_rcTab (b : Nat) (x : Option Nat) : (s.setSoft b x).rcTab = s.rcTab := rfl
@[simp] theorem setSoft_pool (b : Nat) (x : Option Nat) : (s.setSoft b x).pool = s.pool := rfl
@[simp] theorem setSoft_mem (b : Nat) (x : Option Nat) : (s.setSoft b x).mem = s.mem := rfl
@[simp] theorem setSoft_free (b : Nat) (x : Option Nat) : (s.setSoft b x).free = s.free := rfl
@[simp] theorem setSoft_host (b : Nat) (x : Option Nat) : (s.setSoft b x).host = s.host := rfl
@[simp] theorem setSoft_txn (b : Nat) (x : Option Nat) : (s.setSoft b x).txn = s.txn := rfl
@[simp] theorem setSoft_pwr (b : Nat) (x : Option Nat) : (s.setSoft b x).pwr = s.pwr := rfl
@[simp] theorem setSoft_flt (b : Nat) (x : Option Nat) : (s.setSoft b x).flt = s.flt := rfl
@[simp] theorem setSoft_pwm (b : Nat) (x : Option Nat) : (s.setSoft b x).pwm = s.pwm := rfl
@[simp] theorem setSoft_drives (b : Nat) (x : Option Nat) : (s.setSoft b x).drives = s.drives := rfl
@[simp] theorem setSoft_pickers (b : Nat) (x : Option Nat) : (s.setSoft b x).pickers = s.pickers := rfl
@[simp] theorem setSoft_lanes (b : Nat) (x : Option Nat) : (s.setSoft b x).lanes = s.lanes := rfl
@[simp] theorem setSoft_bus (b : Nat) (x : Option Nat) : (s.setSoft b x).bus = s.bus := rfl
@[simp] theorem setSoft_convs (b : Nat) (x : Option Nat) : (s.setSoft b x).convs = s.convs := rfl
@[simp] theorem setSoft_fcQ (b : Nat) (x : Option Nat) : (s.setSoft b x).fcQ = s.fcQ := rfl
@[simp] theorem setSoft_checkers (b : Nat) (x : Option Nat) : (s.setSoft b x).checkers = s.checkers := rfl
@[simp] theorem setSoft_hk (b : Nat) (x : Option Nat) : (s.setSoft b x).hk = s.hk := rfl
@[simp] theorem setSoft_therm (b : Nat) (x : Option Nat) : (s.setSoft b x).therm = s.therm := rfl
@[simp] theorem setSoft_link (b : Nat) (x : Option Nat) : (s.setSoft b x).link = s.link := rfl
@[simp] theorem setSoft_chk (b : Nat) (x : Option Nat) : (s.setSoft b x).chk = s.chk := rfl
@[simp] theorem setSoft_sec (b : Nat) (x : Option Nat) : (s.setSoft b x).sec = s.sec := rfl
@[simp] theorem setSoft_perf (b : Nat) (x : Option Nat) : (s.setSoft b x).perf = s.perf := rfl
@[simp] theorem setSoft_posIn (b : Nat) (x : Option Nat) : (s.setSoft b x).posIn = s.posIn := rfl
@[simp] theorem setSoft_posSeen (b : Nat) (x : Option Nat) : (s.setSoft b x).posSeen = s.posSeen := rfl
@[simp] theorem setSoft_keys (b : Nat) (x : Option Nat) : (s.setSoft b x).keys = s.keys := rfl

@[simp] theorem setGrp_pending (n : Nat) (x : BusGrp) : (s.setGrp n x).pending = s.pending := rfl
@[simp] theorem setGrp_epoch (n : Nat) (x : BusGrp) : (s.setGrp n x).epoch = s.epoch := rfl
@[simp] theorem setGrp_r (n : Nat) (x : BusGrp) : (s.setGrp n x).r = s.r := rfl
@[simp] theorem setGrp_rcTab (n : Nat) (x : BusGrp) : (s.setGrp n x).rcTab = s.rcTab := rfl
@[simp] theorem setGrp_pool (n : Nat) (x : BusGrp) : (s.setGrp n x).pool = s.pool := rfl
@[simp] theorem setGrp_mem (n : Nat) (x : BusGrp) : (s.setGrp n x).mem = s.mem := rfl
@[simp] theorem setGrp_free (n : Nat) (x : BusGrp) : (s.setGrp n x).free = s.free := rfl
@[simp] theorem setGrp_host (n : Nat) (x : BusGrp) : (s.setGrp n x).host = s.host := rfl
@[simp] theorem setGrp_txn (n : Nat) (x : BusGrp) : (s.setGrp n x).txn = s.txn := rfl
@[simp] theorem setGrp_pwr (n : Nat) (x : BusGrp) : (s.setGrp n x).pwr = s.pwr := rfl
@[simp] theorem setGrp_flt (n : Nat) (x : BusGrp) : (s.setGrp n x).flt = s.flt := rfl
@[simp] theorem setGrp_pwm (n : Nat) (x : BusGrp) : (s.setGrp n x).pwm = s.pwm := rfl
@[simp] theorem setGrp_drives (n : Nat) (x : BusGrp) : (s.setGrp n x).drives = s.drives := rfl
@[simp] theorem setGrp_pickers (n : Nat) (x : BusGrp) : (s.setGrp n x).pickers = s.pickers := rfl
@[simp] theorem setGrp_lanes (n : Nat) (x : BusGrp) : (s.setGrp n x).lanes = s.lanes := rfl
@[simp] theorem setGrp_gate (n : Nat) (x : BusGrp) : (s.setGrp n x).gate = s.gate := rfl
@[simp] theorem setGrp_convs (n : Nat) (x : BusGrp) : (s.setGrp n x).convs = s.convs := rfl
@[simp] theorem setGrp_fcQ (n : Nat) (x : BusGrp) : (s.setGrp n x).fcQ = s.fcQ := rfl
@[simp] theorem setGrp_checkers (n : Nat) (x : BusGrp) : (s.setGrp n x).checkers = s.checkers := rfl
@[simp] theorem setGrp_hk (n : Nat) (x : BusGrp) : (s.setGrp n x).hk = s.hk := rfl
@[simp] theorem setGrp_therm (n : Nat) (x : BusGrp) : (s.setGrp n x).therm = s.therm := rfl
@[simp] theorem setGrp_link (n : Nat) (x : BusGrp) : (s.setGrp n x).link = s.link := rfl
@[simp] theorem setGrp_chk (n : Nat) (x : BusGrp) : (s.setGrp n x).chk = s.chk := rfl
@[simp] theorem setGrp_sec (n : Nat) (x : BusGrp) : (s.setGrp n x).sec = s.sec := rfl
@[simp] theorem setGrp_perf (n : Nat) (x : BusGrp) : (s.setGrp n x).perf = s.perf := rfl
@[simp] theorem setGrp_posIn (n : Nat) (x : BusGrp) : (s.setGrp n x).posIn = s.posIn := rfl
@[simp] theorem setGrp_posSeen (n : Nat) (x : BusGrp) : (s.setGrp n x).posSeen = s.posSeen := rfl
@[simp] theorem setGrp_keys (n : Nat) (x : BusGrp) : (s.setGrp n x).keys = s.keys := rfl

@[simp] theorem setChop_pending (c : Nat) (x : Chop) : (s.setChop c x).pending = s.pending := rfl
@[simp] theorem setChop_epoch (c : Nat) (x : Chop) : (s.setChop c x).epoch = s.epoch := rfl
@[simp] theorem setChop_r (c : Nat) (x : Chop) : (s.setChop c x).r = s.r := rfl
@[simp] theorem setChop_rcTab (c : Nat) (x : Chop) : (s.setChop c x).rcTab = s.rcTab := rfl
@[simp] theorem setChop_pool (c : Nat) (x : Chop) : (s.setChop c x).pool = s.pool := rfl
@[simp] theorem setChop_mem (c : Nat) (x : Chop) : (s.setChop c x).mem = s.mem := rfl
@[simp] theorem setChop_free (c : Nat) (x : Chop) : (s.setChop c x).free = s.free := rfl
@[simp] theorem setChop_host (c : Nat) (x : Chop) : (s.setChop c x).host = s.host := rfl
@[simp] theorem setChop_txn (c : Nat) (x : Chop) : (s.setChop c x).txn = s.txn := rfl
@[simp] theorem setChop_pwr (c : Nat) (x : Chop) : (s.setChop c x).pwr = s.pwr := rfl
@[simp] theorem setChop_flt (c : Nat) (x : Chop) : (s.setChop c x).flt = s.flt := rfl
@[simp] theorem setChop_pwm (c : Nat) (x : Chop) : (s.setChop c x).pwm = s.pwm := rfl
@[simp] theorem setChop_drives (c : Nat) (x : Chop) : (s.setChop c x).drives = s.drives := rfl
@[simp] theorem setChop_pickers (c : Nat) (x : Chop) : (s.setChop c x).pickers = s.pickers := rfl
@[simp] theorem setChop_lanes (c : Nat) (x : Chop) : (s.setChop c x).lanes = s.lanes := rfl
@[simp] theorem setChop_gate (c : Nat) (x : Chop) : (s.setChop c x).gate = s.gate := rfl
@[simp] theorem setChop_convs (c : Nat) (x : Chop) : (s.setChop c x).convs = s.convs := rfl
@[simp] theorem setChop_fcQ (c : Nat) (x : Chop) : (s.setChop c x).fcQ = s.fcQ := rfl
@[simp] theorem setChop_checkers (c : Nat) (x : Chop) : (s.setChop c x).checkers = s.checkers := rfl
@[simp] theorem setChop_hk (c : Nat) (x : Chop) : (s.setChop c x).hk = s.hk := rfl
@[simp] theorem setChop_therm (c : Nat) (x : Chop) : (s.setChop c x).therm = s.therm := rfl
@[simp] theorem setChop_link (c : Nat) (x : Chop) : (s.setChop c x).link = s.link := rfl
@[simp] theorem setChop_chk (c : Nat) (x : Chop) : (s.setChop c x).chk = s.chk := rfl
@[simp] theorem setChop_sec (c : Nat) (x : Chop) : (s.setChop c x).sec = s.sec := rfl
@[simp] theorem setChop_perf (c : Nat) (x : Chop) : (s.setChop c x).perf = s.perf := rfl
@[simp] theorem setChop_posIn (c : Nat) (x : Chop) : (s.setChop c x).posIn = s.posIn := rfl
@[simp] theorem setChop_posSeen (c : Nat) (x : Chop) : (s.setChop c x).posSeen = s.posSeen := rfl
@[simp] theorem setChop_keys (c : Nat) (x : Chop) : (s.setChop c x).keys = s.keys := rfl

@[simp] theorem setConv_pending (k : Nat) (x : Conv) : (s.setConv k x).pending = s.pending := rfl
@[simp] theorem setConv_epoch (k : Nat) (x : Conv) : (s.setConv k x).epoch = s.epoch := rfl
@[simp] theorem setConv_r (k : Nat) (x : Conv) : (s.setConv k x).r = s.r := rfl
@[simp] theorem setConv_rcTab (k : Nat) (x : Conv) : (s.setConv k x).rcTab = s.rcTab := rfl
@[simp] theorem setConv_pool (k : Nat) (x : Conv) : (s.setConv k x).pool = s.pool := rfl
@[simp] theorem setConv_mem (k : Nat) (x : Conv) : (s.setConv k x).mem = s.mem := rfl
@[simp] theorem setConv_free (k : Nat) (x : Conv) : (s.setConv k x).free = s.free := rfl
@[simp] theorem setConv_host (k : Nat) (x : Conv) : (s.setConv k x).host = s.host := rfl
@[simp] theorem setConv_txn (k : Nat) (x : Conv) : (s.setConv k x).txn = s.txn := rfl
@[simp] theorem setConv_pwr (k : Nat) (x : Conv) : (s.setConv k x).pwr = s.pwr := rfl
@[simp] theorem setConv_flt (k : Nat) (x : Conv) : (s.setConv k x).flt = s.flt := rfl
@[simp] theorem setConv_pwm (k : Nat) (x : Conv) : (s.setConv k x).pwm = s.pwm := rfl
@[simp] theorem setConv_drives (k : Nat) (x : Conv) : (s.setConv k x).drives = s.drives := rfl
@[simp] theorem setConv_pickers (k : Nat) (x : Conv) : (s.setConv k x).pickers = s.pickers := rfl
@[simp] theorem setConv_lanes (k : Nat) (x : Conv) : (s.setConv k x).lanes = s.lanes := rfl
@[simp] theorem setConv_gate (k : Nat) (x : Conv) : (s.setConv k x).gate = s.gate := rfl
@[simp] theorem setConv_bus (k : Nat) (x : Conv) : (s.setConv k x).bus = s.bus := rfl
@[simp] theorem setConv_fcQ (k : Nat) (x : Conv) : (s.setConv k x).fcQ = s.fcQ := rfl
@[simp] theorem setConv_checkers (k : Nat) (x : Conv) : (s.setConv k x).checkers = s.checkers := rfl
@[simp] theorem setConv_hk (k : Nat) (x : Conv) : (s.setConv k x).hk = s.hk := rfl
@[simp] theorem setConv_therm (k : Nat) (x : Conv) : (s.setConv k x).therm = s.therm := rfl
@[simp] theorem setConv_link (k : Nat) (x : Conv) : (s.setConv k x).link = s.link := rfl
@[simp] theorem setConv_chk (k : Nat) (x : Conv) : (s.setConv k x).chk = s.chk := rfl
@[simp] theorem setConv_sec (k : Nat) (x : Conv) : (s.setConv k x).sec = s.sec := rfl
@[simp] theorem setConv_perf (k : Nat) (x : Conv) : (s.setConv k x).perf = s.perf := rfl
@[simp] theorem setConv_posIn (k : Nat) (x : Conv) : (s.setConv k x).posIn = s.posIn := rfl
@[simp] theorem setConv_posSeen (k : Nat) (x : Conv) : (s.setConv k x).posSeen = s.posSeen := rfl
@[simp] theorem setConv_keys (k : Nat) (x : Conv) : (s.setConv k x).keys = s.keys := rfl

@[simp] theorem setChecker_pending (b : Nat) (x : Checker) : (s.setChecker b x).pending = s.pending := rfl
@[simp] theorem setChecker_epoch (b : Nat) (x : Checker) : (s.setChecker b x).epoch = s.epoch := rfl
@[simp] theorem setChecker_r (b : Nat) (x : Checker) : (s.setChecker b x).r = s.r := rfl
@[simp] theorem setChecker_rcTab (b : Nat) (x : Checker) : (s.setChecker b x).rcTab = s.rcTab := rfl
@[simp] theorem setChecker_pool (b : Nat) (x : Checker) : (s.setChecker b x).pool = s.pool := rfl
@[simp] theorem setChecker_mem (b : Nat) (x : Checker) : (s.setChecker b x).mem = s.mem := rfl
@[simp] theorem setChecker_free (b : Nat) (x : Checker) : (s.setChecker b x).free = s.free := rfl
@[simp] theorem setChecker_host (b : Nat) (x : Checker) : (s.setChecker b x).host = s.host := rfl
@[simp] theorem setChecker_txn (b : Nat) (x : Checker) : (s.setChecker b x).txn = s.txn := rfl
@[simp] theorem setChecker_pwr (b : Nat) (x : Checker) : (s.setChecker b x).pwr = s.pwr := rfl
@[simp] theorem setChecker_flt (b : Nat) (x : Checker) : (s.setChecker b x).flt = s.flt := rfl
@[simp] theorem setChecker_pwm (b : Nat) (x : Checker) : (s.setChecker b x).pwm = s.pwm := rfl
@[simp] theorem setChecker_drives (b : Nat) (x : Checker) : (s.setChecker b x).drives = s.drives := rfl
@[simp] theorem setChecker_pickers (b : Nat) (x : Checker) : (s.setChecker b x).pickers = s.pickers := rfl
@[simp] theorem setChecker_lanes (b : Nat) (x : Checker) : (s.setChecker b x).lanes = s.lanes := rfl
@[simp] theorem setChecker_gate (b : Nat) (x : Checker) : (s.setChecker b x).gate = s.gate := rfl
@[simp] theorem setChecker_bus (b : Nat) (x : Checker) : (s.setChecker b x).bus = s.bus := rfl
@[simp] theorem setChecker_convs (b : Nat) (x : Checker) : (s.setChecker b x).convs = s.convs := rfl
@[simp] theorem setChecker_fcQ (b : Nat) (x : Checker) : (s.setChecker b x).fcQ = s.fcQ := rfl
@[simp] theorem setChecker_hk (b : Nat) (x : Checker) : (s.setChecker b x).hk = s.hk := rfl
@[simp] theorem setChecker_therm (b : Nat) (x : Checker) : (s.setChecker b x).therm = s.therm := rfl
@[simp] theorem setChecker_link (b : Nat) (x : Checker) : (s.setChecker b x).link = s.link := rfl
@[simp] theorem setChecker_chk (b : Nat) (x : Checker) : (s.setChecker b x).chk = s.chk := rfl
@[simp] theorem setChecker_sec (b : Nat) (x : Checker) : (s.setChecker b x).sec = s.sec := rfl
@[simp] theorem setChecker_perf (b : Nat) (x : Checker) : (s.setChecker b x).perf = s.perf := rfl
@[simp] theorem setChecker_posIn (b : Nat) (x : Checker) : (s.setChecker b x).posIn = s.posIn := rfl
@[simp] theorem setChecker_posSeen (b : Nat) (x : Checker) : (s.setChecker b x).posSeen = s.posSeen := rfl
@[simp] theorem setChecker_keys (b : Nat) (x : Checker) : (s.setChecker b x).keys = s.keys := rfl

@[simp] theorem setFoster_pending (g : Nat) (x : Foster) : (s.setFoster g x).pending = s.pending := rfl
@[simp] theorem setFoster_epoch (g : Nat) (x : Foster) : (s.setFoster g x).epoch = s.epoch := rfl
@[simp] theorem setFoster_r (g : Nat) (x : Foster) : (s.setFoster g x).r = s.r := rfl
@[simp] theorem setFoster_rcTab (g : Nat) (x : Foster) : (s.setFoster g x).rcTab = s.rcTab := rfl
@[simp] theorem setFoster_pool (g : Nat) (x : Foster) : (s.setFoster g x).pool = s.pool := rfl
@[simp] theorem setFoster_mem (g : Nat) (x : Foster) : (s.setFoster g x).mem = s.mem := rfl
@[simp] theorem setFoster_free (g : Nat) (x : Foster) : (s.setFoster g x).free = s.free := rfl
@[simp] theorem setFoster_host (g : Nat) (x : Foster) : (s.setFoster g x).host = s.host := rfl
@[simp] theorem setFoster_txn (g : Nat) (x : Foster) : (s.setFoster g x).txn = s.txn := rfl
@[simp] theorem setFoster_pwr (g : Nat) (x : Foster) : (s.setFoster g x).pwr = s.pwr := rfl
@[simp] theorem setFoster_flt (g : Nat) (x : Foster) : (s.setFoster g x).flt = s.flt := rfl
@[simp] theorem setFoster_pwm (g : Nat) (x : Foster) : (s.setFoster g x).pwm = s.pwm := rfl
@[simp] theorem setFoster_drives (g : Nat) (x : Foster) : (s.setFoster g x).drives = s.drives := rfl
@[simp] theorem setFoster_pickers (g : Nat) (x : Foster) : (s.setFoster g x).pickers = s.pickers := rfl
@[simp] theorem setFoster_lanes (g : Nat) (x : Foster) : (s.setFoster g x).lanes = s.lanes := rfl
@[simp] theorem setFoster_gate (g : Nat) (x : Foster) : (s.setFoster g x).gate = s.gate := rfl
@[simp] theorem setFoster_bus (g : Nat) (x : Foster) : (s.setFoster g x).bus = s.bus := rfl
@[simp] theorem setFoster_convs (g : Nat) (x : Foster) : (s.setFoster g x).convs = s.convs := rfl
@[simp] theorem setFoster_fcQ (g : Nat) (x : Foster) : (s.setFoster g x).fcQ = s.fcQ := rfl
@[simp] theorem setFoster_checkers (g : Nat) (x : Foster) : (s.setFoster g x).checkers = s.checkers := rfl
@[simp] theorem setFoster_hk (g : Nat) (x : Foster) : (s.setFoster g x).hk = s.hk := rfl
@[simp] theorem setFoster_link (g : Nat) (x : Foster) : (s.setFoster g x).link = s.link := rfl
@[simp] theorem setFoster_chk (g : Nat) (x : Foster) : (s.setFoster g x).chk = s.chk := rfl
@[simp] theorem setFoster_sec (g : Nat) (x : Foster) : (s.setFoster g x).sec = s.sec := rfl
@[simp] theorem setFoster_perf (g : Nat) (x : Foster) : (s.setFoster g x).perf = s.perf := rfl
@[simp] theorem setFoster_posIn (g : Nat) (x : Foster) : (s.setFoster g x).posIn = s.posIn := rfl
@[simp] theorem setFoster_posSeen (g : Nat) (x : Foster) : (s.setFoster g x).posSeen = s.posSeen := rfl
@[simp] theorem setFoster_keys (g : Nat) (x : Foster) : (s.setFoster g x).keys = s.keys := rfl

@[simp] theorem setRec_pending (k : Nat) (x : FRec) : (s.setRec k x).pending = s.pending := rfl
@[simp] theorem setRec_epoch (k : Nat) (x : FRec) : (s.setRec k x).epoch = s.epoch := rfl
@[simp] theorem setRec_r (k : Nat) (x : FRec) : (s.setRec k x).r = s.r := rfl
@[simp] theorem setRec_rcTab (k : Nat) (x : FRec) : (s.setRec k x).rcTab = s.rcTab := rfl
@[simp] theorem setRec_pool (k : Nat) (x : FRec) : (s.setRec k x).pool = s.pool := rfl
@[simp] theorem setRec_mem (k : Nat) (x : FRec) : (s.setRec k x).mem = s.mem := rfl
@[simp] theorem setRec_free (k : Nat) (x : FRec) : (s.setRec k x).free = s.free := rfl
@[simp] theorem setRec_host (k : Nat) (x : FRec) : (s.setRec k x).host = s.host := rfl
@[simp] theorem setRec_txn (k : Nat) (x : FRec) : (s.setRec k x).txn = s.txn := rfl
@[simp] theorem setRec_pwr (k : Nat) (x : FRec) : (s.setRec k x).pwr = s.pwr := rfl
@[simp] theorem setRec_pwm (k : Nat) (x : FRec) : (s.setRec k x).pwm = s.pwm := rfl
@[simp] theorem setRec_drives (k : Nat) (x : FRec) : (s.setRec k x).drives = s.drives := rfl
@[simp] theorem setRec_pickers (k : Nat) (x : FRec) : (s.setRec k x).pickers = s.pickers := rfl
@[simp] theorem setRec_lanes (k : Nat) (x : FRec) : (s.setRec k x).lanes = s.lanes := rfl
@[simp] theorem setRec_gate (k : Nat) (x : FRec) : (s.setRec k x).gate = s.gate := rfl
@[simp] theorem setRec_bus (k : Nat) (x : FRec) : (s.setRec k x).bus = s.bus := rfl
@[simp] theorem setRec_convs (k : Nat) (x : FRec) : (s.setRec k x).convs = s.convs := rfl
@[simp] theorem setRec_fcQ (k : Nat) (x : FRec) : (s.setRec k x).fcQ = s.fcQ := rfl
@[simp] theorem setRec_checkers (k : Nat) (x : FRec) : (s.setRec k x).checkers = s.checkers := rfl
@[simp] theorem setRec_hk (k : Nat) (x : FRec) : (s.setRec k x).hk = s.hk := rfl
@[simp] theorem setRec_therm (k : Nat) (x : FRec) : (s.setRec k x).therm = s.therm := rfl
@[simp] theorem setRec_link (k : Nat) (x : FRec) : (s.setRec k x).link = s.link := rfl
@[simp] theorem setRec_chk (k : Nat) (x : FRec) : (s.setRec k x).chk = s.chk := rfl
@[simp] theorem setRec_sec (k : Nat) (x : FRec) : (s.setRec k x).sec = s.sec := rfl
@[simp] theorem setRec_perf (k : Nat) (x : FRec) : (s.setRec k x).perf = s.perf := rfl
@[simp] theorem setRec_posIn (k : Nat) (x : FRec) : (s.setRec k x).posIn = s.posIn := rfl
@[simp] theorem setRec_posSeen (k : Nat) (x : FRec) : (s.setRec k x).posSeen = s.posSeen := rfl
@[simp] theorem setRec_keys (k : Nat) (x : FRec) : (s.setRec k x).keys = s.keys := rfl

@[simp] theorem takeFree_pending : s.takeFree.2.pending = s.pending := rfl
@[simp] theorem takeFree_epoch : s.takeFree.2.epoch = s.epoch := rfl
@[simp] theorem takeFree_r : s.takeFree.2.r = s.r := rfl
@[simp] theorem takeFree_rcTab : s.takeFree.2.rcTab = s.rcTab := rfl
@[simp] theorem takeFree_pool : s.takeFree.2.pool = s.pool := rfl
@[simp] theorem takeFree_mem : s.takeFree.2.mem = s.mem := rfl
@[simp] theorem takeFree_host : s.takeFree.2.host = s.host := rfl
@[simp] theorem takeFree_txn : s.takeFree.2.txn = s.txn := rfl
@[simp] theorem takeFree_pwr : s.takeFree.2.pwr = s.pwr := rfl
@[simp] theorem takeFree_flt : s.takeFree.2.flt = s.flt := rfl
@[simp] theorem takeFree_pwm : s.takeFree.2.pwm = s.pwm := rfl
@[simp] theorem takeFree_drives : s.takeFree.2.drives = s.drives := rfl
@[simp] theorem takeFree_pickers : s.takeFree.2.pickers = s.pickers := rfl
@[simp] theorem takeFree_lanes : s.takeFree.2.lanes = s.lanes := rfl
@[simp] theorem takeFree_gate : s.takeFree.2.gate = s.gate := rfl
@[simp] theorem takeFree_bus : s.takeFree.2.bus = s.bus := rfl
@[simp] theorem takeFree_convs : s.takeFree.2.convs = s.convs := rfl
@[simp] theorem takeFree_fcQ : s.takeFree.2.fcQ = s.fcQ := rfl
@[simp] theorem takeFree_checkers : s.takeFree.2.checkers = s.checkers := rfl
@[simp] theorem takeFree_hk : s.takeFree.2.hk = s.hk := rfl
@[simp] theorem takeFree_therm : s.takeFree.2.therm = s.therm := rfl
@[simp] theorem takeFree_link : s.takeFree.2.link = s.link := rfl
@[simp] theorem takeFree_chk : s.takeFree.2.chk = s.chk := rfl
@[simp] theorem takeFree_sec : s.takeFree.2.sec = s.sec := rfl
@[simp] theorem takeFree_perf : s.takeFree.2.perf = s.perf := rfl
@[simp] theorem takeFree_posIn : s.takeFree.2.posIn = s.posIn := rfl
@[simp] theorem takeFree_posSeen : s.takeFree.2.posSeen = s.posSeen := rfl
@[simp] theorem takeFree_keys : s.takeFree.2.keys = s.keys := rfl

@[simp] theorem settle_pending : s.settle.pending = s.pending := by unfold State.settle; repeat' split <;> try rfl
@[simp] theorem settle_epoch : s.settle.epoch = s.epoch := by unfold State.settle; repeat' split <;> try rfl
@[simp] theorem settle_r : s.settle.r = s.r := by unfold State.settle; repeat' split <;> try rfl
@[simp] theorem settle_rcTab : s.settle.rcTab = s.rcTab := by unfold State.settle; repeat' split <;> try rfl
@[simp] theorem settle_pool : s.settle.pool = s.pool := by unfold State.settle; repeat' split <;> try rfl
@[simp] theorem settle_mem : s.settle.mem = s.mem := by unfold State.settle; repeat' split <;> try rfl
@[simp] theorem settle_free : s.settle.free = s.free := by unfold State.settle; repeat' split <;> try rfl
@[simp] theorem settle_txn : s.settle.txn = s.txn := by unfold State.settle; repeat' split <;> try rfl
@[simp] theorem settle_pwr : s.settle.pwr = s.pwr := by unfold State.settle; repeat' split <;> try rfl
@[simp] theorem settle_flt : s.settle.flt = s.flt := by unfold State.settle; repeat' split <;> try rfl
@[simp] theorem settle_pwm : s.settle.pwm = s.pwm := by unfold State.settle; repeat' split <;> try rfl
@[simp] theorem settle_drives : s.settle.drives = s.drives := by unfold State.settle; repeat' split <;> try rfl
@[simp] theorem settle_pickers : s.settle.pickers = s.pickers := by unfold State.settle; repeat' split <;> try rfl
@[simp] theorem settle_lanes : s.settle.lanes = s.lanes := by unfold State.settle; repeat' split <;> try rfl
@[simp] theorem settle_gate : s.settle.gate = s.gate := by unfold State.settle; repeat' split <;> try rfl
@[simp] theorem settle_bus : s.settle.bus = s.bus := by unfold State.settle; repeat' split <;> try rfl
@[simp] theorem settle_convs : s.settle.convs = s.convs := by unfold State.settle; repeat' split <;> try rfl
@[simp] theorem settle_fcQ : s.settle.fcQ = s.fcQ := by unfold State.settle; repeat' split <;> try rfl
@[simp] theorem settle_checkers : s.settle.checkers = s.checkers := by unfold State.settle; repeat' split <;> try rfl
@[simp] theorem settle_hk : s.settle.hk = s.hk := by unfold State.settle; repeat' split <;> try rfl
@[simp] theorem settle_therm : s.settle.therm = s.therm := by unfold State.settle; repeat' split <;> try rfl
@[simp] theorem settle_link : s.settle.link = s.link := by unfold State.settle; repeat' split <;> try rfl
@[simp] theorem settle_chk : s.settle.chk = s.chk := by unfold State.settle; repeat' split <;> try rfl
@[simp] theorem settle_sec : s.settle.sec = s.sec := by unfold State.settle; repeat' split <;> try rfl
@[simp] theorem settle_perf : s.settle.perf = s.perf := by unfold State.settle; repeat' split <;> try rfl
@[simp] theorem settle_posIn : s.settle.posIn = s.posIn := by unfold State.settle; repeat' split <;> try rfl
@[simp] theorem settle_posSeen : s.settle.posSeen = s.posSeen := by unfold State.settle; repeat' split <;> try rfl
@[simp] theorem settle_keys : s.settle.keys = s.keys := by unfold State.settle; repeat' split <;> try rfl

end Sys2Proof.Laws
end

