-- ==== Sys2Proof/Laws/Ops.lean ====
section
/-! SUPPORT. Laws of the shared operations: a register and a per-instance structure read back as written and leave the
others alone, what the settling of nIRQ does, and when a mailbox command or a Dexlia frame reaches its effect. -/

namespace Sys2Proof.Laws
open Sys2Proof.Machine

variable (s : State)

/-! Registers. -/

theorem regKey_inj {id id' i i' : Nat} (hi : i < 256) (hi' : i' < 256) (h : regKey id i = regKey id' i') :
    id = id' ∧ i = i' := by
  unfold regKey at h; omega

theorem engBank_plain : isBanked P.engBank = false := by decide

/-- A register reads back as written. -/
@[simp] theorem get_set (r : Regs) (id i v : Nat) : (r.set id i v).get id i = v := by
  unfold Regs.set
  split
  · next h =>
    simp only [Bool.and_eq_true] at h
    have hb : Regs.bankB { r with b := Smap.set regReset r.b (regKey id i) v } i = true := h.2
    simp [Regs.get, h.1, hb]
  · next h =>
    by_cases hk : isBanked id = true
    · have hn : Regs.bankB r i = false := by simpa [hk] using h
      have hne : regKey P.engBank i ≠ regKey id i := by
        intro e
        have : P.engBank = id := by unfold regKey at e; omega
        rw [← this, engBank_plain] at hk; cases hk
      have hb : Regs.bankB { r with a := Smap.set regReset r.a (regKey id i) v } i = false := by
        unfold Regs.bankB at *
        rw [get_set_ne _ _ _ _ _ hne]; exact hn
      simp [Regs.get, hb]
    · simp [Regs.get, hk]

@[simp] theorem reg_setReg (id i v : Nat) : (s.setReg id i v).reg id i = v := get_set s.r id i v

/-- A write leaves every other register alone, unless it swaps coefficient banks. -/
theorem reg_setReg_ne {id id' i i' : Nat} (v : Nat) (hi : i < 256) (hi' : i' < 256) (hb : id' ≠ P.engBank)
    (h : ¬ (id = id' ∧ i = i')) : (s.setReg id' i' v).reg id i = s.reg id i := by
  have hk : regKey id i ≠ regKey id' i' := fun e => h (regKey_inj hi hi' e)
  have hB : ∀ j, j < 256 → (s.r.set id' i' v).bankB j = s.r.bankB j := by
    intro j hj
    unfold Regs.set
    split
    · rfl
    · unfold Regs.bankB
      rw [get_set_ne]
      intro e
      exact hb (regKey_inj hj hi' e).1.symm
  show (s.r.set id' i' v).get id i = s.r.get id i
  unfold Regs.get
  rw [hB i hi]
  unfold Regs.set
  split <;> split <;> first | rfl | exact get_set_ne _ _ _ _ _ hk

@[simp] theorem reg_settle (id i : Nat) : s.settle.reg id i = s.reg id i := by
  simp [State.reg]

/-! Structures held per instance. -/

@[simp] theorem drv_setDrv (d : Nat) (x : DriveSt) : (s.setDrv d x).drv d = x := get_set_same _ _ _ _
theorem drv_setDrv_ne {d e : Nat} (x : DriveSt) (h : e ≠ d) : (s.setDrv d x).drv e = s.drv e := get_set_ne _ _ _ _ _ h
@[simp] theorem drv_modDrv (d : Nat) (f : DriveSt → DriveSt) : (s.modDrv d f).drv d = f (s.drv d) := drv_setDrv s d _
theorem drv_modDrv_ne {d e : Nat} (f : DriveSt → DriveSt) (h : e ≠ d) : (s.modDrv d f).drv e = s.drv e :=
  drv_setDrv_ne s _ h
@[simp] theorem gen_setGen (g : Nat) (x : Gen) : (s.setGen g x).gen g = x := get_set_same _ _ _ _
theorem gen_setGen_ne {g k : Nat} (x : Gen) (h : k ≠ g) : (s.setGen g x).gen k = s.gen k := get_set_ne _ _ _ _ _ h
@[simp] theorem ring_setRing (r : Nat) (x : RingSt) : (s.setRing r x).ring r = x := get_set_same _ _ _ _
theorem ring_setRing_ne {r q : Nat} (x : RingSt) (h : q ≠ r) : (s.setRing r x).ring q = s.ring q :=
  get_set_ne _ _ _ _ _ h
@[simp] theorem txnOf_setTxn (i : Nat) (x : Txn) : (s.setTxn i x).txnOf i = x := get_set_same _ _ _ _
theorem txnOf_setTxn_ne {i k : Nat} (x : Txn) (h : k ≠ i) : (s.setTxn i x).txnOf k = s.txnOf k := get_set_ne _ _ _ _ _ h
@[simp] theorem snap_setSnap (i : Nat) (x : Snapshot) : (s.setSnap i x).snap i = x := get_set_same _ _ _ _
theorem snap_setSnap_ne {i k : Nat} (x : Snapshot) (h : k ≠ i) : (s.setSnap i x).snap k = s.snap k :=
  get_set_ne _ _ _ _ _ h
@[simp] theorem trip_setTrip (t : Nat) (x : TripSt) : (s.setTrip t x).trip t = x := get_set_same _ _ _ _
@[simp] theorem die_setDie (j : Nat) (x : DieSt) : (s.setDie j x).die j = x := get_set_same _ _ _ _
@[simp] theorem chan_setChan (g : Nat) (x : ChanSt) : (s.setChan g x).chan g = x := get_set_same _ _ _ _
@[simp] theorem grp_setGrp (n : Nat) (x : BusGrp) : (s.setGrp n x).grp n = x := get_set_same _ _ _ _
@[simp] theorem chop_setChop (c : Nat) (x : Chop) : (s.setChop c x).chop c = x := get_set_same _ _ _ _
@[simp] theorem conv_setConv (k : Nat) (x : Conv) : (s.setConv k x).conv k = x := get_set_same _ _ _ _
@[simp] theorem checker_setChecker (b : Nat) (x : Checker) : (s.setChecker b x).checker b = x := get_set_same _ _ _ _
@[simp] theorem picker_setPicker (b : Nat) (x : Picker) : (s.setPicker b x).picker b = x := get_set_same _ _ _ _
@[simp] theorem frec_setRec (k : Nat) (x : FRec) : (s.setRec k x).frec k = x := get_set_same _ _ _ _
theorem frec_setRec_ne {k j : Nat} (x : FRec) (h : j ≠ k) : (s.setRec k x).frec j = s.frec j := get_set_ne _ _ _ _ _ h

/-! Folds. -/

/-- What every step of a fold keeps, the fold keeps. -/
theorem each_keeps {α : Type} (P : State → Prop) (f : State → α → State) (l : List α)
    (h : ∀ t, ∀ a ∈ l, P t → P (f t a)) (hs : P s) : P (s.each l f) := by
  unfold State.each
  induction l generalizing s with
  | nil => exact hs
  | cons a l ih =>
    exact ih (f s a) (fun t b hb => h t b (List.mem_cons_of_mem _ hb)) (h s a List.mem_cons_self hs)

/-- What every step of a fold leaves alone, the fold leaves alone. -/
theorem each_same {α β : Type} (p : State → β) (f : State → α → State) (l : List α)
    (h : ∀ t, ∀ a ∈ l, p (f t a) = p t) : p (s.each l f) = p s :=
  each_keeps s (fun t => p t = p s) f l (fun t a ha e => (h t a ha).trans e) rfl

/-! Settling of nIRQ. -/

/-- nIRQ's condition does not depend on nIRQ. -/
@[simp] theorem settle_irqCond : s.settle.irqCond = s.irqCond := by
  unfold State.settle
  repeat' split
  all_goals rfl

/-- After settling, nIRQ follows its condition. -/
theorem settle_honest : s.settle.irqHonest := by
  refine ⟨fun h => ?_, fun h => ?_⟩
  · rw [settle_irqCond] at h
    unfold State.settle
    simp only [h, Bool.false_eq_true, if_false]
    split
    · rfl
    · next hn => simpa using hn
  · rw [settle_irqCond] at h
    unfold State.settle
    simp only [h, if_true]
    split
    · next hn => exact Or.inl hn
    · split
      · next t ht =>
        split
        · exact Or.inl rfl
        · next hc =>
          simp only [Bool.or_eq_true, beq_iff_eq, not_or, Bool.not_eq_true] at hc
          exact Or.inr ⟨t, ht, hc.2, hc.1⟩
      · exact Or.inl rfl

/-- Settling touches the pin and its release time alone. -/
theorem settle_eq : s.settle =
    { s with host := { s.host with nirq := s.settle.host.nirq, nirqOff := s.settle.host.nirqOff } } := by
  unfold State.settle
  repeat' split
  all_goals rfl

@[simp] theorem snap_settle (k : Nat) : s.settle.snap k = s.snap k := by rw [settle_eq]; rfl
@[simp] theorem ring_settle (r : Nat) : s.settle.ring r = s.ring r := by rw [settle_eq]; rfl
@[simp] theorem rdata_settle : s.settle.host.rdata = s.host.rdata := by rw [settle_eq]
@[simp] theorem sdo_settle : s.settle.host.sdo = s.host.sdo := by rw [settle_eq]
@[simp] theorem txnOf_settle (k : Nat) : s.settle.txnOf k = s.txnOf k := by rw [settle_eq]; rfl
@[simp] theorem frec_settle (k : Nat) : s.settle.frec k = s.frec k := by rw [settle_eq]; rfl
@[simp] theorem gen_settle (g : Nat) : s.settle.gen g = s.gen g := by rw [settle_eq]; rfl

/-! Commands and frames. -/

/-- A command that is served runs its body on `bodyState` and ends with the body's reply. -/
theorem serve_of_serves (h : Hdr) (op : Nat) (pl : List Byte) (body : State → Cmd → List Byte → State × Reply)
    (hs : s.serves h op = true) :
    runCommand h op pl s body = .next
      ((body (s.bodyState h op) (cmdOf h op s.epoch) pl).1.reply (cmdOf h op s.epoch)
        (body (s.bodyState h op) (cmdOf h op s.epoch) pl).2).settle := by
  unfold State.serves State.admits at hs
  simp only [Bool.and_eq_true, Bool.not_eq_true'] at hs
  obtain ⟨⟨⟨⟨⟨⟨⟨⟨h1, h2⟩, h3⟩, h4⟩, h5⟩, h6⟩, h7⟩, h8⟩, h9⟩ := hs
  unfold runCommand fin State.serve
  obtain ⟨k, hk⟩ := Option.isSome_iff_exists.mp h1
  have ho : (cmdOf h op s.epoch).opcode = op := rfl
  unfold State.served at h7 h8 h9
  simp only [hk, h2, h3, h4, h5, h6, h7, ho, Bool.not_true, Bool.or_self, Bool.false_eq_true, if_false]
  cases hi : opcodeInfo op with
  | none => simp [hi] at h8
  | some p =>
    obtain ⟨ti, de⟩ := p
    simp only [hi, Bool.and_eq_true, Bool.not_eq_true', Bool.or_eq_true, beq_iff_eq] at h8
    have hA : (!ti && (cmdOf h op s.epoch).inst != 0) = false := by
      rcases h8.1 with h | h <;> simp [h]
    simp only [hA, h8.2, h9, Bool.false_eq_true, if_false]
    rfl

/-- A command that is admitted and waits for the end of a housekeeping round is kept for the end of the tick (R389). -/
theorem serve_of_waits (h : Hdr) (op : Nat) (pl : List Byte) (body : State → Cmd → List Byte → State × Reply)
    (hs : s.admits h op = true) (hw : (s.bodyState h op).waitsForRound (cmdOf h op s.epoch) = true) :
    runCommand h op pl s body = .next (State.settle { s.bodyState h op with
      host := { (s.bodyState h op).host with atEnd := (s.bodyState h op).host.atEnd ++ [(cmdOf h op s.epoch, pl)] } }) := by
  unfold State.admits at hs
  simp only [Bool.and_eq_true, Bool.not_eq_true'] at hs
  obtain ⟨⟨⟨⟨⟨⟨⟨h1, h2⟩, h3⟩, h4⟩, h5⟩, h6⟩, h7⟩, h8⟩ := hs
  unfold runCommand fin State.serve
  obtain ⟨k, hk⟩ := Option.isSome_iff_exists.mp h1
  have ho : (cmdOf h op s.epoch).opcode = op := rfl
  unfold State.bodyState State.served at hw
  unfold State.served at h7 h8
  simp only [hk, h2, h3, h4, h5, h6, h7, ho, Bool.not_true, Bool.or_self, Bool.false_eq_true, if_false]
  cases hi : opcodeInfo op with
  | none => simp [hi] at h8
  | some p =>
    obtain ⟨ti, de⟩ := p
    simp only [hi, Bool.and_eq_true, Bool.not_eq_true', Bool.or_eq_true, beq_iff_eq] at h8
    have hA : (!ti && (cmdOf h op s.epoch).inst != 0) = false := by
      rcases h8.1 with h | h <;> simp [h]
    simp only [hA, h8.2, hw, Bool.false_eq_true, if_false, if_true]
    rfl

/-- A frame that is taken is handled in the state `arrived`. -/
theorem receive_of_takes (t : Nat) (f : Frame) (handle : State → State) (h : s.takesFrame t f = true) :
    s.receive t f handle = handle (s.arrived t f) := by
  unfold State.takesFrame at h
  simp only [Bool.and_eq_true, Bool.not_eq_true', bne_iff_ne, ne_eq, Option.isNone_iff_eq_none] at h
  obtain ⟨⟨⟨⟨⟨⟨h1, h2⟩, h3⟩, h4⟩, h5⟩, h6⟩, h7⟩ := h
  unfold State.receive
  have h5' : ¬ (s.linkAuth = true ∧ bit f.flags.toNat 0 = false) := by
    rintro ⟨a, b⟩; simp [a, b] at h5
  simp only [h1, h2, h3, h4, h6, h5', Bool.not_true, beq_iff_eq,
    Bool.false_eq_true, if_false, Bool.false_or]
  by_cases hc : (frameClass t).getD 3 = 3
  · simp only [hc, bne_self_eq_false, Bool.false_or, Bool.and_eq_true, Bool.not_eq_true'] at h7
    have h8 : ¬ (s.linkAuth = true ∧ s.frameNewer t f = false) := by
      rintro ⟨a, b⟩; simp [a, b] at h7
    simp [hc, h8, h7.2]
  · simp [hc]

end Sys2Proof.Laws
end

