-- ==== Sys2Proof/Laws/Frames.lean ====
section
/-! SUPPORT. What the shared operations on rings and on the Dexlia link can touch: the register file, the ring pool and
the host interface, or the link alone. -/

namespace Sys2Proof.Laws
open Sys2Proof.Machine

/-- At most the register file, the ring pool and the host interface differ. -/
def HostOnly (s t : State) : Prop := t = { s with r := t.r, pool := t.pool, host := t.host }
/-- At most the link differs. -/
def LinkOnly (s t : State) : Prop := t = { s with link := t.link }

variable {s t u : State}

theorem HostOnly.refl (s : State) : HostOnly s s := rfl
theorem HostOnly.trans (h : HostOnly s t) (k : HostOnly t u) : HostOnly s u := by
  unfold HostOnly at *; rw [k, h]
theorem LinkOnly.refl (s : State) : LinkOnly s s := rfl
theorem LinkOnly.trans (h : LinkOnly s t) (k : LinkOnly t u) : LinkOnly s u := by
  unfold LinkOnly at *; rw [k, h]

/-- A fold of host operations is one. -/
theorem HostOnly.each {α : Type} (f : State → α → State) (l : List α) (h : ∀ t a, HostOnly t (f t a)) :
    HostOnly s (s.each l f) := each_keeps s (HostOnly s) f l (fun t a _ k => k.trans (h t a)) rfl
/-- A fold of link operations is one. -/
theorem LinkOnly.each {α : Type} (f : State → α → State) (l : List α) (h : ∀ t a, LinkOnly t (f t a)) :
    LinkOnly s (s.each l f) := each_keeps s (LinkOnly s) f l (fun t a _ k => k.trans (h t a)) rfl

theorem HostOnly.drv (h : HostOnly s t) (d : Nat) : t.drv d = s.drv d := by rw [h]; rfl
theorem LinkOnly.drv (h : LinkOnly s t) (d : Nat) : t.drv d = s.drv d := by rw [h]; rfl
@[simp] theorem forgetReports_drv (s : State) (d e : Nat) : (s.forgetReports d).drv e = s.drv e := rfl
theorem LinkOnly.reg (h : LinkOnly s t) (id i : Nat) : t.reg id i = s.reg id i := by rw [h]; rfl

variable (s)

/-! Rings and messages. -/

theorem setReg_hostOnly (id i v : Nat) : HostOnly s (s.setReg id i v) := rfl
theorem setBit_hostOnly (id i n : Nat) (b : Bool) : HostOnly s (s.setBit id i n b) := rfl
theorem bump_hostOnly (id i t : Nat) : HostOnly s (s.bump id i t) := rfl
theorem setRing_hostOnly (r : Nat) (x : RingSt) : HostOnly s (s.setRing r x) := rfl
theorem flagGstat_hostOnly (n : Nat) : HostOnly s (s.flagGstat n) := rfl
theorem setIdx_hostOnly (r h t : Nat) : HostOnly s (s.setIdx r h t) := rfl
theorem produce_hostOnly (r n : Nat) : HostOnly s (s.produce r n) := rfl
theorem consume_hostOnly (r n : Nat) : HostOnly s (s.consume r n) := rfl

theorem writeEntries_hostOnly (r i : Nat) (es : List (List Byte)) : HostOnly s (s.writeEntries r i es) := by
  induction es generalizing s i with
  | nil => exact rfl
  | cons e es ih =>
    exact HostOnly.trans (t := { s with pool := Memory.writeBytes s.pool (s.entryAddr r i) e }) rfl (ih _ _)

theorem putRecord_hostOnly (r : Nat) (bs : List Byte) : HostOnly s (s.putRecord r bs) :=
  (writeEntries_hostOnly s _ _ _).trans (produce_hostOnly _ _ _)
theorem writeMessage_hostOnly (r op tag inst dl : Nat) (pl : List Byte) : HostOnly s (s.writeMessage r op tag inst dl pl) :=
  ((writeEntries_hostOnly s _ _ _).trans (produce_hostOnly _ _ _)).trans (setRing_hostOnly _ _ _)
theorem canSend_hostOnly (p : Nat) (e : Bool) (bs : List Byte) : HostOnly s (s.canSend p e bs) := by
  unfold State.canSend; split <;> rfl
theorem writeLost_hostOnly (r : Nat) : HostOnly s (s.writeLost r) := by
  unfold State.writeLost
  dsimp only
  generalize lostPayload s.epoch (s.ring r) = pl
  generalize messageBytes 0x4401 0 r 0 (s.epoch % 2 ^ 32) (s.ring r).seqOut pl = bs
  have h := (writeMessage_hostOnly s r 0x4401 0 r (s.epoch % 2 ^ 32) pl)
  generalize s.writeMessage r 0x4401 0 r (s.epoch % 2 ^ 32) pl = t at h ⊢
  split
  · exact (h.trans (setRing_hostOnly _ _ _)).trans (canSend_hostOnly _ _ _ _)
  · exact h.trans (setRing_hostOnly _ _ _)
theorem dropMessage_hostOnly (r stamp : Nat) : HostOnly s (s.dropMessage r stamp) := rfl

/-- An event touches the register file, the ring pool and the host interface alone. -/
theorem event_hostOnly (k : EventKind) (op tag inst stamp : Nat) (pl : List Byte) :
    HostOnly s (s.event k op tag inst stamp pl) := by
  unfold State.event
  dsimp only
  have hput : ∀ t : State, HostOnly t (if bit (t.reg P.hostCanEvtMask 0) k.bitOf then
      (t.writeMessage 16 op tag inst (stamp % 2 ^ 32) (leBytes 8 stamp ++ pl)) else t) := by
    intro t; split
    · exact writeMessage_hostOnly t _ _ _ _ _ _
    · rfl
  split
  · split
    · split
      · exact (writeMessage_hostOnly s _ _ _ _ _ _).trans (canSend_hostOnly _ _ _ _)
      · exact writeMessage_hostOnly s _ _ _ _ _ _
    · exact dropMessage_hostOnly s _ _
  · split
    · split
      · exact ((writeLost_hostOnly s _).trans (writeMessage_hostOnly _ _ _ _ _ _ _)).trans (canSend_hostOnly _ _ _ _)
      · exact (writeLost_hostOnly s _).trans (writeMessage_hostOnly _ _ _ _ _ _ _)
    · exact dropMessage_hostOnly s _ _

theorem putResponse_hostOnly (r op tag inst low : Nat) (pl : List Byte) :
    HostOnly s (s.putResponse r op tag inst low pl) := by
  unfold State.putResponse
  dsimp only
  split
  · exact ((writeMessage_hostOnly s _ _ _ _ _ _).trans (canSend_hostOnly _ _ _ _)).trans (setIdx_hostOnly _ _ _ _)
  · exact writeMessage_hostOnly s _ _ _ _ _ _

theorem writeResponse_hostOnly (r op tag inst low : Nat) (pl : List Byte) :
    HostOnly s (s.writeResponse r op tag inst low pl) := by
  unfold State.writeResponse
  split
  · exact bump_hostOnly s _ _ _
  · split
    · rfl
    · exact putResponse_hostOnly s _ _ _ _ _ _

theorem writeEntries_rings (r : Nat) (l : List (List Byte)) : ∀ (i : Nat) (s : State), (s.writeEntries r i l).host = s.host := by
  induction l with
  | nil => intro i s; rfl
  | cons e es ih => intro i s; exact ih _ _

/-- Writing a response leaves the responses that are stored for RETRY alone (R87). -/
theorem writeResponse_resp (r op tag inst low : Nat) (pl : List Byte) (q : Nat) :
    ((s.writeResponse r op tag inst low pl).ring q).resp = (s.ring q).resp := by
  have wm : ∀ (r op tag inst low : Nat) (pl : List Byte), ((s.writeMessage r op tag inst low pl).ring q).resp = (s.ring q).resp := by
    intro r op tag inst low pl
    unfold State.writeMessage
    extract_lets x bs s1
    have pr : ∀ (u : State) (n j : Nat), (u.produce r n).ring j = Smap.get (fun _ => {}) u.host.rings j := fun _ _ _ => rfl
    have h1 : ∀ j, s1.ring j = s.ring j := by
      intro j
      show ((s.writeEntries r (s.ringHead r) (cutEntries (s.ringEsize r) 1024 bs)).produce r (s.entriesFor r pl.length)).ring j = _
      rw [pr, writeEntries_rings]
      rfl
    clear_value s1
    by_cases h : q = r
    · subst h; rw [ring_setRing]; show (s1.ring q).resp = _; rw [h1]
    · rw [ring_setRing_ne _ _ h]; exact congrArg RingSt.resp (h1 q)
  have cs : ∀ (u : State) a b l, (u.canSend a b l).ring q = u.ring q := by
    intro u a b l; unfold State.canSend; split <;> rfl
  unfold State.writeResponse
  split
  · rfl
  · split
    · rfl
    · unfold State.putResponse
      dsimp only
      split
      · exact (congrArg RingSt.resp (cs _ _ _ _)).trans (wm _ _ _ _ _ _)
      · exact wm _ _ _ _ _ _

theorem flush_none (h : s.host.respQ = []) : s.flushResponses = s := by
  unfold State.flushResponses
  rw [h]
  have e : { s.host with respQ := [] } = s.host := by rw [← h]
  show ({ s with host := { s.host with respQ := [] } } : State) = s
  rw [e]

/-- A response touches the register file, the ring pool and the host interface alone. -/
theorem respond_hostOnly (c : Cmd) (st ix : Nat) (data : List Byte) : HostOnly s (s.respond c st ix data) := by
  unfold State.respond
  dsimp only
  split
  · rfl
  · exact (setRing_hostOnly s _ _).trans (writeResponse_hostOnly _ _ _ _ _ _ _)

theorem complete_hostOnly (c : Cmd) (st ix : Nat) (data : List Byte) : HostOnly s (s.complete c st ix data) :=
  HostOnly.trans (t := s.endDeferred c.opcode c.inst) rfl (event_hostOnly _ _ _ _ _ _ _)

/-- The end of a command touches the register file, the ring pool and the host interface alone. -/
theorem reply_hostOnly (c : Cmd) (r : Reply) : HostOnly s (s.reply c r) := by
  cases r with
  | now st ix data => exact respond_hostOnly s _ _ _ _
  | deferred => exact HostOnly.trans (t := s.startDeferred c) rfl (respond_hostOnly _ _ _ _ _)
  | later => rfl

/-! The Dexlia link. -/

theorem setPort_linkOnly (p : Nat) (x : PortSt) : LinkOnly s (s.setPort p x) := rfl

theorem portSend_linkOnly (p : Nat) : LinkOnly s (s.portSend p) := by
  unfold State.portSend
  dsimp only
  split
  · rfl
  · split <;> rfl

theorem enqueue_linkOnly (p : Nat) (f : OutFrame) : LinkOnly s (s.enqueue p f) :=
  (setPort_linkOnly s _ _).trans (portSend_linkOnly _ _)

theorem sendTo_linkOnly (t dst : Nat) (a : Bool) (pl : List Byte) : LinkOnly s (s.sendTo t dst a pl) := by
  unfold State.sendTo
  dsimp only
  split
  · exact LinkOnly.trans (t := (s.takeSeq t).2) rfl (enqueue_linkOnly _ _ _)
  · rfl

theorem sendNeighbour_linkOnly (p t : Nat) (pl : List Byte) (st : Option Nat) : LinkOnly s (s.sendNeighbour p t pl st) :=
  LinkOnly.trans (t := (s.takeSeq t).2) rfl (enqueue_linkOnly _ _ _)

theorem sendGang_linkOnly (dev hdrv cmd spp per brs anchor : Nat) :
    LinkOnly s (s.sendGang dev hdrv cmd spp per brs anchor) := sendTo_linkOnly s _ _ _ _

theorem forwardFrame_linkOnly (t : Nat) (f : Frame) : LinkOnly s (s.forwardFrame t f) := by
  unfold State.forwardFrame
  dsimp only
  split
  · rfl
  · split
    · exact LinkOnly.each _ _ (fun t q => enqueue_linkOnly t _ _)
    · split
      · rfl
      · split
        · split
          · rfl
          · exact enqueue_linkOnly s _ _
        · rfl

theorem ackFrame_linkOnly (t : Nat) (f : Frame) : LinkOnly s (s.ackFrame t f) := by
  unfold State.ackFrame
  split
  · exact sendTo_linkOnly s _ _ _ _
  · rfl

/-- Forwarding, acknowledging and marking a received frame touches the link alone. -/
theorem arrived_linkOnly (t : Nat) (f : Frame) : LinkOnly s (s.arrived t f) := by
  unfold State.arrived
  dsimp only
  split
  · exact forwardFrame_linkOnly s _ _
  · exact ((forwardFrame_linkOnly s _ _).trans (ackFrame_linkOnly _ _ _)).trans rfl

/-! Mailbox commands. -/

/-- The command with an opcode of R96 runs that opcode's body. -/
theorem exec_mailbox {op : Nat} {h : Hdr} {pl : List Byte} {c : Instr} (hc : mailboxInstr op h pl = some c) :
    exec c s = runCommand h op pl s (bodyOf op) := by
  unfold mailboxInstr at hc
  split at hc
  all_goals first | (cases hc; rfl) | cases hc

/-- What a message that reaches the mailbox touches before its command runs. -/
def HeardOnly (s t : State) : Prop := t = { s with r := t.r, pool := t.pool, host := t.host, pwr := t.pwr, perf := t.perf }

theorem HeardOnly.trans {s t u : State} (h : HeardOnly s t) (k : HeardOnly t u) : HeardOnly s u := by
  unfold HeardOnly at *; rw [k, h]
theorem HostOnly.heard {s t : State} (h : HostOnly s t) : HeardOnly s t := by
  unfold HeardOnly; rw [h]
theorem HeardOnly.each {α : Type} {s : State} (f : State → α → State) (l : List α) (h : ∀ t a, HeardOnly t (f t a)) :
    HeardOnly s (s.each l f) := each_keeps s (HeardOnly s) f l (fun t a _ k => k.trans (h t a)) rfl

theorem setReg_heard (id i v : Nat) : HeardOnly s (s.setReg id i v) := rfl
theorem setBit_heard (id i n : Nat) (b : Bool) : HeardOnly s (s.setBit id i n b) := rfl
theorem perf_heard (p : PerfSt) : HeardOnly s { s with perf := p } := rfl

theorem countOn_heard (e n : Nat) : HeardOnly s (s.countOn e n) := by
  unfold State.countOn
  dsimp only
  generalize s.reg P.perfCnt e + n = v
  generalize 2 ^ 48 = top
  split
  · rfl
  · split
    · exact setReg_heard s _ _ _
    · exact (setReg_heard s P.perfCnt e (v - top)).trans (perf_heard _ _)

theorem countEvent_heard (c evt n : Nat) : HeardOnly s (s.countEvent c evt n) := by
  unfold State.countEvent
  split
  · rfl
  · apply HeardOnly.each
    intro t k
    split
    · exact countOn_heard t _ _
    · rfl

theorem hear_heard (c : Cmd) : HeardOnly s (s.hear c) :=
  ((show HeardOnly s s.messageSeen from rfl).trans (countEvent_heard _ _ _ _)).trans (setRing_hostOnly _ _ _).heard

theorem noteSeq_hostOnly (c : Cmd) : HostOnly s (s.noteSeq c) := by
  unfold State.noteSeq
  dsimp only
  split <;> split <;> rfl

theorem openCmd_hostOnly (c : Cmd) : HostOnly s (s.openCmd c) := rfl
theorem served_heard (c : Cmd) : HeardOnly s (s.served c) :=
  ((hear_heard s c).trans (noteSeq_hostOnly _ c).heard).trans (openCmd_hostOnly _ c).heard
theorem settle_hostOnly : HostOnly s s.settle := by unfold HostOnly; rw [settle_eq]

/-! Registers that a command and its answer leave alone. -/

/-- Every register but the host interface's own keeps its value. -/
def KeepsRegs (s t : State) : Prop := ∀ id i, i < 256 → id ∉ hostOwn → t.reg id i = s.reg id i

theorem KeepsRegs.refl : KeepsRegs s s := fun _ _ _ _ => rfl
theorem KeepsRegs.trans {s t u : State} (h : KeepsRegs s t) (k : KeepsRegs t u) : KeepsRegs s u :=
  fun id i hi hn => (k id i hi hn).trans (h id i hi hn)
theorem KeepsRegs.each {α : Type} {s : State} (f : State → α → State) (l : List α) (h : ∀ t, ∀ a ∈ l, KeepsRegs t (f t a)) :
    KeepsRegs s (s.each l f) := each_keeps s (KeepsRegs s) f l (fun t a ha k => k.trans (h t a ha)) (KeepsRegs.refl s)
/-- A state with the same register file keeps every register. -/
theorem KeepsRegs.of_r {s t : State} (h : t.r = s.r) : KeepsRegs s t := by
  intro id i _ _; unfold State.reg; rw [h]

theorem setReg_keepsRegs {id i : Nat} (v : Nat) (hid : id ∈ hostOwn) (hi : i < 256) : KeepsRegs s (s.setReg id i v) := by
  intro id' i' hi' hn
  have hb : id ≠ P.engBank := by intro e; rw [e] at hid; exact absurd hid (by decide)
  exact reg_setReg_ne s v hi' hi hb (fun e => hn (e.1 ▸ hid))

theorem noteSet_keepsRegs (p g : Nat) : KeepsRegs s (s.noteSet p g) := fun _ _ _ _ => rfl
theorem setRing_keepsRegs (r : Nat) (x : RingSt) : KeepsRegs s (s.setRing r x) := fun _ _ _ _ => rfl
theorem messageSeen_keepsRegs : KeepsRegs s s.messageSeen := fun _ _ _ _ => rfl
theorem startDeferred_keepsRegs (c : Cmd) : KeepsRegs s (s.startDeferred c) := fun _ _ _ _ => rfl
theorem perf_keepsRegs (p : PerfSt) : KeepsRegs s { s with perf := p } := fun _ _ _ _ => rfl
theorem openCmd_keepsRegs (c : Cmd) : KeepsRegs s (s.openCmd c) := setRing_keepsRegs s _ _

theorem flagGstat_keepsRegs (n : Nat) : KeepsRegs s (s.flagGstat n) :=
  (setReg_keepsRegs s (id := P.hostGstat) (i := 0) (putBit (s.reg P.hostGstat 0) n true) (by decide) (by decide)).trans
    (noteSet_keepsRegs _ 0 (2 ^ n))
theorem setIdx_keepsRegs {r : Nat} (h t : Nat) (hr : r < 256) : KeepsRegs s (s.setIdx r h t) :=
  (setReg_keepsRegs s (id := P.hostRingIdx) _ (by decide) hr).trans
    (setReg_keepsRegs _ (id := P.hostRingStamp) _ (by decide) hr)
theorem irqPend_keepsRegs (r : Nat) : KeepsRegs s (s.irqPend r) :=
  (setReg_keepsRegs s (id := P.hostIrqPend) (i := 0) (s.reg P.hostIrqPend 0 ||| 2 ^ r) (by decide) (by decide)).trans
    (noteSet_keepsRegs _ (2 ^ r) 0)
theorem produce_keepsRegs {r : Nat} (n : Nat) (hr : r < 256) : KeepsRegs s (s.produce r n) :=
  (setIdx_keepsRegs s _ _ hr).trans (irqPend_keepsRegs _ _)
theorem writeEntries_r (r i : Nat) (es : List (List Byte)) : (s.writeEntries r i es).r = s.r := by
  induction es generalizing s i with
  | nil => rfl
  | cons e es ih => exact (ih _ _).trans rfl
theorem writeMessage_keepsRegs {r : Nat} (op tag inst dl : Nat) (pl : List Byte) (hr : r < 256) :
    KeepsRegs s (s.writeMessage r op tag inst dl pl) :=
  ((KeepsRegs.of_r (writeEntries_r s _ _ _)).trans (produce_keepsRegs _ _ hr)).trans (setRing_keepsRegs _ _ _)
theorem canSend_r (p : Nat) (e : Bool) (bs : List Byte) : (s.canSend p e bs).r = s.r := by
  unfold State.canSend; split <;> rfl
theorem dropMessage_keepsRegs {r : Nat} (stamp : Nat) (hr : r < 256) : KeepsRegs s (s.dropMessage r stamp) :=
  ((setReg_keepsRegs s (id := P.hostRingDrop) (satInc top32 (s.reg P.hostRingDrop r)) (by decide) hr).trans
    (flagGstat_keepsRegs _ 9)).trans (setRing_keepsRegs _ _ _)
theorem writeLost_keepsRegs {r : Nat} (hr : r < 256) : KeepsRegs s (s.writeLost r) := by
  unfold State.writeLost
  dsimp only
  generalize lostPayload s.epoch (s.ring r) = pl
  generalize messageBytes 0x4401 0 r 0 (s.epoch % 2 ^ 32) (s.ring r).seqOut pl = bs
  have h := writeMessage_keepsRegs s 0x4401 0 r (s.epoch % 2 ^ 32) pl hr
  generalize s.writeMessage r 0x4401 0 r (s.epoch % 2 ^ 32) pl = t at h ⊢
  split
  · exact (h.trans (setRing_keepsRegs _ _ _)).trans (KeepsRegs.of_r (canSend_r _ _ _ _))
  · exact h.trans (setRing_keepsRegs _ _ _)

/-- An event keeps every register but the host interface's own. -/
theorem event_keepsRegs (k : EventKind) (op tag inst stamp : Nat) (pl : List Byte) :
    KeepsRegs s (s.event k op tag inst stamp pl) := by
  unfold State.event
  dsimp only
  have h16 : (16 : Nat) < 256 := by decide
  split
  · split
    · split
      · exact (writeMessage_keepsRegs s _ _ _ _ _ h16).trans (KeepsRegs.of_r (canSend_r _ _ _ _))
      · exact writeMessage_keepsRegs s _ _ _ _ _ h16
    · exact dropMessage_keepsRegs s _ h16
  · split
    · split
      · exact ((writeLost_keepsRegs s h16).trans (writeMessage_keepsRegs _ _ _ _ _ _ h16)).trans
          (KeepsRegs.of_r (canSend_r _ _ _ _))
      · exact (writeLost_keepsRegs s h16).trans (writeMessage_keepsRegs _ _ _ _ _ _ h16)
    · exact dropMessage_keepsRegs s _ h16

theorem putResponse_keepsRegs {r : Nat} (op tag inst low : Nat) (pl : List Byte) (hr : r < 64) :
    KeepsRegs s (s.putResponse r op tag inst low pl) := by
  unfold State.putResponse
  dsimp only
  have hr1 : r + 1 < 256 := by omega
  split
  · exact ((writeMessage_keepsRegs s _ _ _ _ _ hr1).trans (KeepsRegs.of_r (canSend_r _ _ _ _))).trans
      (setIdx_keepsRegs _ _ _ (by decide))
  · exact writeMessage_keepsRegs s _ _ _ _ _ hr1

theorem writeResponse_keepsRegs {r : Nat} (op tag inst low : Nat) (pl : List Byte) (hr : r < 64) :
    KeepsRegs s (s.writeResponse r op tag inst low pl) := by
  unfold State.writeResponse
  have hr1 : r + 1 < 256 := by omega
  split
  · exact setReg_keepsRegs s (id := P.hostRingDrop) _ (by decide) hr1
  · split
    · exact fun _ _ _ _ => rfl
    · exact putResponse_keepsRegs s _ _ _ _ _ hr

theorem respond_keepsRegs (c : Cmd) (st ix : Nat) (data : List Byte) (hr : c.ring < 64) :
    KeepsRegs s (s.respond c st ix data) := by
  unfold State.respond
  dsimp only
  split
  · exact setRing_keepsRegs s _ _
  · exact (setRing_keepsRegs s _ _).trans (writeResponse_keepsRegs _ _ _ _ _ _ hr)

/-- The end of a command keeps every register but the host interface's own. -/
theorem reply_keepsRegs (c : Cmd) (r : Reply) (hr : c.ring < 64) : KeepsRegs s (s.reply c r) := by
  cases r with
  | now st ix data => exact respond_keepsRegs s _ _ _ _ hr
  | deferred => exact (startDeferred_keepsRegs s c).trans (respond_keepsRegs (s.startDeferred c) _ _ _ _ hr)
  | later => exact KeepsRegs.refl s

theorem countOn_keepsRegs {e : Nat} (n : Nat) (he : e < 256) : KeepsRegs s (s.countOn e n) := by
  unfold State.countOn
  dsimp only
  generalize s.reg P.perfCnt e + n = v
  generalize 2 ^ 48 = top
  split
  · exact KeepsRegs.refl s
  · split
    · exact setReg_keepsRegs s (id := P.perfCnt) _ (by decide) he
    · exact (setReg_keepsRegs s (id := P.perfCnt) (v - top) (by decide) he).trans (perf_keepsRegs _ _)

theorem countEvent_keepsRegs {c : Nat} (evt n : Nat) (hc : c < 2) : KeepsRegs s (s.countEvent c evt n) := by
  unfold State.countEvent
  split
  · exact KeepsRegs.refl s
  · apply KeepsRegs.each
    intro t k hk
    have := List.mem_range.mp hk
    split
    · exact countOn_keepsRegs t _ (by omega)
    · exact KeepsRegs.refl t

/-- Taking a command keeps every register but the host interface's own. -/
theorem served_keepsRegs (c : Cmd) : KeepsRegs s (s.served c) := by
  have h1 : KeepsRegs s (s.hear c) :=
    ((messageSeen_keepsRegs s).trans (countEvent_keepsRegs _ _ _ (by decide))).trans (setRing_keepsRegs _ _ _)
  have h2 : KeepsRegs (s.hear c) ((s.hear c).noteSeq c) := by
    unfold State.noteSeq
    dsimp only
    split
    all_goals
      split
      · exact ((setReg_keepsRegs _ (id := P.hostSeqGap) (i := 0) (satInc top32 _) (by decide) (by decide)).trans
          (flagGstat_keepsRegs _ 11)).trans (setRing_keepsRegs _ _ _)
      · exact setRing_keepsRegs _ _ _
  exact (h1.trans h2).trans (openCmd_keepsRegs _ _)

theorem settle_keepsRegs : KeepsRegs s s.settle := fun _ _ _ _ => reg_settle s _ _

/-- At most what a message touches differs, and of the registers only the host interface's own and the counters'. -/
def Framed (s t : State) : Prop :=
  HeardOnly s t ∧ ∀ id i, i < 256 → id ∉ hostOwn → id ≠ P.hostLateCnt → id ≠ P.hostRespStall → t.reg id i = s.reg id i

theorem Framed.of {s t : State} (h : HeardOnly s t) (k : KeepsRegs s t) : Framed s t := ⟨h, fun id i hi hn _ _ => k id i hi hn⟩
theorem Framed.trans {s t u : State} (h : Framed s t) (k : Framed t u) : Framed s u :=
  ⟨h.1.trans k.1, fun id i a b c d => (k.2 id i a b c d).trans (h.2 id i a b c d)⟩
theorem Framed.refl : Framed s s := Framed.of (HostOnly.refl s).heard (KeepsRegs.refl s)

theorem settle_framed : Framed s s.settle := .of (settle_hostOnly s).heard (settle_keepsRegs s)
theorem reply_framed (c : Cmd) (r : Reply) (hr : c.ring < 64) : Framed s (s.reply c r) :=
  .of (reply_hostOnly s c r).heard (reply_keepsRegs s c r hr)
theorem respond_framed (c : Cmd) (st ix : Nat) (data : List Byte) (hr : c.ring < 64) : Framed s (s.respond c st ix data) :=
  .of (respond_hostOnly s c st ix data).heard (respond_keepsRegs s c st ix data hr)
theorem hear_framed (c : Cmd) : Framed s (s.hear c) :=
  .of (hear_heard s c) (((messageSeen_keepsRegs s).trans (countEvent_keepsRegs _ _ _ (by decide))).trans (setRing_keepsRegs _ _ _))
theorem served_framed (c : Cmd) : Framed s (s.served c) := .of (served_heard s c) (served_keepsRegs s c)
theorem noteSeq_framed (c : Cmd) : Framed s (s.noteSeq c) := by
  refine .of (noteSeq_hostOnly s c).heard ?_
  unfold State.noteSeq
  dsimp only
  split
  all_goals
    split
    · exact ((setReg_keepsRegs _ (id := P.hostSeqGap) (i := 0) (satInc top32 _) (by decide) (by decide)).trans
        (flagGstat_keepsRegs _ 11)).trans (setRing_keepsRegs _ _ _)
    · exact setRing_keepsRegs _ _ _
theorem bump_framed {id : Nat} (t : Nat) (hid : id = P.hostLateCnt ∨ id = P.hostRespStall) : Framed s (s.bump id 0 t) := by
  refine ⟨(setReg_hostOnly s id 0 _).heard, fun id' i hi _ h1 h2 => ?_⟩
  have hb : id ≠ P.engBank := by rcases hid with h | h <;> rw [h] <;> decide
  exact reg_setReg_ne s _ hi (by decide) hb (fun e => by
    rcases hid with h | h
    · exact h1 (e.1.trans h)
    · exact h2 (e.1.trans h))
theorem setRing_framed (r : Nat) (x : RingSt) : Framed s (s.setRing r x) :=
  .of (setRing_hostOnly s r x).heard (setRing_keepsRegs s r x)
theorem writeResponse_framed (r op tag inst low : Nat) (pl : List Byte) (hr : r < 64) : Framed s (s.writeResponse r op tag inst low pl) :=
  .of (writeResponse_hostOnly s r op tag inst low pl).heard (writeResponse_keepsRegs s op tag inst low pl hr)

theorem stall_framed (r : Nat) : Framed s (s.stall r) := by
  unfold State.stall
  split
  · exact Framed.refl s
  · exact (bump_framed s _ (.inr rfl)).trans (setRing_framed _ _ _)
theorem waits_framed (l : List (Cmd × List Byte)) : Framed s { s with host := { s.host with atEnd := l } } :=
  .of (HostOnly.heard rfl) (fun _ _ _ _ => rfl)

/-- A mailbox command is turned away, left for the end of the tick or answered without its body, or its body runs once between what taking it and
answering it do. -/
theorem serve_cases (c : Cmd) (dl : Nat) (pl : List Byte) (body : State → Cmd → List Byte → State × Reply) (hr : c.ring < 64) :
    Framed s (s.serve c dl pl body) ∨ Framed (body (s.served c) c pl).1 (s.serve c dl pl body) := by
  have ho : Framed s ((s.hear c).noteSeq c) := (hear_framed s c).trans (noteSeq_framed _ c)
  have hs := served_framed s c
  unfold State.serve
  split
  · exact .inl (Framed.refl s)
  · split
    · exact .inl (Framed.refl s)
    · split
      · exact .inl (stall_framed s _)
      · extract_lets s1 s2 s3
        split
        · split
          · exact .inl ((hear_framed s c).trans (writeResponse_framed _ _ _ _ _ _ _ hr))
          · exact .inl (hear_framed s c)
        · split
          · exact .inl (ho.trans ((bump_framed _ _ (.inl rfl)).trans (writeResponse_framed _ _ _ _ _ _ _ hr)))
          · split
            · exact .inl (hs.trans (respond_framed _ c _ _ _ hr))
            · split
              · exact .inl (hs.trans (respond_framed _ c _ _ _ hr))
              · split
                · exact .inl (hs.trans (respond_framed _ c _ _ _ hr))
                · split
                  · exact .inl (hs.trans (respond_framed _ c _ _ _ hr))
                  · split
                    · exact .inl (hs.trans (waits_framed _ _))
                    · refine .inr ?_
                      split
                      rename_i e
                      have e' : body (s.served c) c pl = _ := e
                      rw [e']
                      exact reply_framed _ c _ hr

end Sys2Proof.Laws
end

