-- ==== Sys2Proof/Laws/Bytes.lean ====
section
/-! SUPPORT. Little-endian fields, runs of bytes in memory, and the fields of a mailbox message. -/

namespace Sys2Proof.Laws
open Sys2Proof.Machine

@[simp] theorem length_leBytes (n v : Nat) : (leBytes n v).length = n := by
  induction n generalizing v with
  | zero => rfl
  | succ n ih => simp [leBytes, ih]

/-- The bytes of a number read back as the number. -/
theorem leNat_leBytes (n v : Nat) : leNat (leBytes n v) = v % 256 ^ n := by
  induction n generalizing v with
  | zero => simp [leBytes, leNat, Nat.mod_one]
  | succ n ih =>
    simp only [leBytes, leNat, ih, BitVec.toNat_ofNat]
    have h : v % (256 * 256 ^ n) = v % 256 + 256 * (v / 256 % 256 ^ n) := Nat.mod_mul
    rw [show 256 ^ (n + 1) = 256 * 256 ^ n by rw [Nat.pow_succ, Nat.mul_comm], h]

@[simp] theorem length_readBytes (m : Memory) (a n : Nat) : (m.readBytes a n).length = n := by
  induction n generalizing a with
  | zero => rfl
  | succ n ih => simp [Memory.readBytes, ih]

/-- A run within a run. -/
theorem readBytes_within (m : Memory) (a k n e : Nat) (h : k + n ≤ e) :
    m.readBytes (a + k) n = ((m.readBytes a e).drop k).take n := by
  induction k generalizing a e with
  | zero =>
    simp only [Nat.add_zero, List.drop_zero]
    induction n generalizing a e with
    | zero => simp [Memory.readBytes]
    | succ n ih =>
      obtain ⟨e, rfl⟩ : ∃ e', e = e' + 1 := ⟨e - 1, by omega⟩
      simp [Memory.readBytes, ih (a + 1) e (by omega)]
  | succ k ih =>
    obtain ⟨e, rfl⟩ : ∃ e', e = e' + 1 := ⟨e - 1, by omega⟩
    simp only [Memory.readBytes, List.drop_succ_cons]
    rw [← ih (a + 1) e (by omega), Nat.add_assoc, Nat.add_comm 1 k]

/-- The fields of a message read back as they were written (R86). -/
theorem message_fields (op tag inst flags dl seq : Nat) (pl : List Byte) (h1 : op < 2 ^ 16) (h2 : tag < 2 ^ 16)
    (h3 : inst < 2 ^ 8) (h4 : flags < 2 ^ 8) (h5 : dl < 2 ^ 32) (h6 : seq < 2 ^ 32) (h7 : pl.length < 2 ^ 16) :
    let m := messageBytes op tag inst flags dl seq pl
    fieldAt m 0 2 = op ∧ fieldAt m 2 2 = tag ∧ fieldAt m 4 1 = inst ∧ fieldAt m 5 1 = flags ∧
    fieldAt m 6 2 = pl.length ∧ fieldAt m 8 4 = dl ∧ fieldAt m 12 4 = seq := by
  intro m
  simp only [m, messageBytes, leBytes, List.cons_append, List.nil_append, fieldAt, List.drop_succ_cons, List.drop_zero,
    List.take_succ_cons, List.take_zero, leNat, BitVec.toNat_ofNat]
  omega

/-- The payload of a message, and its CRC-32C, which passes (R86). -/
theorem message_payload (op tag inst flags dl seq : Nat) (pl : List Byte) :
    let m := messageBytes op tag inst flags dl seq pl
    m.length = 20 + pl.length ∧ (m.drop 16).take pl.length = pl ∧
    leNat (m.drop (16 + pl.length)) = crc32C (m.take (16 + pl.length)) := by
  intro m
  have hm : m = (leBytes 2 op ++ leBytes 2 tag ++ leBytes 1 inst ++ leBytes 1 flags ++ leBytes 2 pl.length
    ++ leBytes 4 dl ++ leBytes 4 seq) ++ pl ++ leBytes 4 (crc32C (leBytes 2 op ++ leBytes 2 tag ++ leBytes 1 inst
    ++ leBytes 1 flags ++ leBytes 2 pl.length ++ leBytes 4 dl ++ leBytes 4 seq ++ pl)) := rfl
  generalize hh : leBytes 2 op ++ leBytes 2 tag ++ leBytes 1 inst ++ leBytes 1 flags ++ leBytes 2 pl.length
    ++ leBytes 4 dl ++ leBytes 4 seq = hd at hm
  have hl : hd.length = 16 := by rw [← hh]; simp
  have hl2 : (hd ++ pl).length = 16 + pl.length := by simp [hl]
  generalize hc : leBytes 4 (crc32C (hd ++ pl)) = c at hm
  have hcl : c.length = 4 := by rw [← hc]; simp
  refine ⟨by rw [hm]; simp [hl, hcl]; omega, ?_, ?_⟩
  · rw [hm, List.append_assoc, ← hl, List.drop_left, List.take_left]
  · rw [hm, ← hl2, List.drop_left, List.take_left, ← hc, leNat_leBytes]
    apply Nat.mod_eq_of_lt
    exact Nat.mod_lt _ (by decide)

/-- The first entry of a run of entries. -/
theorem readEntries_succ (s : State) (r i n : Nat) :
    s.readEntries r i (n + 1) = Memory.readBytes s.pool (s.entryAddr r i) (s.ringEsize r) ++ s.readEntries r (i + 1) n := rfl

/-- What the entries of a ring read as depends on the ring pool and the register file alone. -/
theorem readEntries_pool {s t : State} (h1 : t.pool = s.pool) (h2 : t.r = s.r) (r n : Nat) :
    ∀ i, t.readEntries r i n = s.readEntries r i n := by
  have h3 : t.ringCfg r = s.ringCfg r := by unfold State.ringCfg State.reg; rw [h2]
  have h4 : t.ringEsize r = s.ringEsize r := by unfold State.ringEsize; rw [h3]
  have h5 : ∀ i, t.entryAddr r i = s.entryAddr r i := by
    intro i; unfold State.entryAddr State.ringEntries State.ringEsize; rw [h3]
  induction n with
  | zero => intro i; rfl
  | succ n ih => intro i; rw [readEntries_succ, readEntries_succ, ih, h1, h4, h5]

end Sys2Proof.Laws
end

