-- ==== Sys2Proof/Laws/Gates.lean ====
section
/-! SUPPORT. What reports and the window pickers leave alone: the generators, and the interlock map; and what driving
the gates does to a generator that STO forces off, and to a leg that is not shorted. -/

namespace Sys2Proof.Laws
open Sys2Proof.Machine

/-- The generators, their latches and the interlock map keep their value. -/
def Calm (s t : State) : Prop := t.pwm = s.pwm ∧ ∀ g, g < 256 → t.reg P.pwmIlMap g = s.reg P.pwmIlMap g

variable {s t u : State}

theorem Calm.refl (s : State) : Calm s s := ⟨rfl, fun _ _ => rfl⟩
theorem Calm.trans (h : Calm s t) (k : Calm t u) : Calm s u :=
  ⟨k.1.trans h.1, fun g hg => (k.2 g hg).trans (h.2 g hg)⟩
theorem Calm.each {α : Type} (f : State → α → State) (l : List α) (h : ∀ t a, Calm t (f t a)) : Calm s (s.each l f) :=
  each_keeps s (Calm s) f l (fun t a _ k => k.trans (h t a)) (Calm.refl s)

variable (s)

theorem setReg_calm {id i : Nat} (v : Nat) (hid : id ≠ P.pwmIlMap) (hb : id ≠ P.engBank) (hi : i < 256) : Calm s (s.setReg id i v) :=
  ⟨setReg_pwm s id i v, fun g hg => reg_setReg_ne s v hg hi hb (fun e => hid e.1.symm)⟩
/-- A change outside the generators and the register file. -/
theorem calm_of (h1 : t.pwm = s.pwm) (h2 : t.r = s.r) : Calm s t :=
  ⟨h1, fun g _ => by unfold State.reg; rw [h2]⟩
theorem setBit_calm {id i : Nat} (n : Nat) (b : Bool) (hid : id ≠ P.pwmIlMap) (hb : id ≠ P.engBank) (hi : i < 256) :
    Calm s (s.setBit id i n b) := setReg_calm s _ hid hb hi
theorem bump_calm {id i : Nat} (top : Nat) (hid : id ≠ P.pwmIlMap) (hb : id ≠ P.engBank) (hi : i < 256) :
    Calm s (s.bump id i top) := setReg_calm s _ hid hb hi
theorem flt_calm (x : FaultSt) : Calm s { s with flt := x } := calm_of s rfl rfl
theorem setRec_calm (k : Nat) (x : FRec) : Calm s (s.setRec k x) := calm_of s rfl rfl
theorem setDrv_calm (d : Nat) (x : DriveSt) : Calm s (s.setDrv d x) := calm_of s rfl rfl
theorem modDrv_calm (d : Nat) (f : DriveSt → DriveSt) : Calm s (s.modDrv d f) := calm_of s rfl rfl
theorem setPicker_calm (b : Nat) (x : Picker) : Calm s (s.setPicker b x) := calm_of s rfl rfl
theorem setDie_calm (j : Nat) (x : DieSt) : Calm s (s.setDie j x) := calm_of s rfl rfl
theorem openPen_calm (k : PenKind) (a b : Nat) : Calm s (s.openPen k a b) := calm_of s rfl rfl
theorem requestChip_calm (b : Nat) : Calm s (s.requestChip b) := calm_of s rfl rfl
theorem settle_calm : Calm s s.settle := calm_of s (by rw [settle_eq]) (by rw [settle_eq])

theorem event_calm (k : EventKind) (op tag inst stamp : Nat) (pl : List Byte) : Calm s (s.event k op tag inst stamp pl) := by
  refine ⟨?_, fun g hg => event_keepsRegs s k op tag inst stamp pl _ g hg (by decide)⟩
  have h := event_hostOnly s k op tag inst stamp pl
  rw [h]

theorem startBlk_calm (u : BlkUnit) : Calm s (s.startBlk u) := by
  unfold State.startBlk; split
  · exact Calm.refl s
  · exact flt_calm s _

theorem unlive_calm (k i : Nat) : Calm s (s.unlive k i) := by
  unfold State.unlive; dsimp only; split
  · exact setRec_calm s _ _
  · exact Calm.refl s

theorem registerAction_calm (a d p : Nat) : Calm s (s.registerAction a d p) := by
  unfold State.registerAction
  dsimp only
  split
  · exact Calm.refl s
  · split
    · exact Calm.refl s
    · split
      · exact setDrv_calm s _ _
      · exact Calm.refl s
    · exact setDrv_calm s _ _

theorem enterTail_calm : Calm s s.enterTail := by
  unfold State.enterTail; split
  · exact flt_calm s _
  · exact Calm.refl s

theorem enter_calm (e : JEntry) (ab : Bool) : Calm s (s.enter e ab).1 := by
  unfold State.enter
  have h := enterTail_calm s
  generalize s.enterTail = u at h
  extract_lets s1 e1 f1 s2 f2 t1 t2
  have h2 : Calm s s2 := h.trans (flt_calm u _)
  generalize (if ab then 1024 else 1008) = cap
  split
  · exact h2.trans (flt_calm s2 _)
  · exact h2.trans ((flt_calm s2 { f2 with tail := t2 }).trans
      (setReg_calm _ (id := P.fltJnlLost) (i := 0) (satInc top32 _) (by decide) (by decide) (by decide)))

theorem queueMirror_calm (c : FClass) (e : JEntry) : Calm s (s.queueMirror c e) := by
  unfold State.queueMirror; split
  · exact flt_calm s _
  · exact Calm.refl s

theorem queueTrouble_calm (k i : Nat) (e : JEntry) : Calm s (s.queueTrouble k i e) := by
  unfold State.queueTrouble; split
  · exact Calm.refl s
  · exact Calm.each _ _ (fun t d => flt_calm t _)

theorem hardwarePen_calm (k i st : Nat) : Calm s (s.hardwarePen k i st) := by
  unfold State.hardwarePen
  repeat' split
  all_goals first
    | exact Calm.refl s
    | exact openPen_calm s _ _ _
    | exact Calm.each _ _ (fun t d => openPen_calm t _ _ _)

theorem takeDeferred_calm (k i r : Nat) : Calm s (s.takeDeferred k i r) := by
  unfold State.takeDeferred
  dsimp only
  generalize s.frec (selector k i) = x
  generalize scopeMask (s.scope k i) = mask
  have h1 : Calm s (if bits r 6 2 ≠ 0 then s.setRec (selector k i) { x with act := bits r 6 2, drives := mask } else s) := by
    split
    · exact setRec_calm s _ _
    · exact Calm.refl s
  generalize (if bits r 6 2 ≠ 0 then s.setRec (selector k i) { x with act := bits r 6 2, drives := mask } else s) = u at h1 ⊢
  have h2 : Calm s (if bits r 6 2 = 1 ∨ bits r 6 2 = 2 then
      u.each (setBits 4 mask) (fun s d => if k = K.busOv4 ∧ ((s.drv d).phase = .mwHold ∨ s.stopped d = true) then s
        else (s.openPen (.driveAction d) s.epoch (selector k i)).registerAction (bits r 6 2) d (sourcePath k i)) else u) := by
    refine h1.trans ?_
    split
    · apply Calm.each
      intro t d
      split
      · exact Calm.refl t
      · exact (openPen_calm t _ _ _).trans (registerAction_calm _ _ _ _)
    · exact Calm.refl u
  generalize (if bits r 6 2 = 1 ∨ bits r 6 2 = 2 then _ else u) = w at h2 ⊢
  refine h2.trans ?_
  split
  · exact (requestChip_calm w _).trans (flt_calm _ _)
  · split
    · split
      · exact flt_calm w _
      · exact Calm.refl w
    · exact Calm.refl w

/-- A report leaves the generators and the interlock map alone. -/
theorem report_calm (k i st : Nat) (fr : Option Nat) (da : Nat) (inj nr : Bool) : Calm s (s.report k i st fr da inj nr) := by
  unfold State.report
  split
  · exact Calm.refl s
  · next row hrow =>
    have hk : k < 256 := by
      unfold sourceRow at hrow
      have hm := List.mem_of_find?_eq_some hrow
      have he := List.find?_some hrow
      have hall : ∀ r ∈ sourceTable, r.kind < 256 := by decide
      have := hall _ hm
      simp only [beq_iff_eq] at he
      omega
    extract_lets sel x pen conseq first wasH react defer setCause x1 s1 s2 s3 dropH taken s4 task f5 s5 s6
    split
    · exact Calm.refl s
    split
    · exact Calm.refl s
    split
    · split
      · exact setRec_calm s _ _
      · exact Calm.refl s
    have h1 : Calm s s1 := setRec_calm s _ _
    have h2 : Calm s s2 := by
      refine h1.trans ?_
      show Calm s1 (if inj then s1 else s1.bump P.fltLife k top32)
      split
      · exact Calm.refl s1
      · exact setReg_calm s1 (id := P.fltLife) (satInc top32 _) (by decide) (by decide) hk
    have h3 : Calm s s3 := by
      refine h2.trans ?_
      show Calm s2 (if conseq then s2.bump P.fltConseqCnt 0 top32 else s2)
      split
      · exact setReg_calm s2 (id := P.fltConseqCnt) (i := 0) (satInc top32 _) (by decide) (by decide) (by decide)
      · exact Calm.refl s2
    have h4 : Calm s s4 := h3.trans (flt_calm s3 _)
    clear_value s4
    split
    · exact h4
    have h6 : Calm s s6 := (h4.trans (flt_calm s4 _)).trans (hardwarePen_calm s5 k i st)
    clear_value s6
    split
    · exact h6
    · exact h6.trans (takeDeferred_calm _ _ _ _)

/-! Eclipse skips and window pickers. -/

theorem ownerOf_lt {b d : Nat} (h : s.ownerOf b = some d) : d < 4 := by
  unfold State.ownerOf at h
  exact List.mem_range.mp (List.mem_of_find?_eq_some h)

theorem eclSkip_calm {d : Nat} (r k : Nat) (hd : d < 256) : Calm s (s.eclSkip d r k) := by
  unfold State.eclSkip
  extract_lets s1 s2 s3
  have h1 : Calm s s1 := (setReg_calm s (id := P.posEclSkipCnt) (satInc top32 _) (by decide) (by decide) hd).trans
    (setReg_calm _ (id := P.posEclRun) (satInc top8 _) (by decide) (by decide) hd)
  have h2 : Calm s s2 := h1.trans (setReg_calm _ (id := P.posEclLast) _ (by decide) (by decide) hd)
  have h3 : Calm s s3 := h2.trans (modDrv_calm _ _ _)
  clear_value s3
  split
  · exact h3.trans ((setReg_calm _ (id := P.posEclRun) 0 (by decide) (by decide) hd).trans (report_calm _ _ _ _ _ _ _ _))
  · exact h3

theorem eclForced_calm (b : Nat) : Calm s (s.eclForced b) := by
  unfold State.eclForced
  split
  · exact Calm.refl s
  · next d hd =>
    have := ownerOf_lt s hd
    split
    · exact Calm.refl s
    · split
      · split
        · exact Calm.refl s
        · exact (modDrv_calm _ _ _).trans (eclSkip_calm _ _ _ (by omega))
      · exact Calm.refl s

theorem pickerClose_calm {b : Nat} (n : Nat) (hb : b < 256) : Calm s (s.pickerClose b n) := by
  unfold State.pickerClose
  extract_lets p pri
  split
  · exact Calm.refl s
  · split
    · split
      · exact Calm.refl s
      · exact setPicker_calm s _ _
    · split
      · split
        · exact Calm.refl s
        · exact setReg_calm s (id := P.adcOfsA) _ (by decide) (by decide) hb
      · exact Calm.refl s

theorem pickerEdge_calm {b : Nat} (n : Nat) (hb : b < 256) : Calm s (s.pickerEdge b n) := by
  unfold State.pickerEdge
  extract_lets p same
  rcases s.gateState b with ⟨v, f, st⟩
  dsimp only
  split
  · exact setPicker_calm s _ _
  · split
    all_goals
      refine Calm.trans ?_ (setPicker_calm _ _ _)
      first
        | exact Calm.refl s
        | exact pickerClose_calm s _ hb
        | (split; exact Calm.refl s; exact pickerClose_calm s _ hb)

/-! Gates. -/

theorem Calm.gen {s t : State} (h : Calm s t) (g : Nat) : t.gen g = s.gen g := by unfold State.gen; rw [h.1]

theorem mem_setBits {n v g : Nat} (hg : g < n) (h : bit v g = true) : g ∈ setBits n v := by
  unfold setBits
  exact List.mem_filter.mpr ⟨List.mem_range.mpr hg, h⟩

/-- A generator that STO forces keeps its latch, and its gates stay off once they are. -/
def StoKeeps (s t : State) : Prop :=
  (∀ g, (t.gen g).fOff = (s.gen g).fOff ∧ (t.gen g).frozen = (s.gen g).frozen) ∧
  (∀ g, bit (s.gen g).fOff 10 = true → (s.gen g).frozen = false → (s.gen g).gh = false → (s.gen g).gl = false →
    (t.gen g).gh = false ∧ (t.gen g).gl = false) ∧
  ∀ g, g < 256 → t.reg P.pwmIlMap g = s.reg P.pwmIlMap g

theorem StoKeeps.refl : StoKeeps s s := ⟨fun _ => ⟨rfl, rfl⟩, fun _ _ _ h k => ⟨h, k⟩, fun _ _ => rfl⟩
theorem StoKeeps.trans {s t u : State} (h : StoKeeps s t) (k : StoKeeps t u) : StoKeeps s u := by
  refine ⟨fun g => ⟨(k.1 g).1.trans (h.1 g).1, (k.1 g).2.trans (h.1 g).2⟩, ?_, fun g hg => (k.2.2 g hg).trans (h.2.2 g hg)⟩
  intro g h1 h2 h3 h4
  obtain ⟨h5, h6⟩ := h.2.1 g h1 h2 h3 h4
  exact k.2.1 g (by rw [(h.1 g).1]; exact h1) (by rw [(h.1 g).2]; exact h2) h5 h6
theorem StoKeeps.each {α : Type} {s : State} (f : State → α → State) (l : List α)
    (h : ∀ t, ∀ a ∈ l, StoKeeps t (f t a)) : StoKeeps s (s.each l f) :=
  each_keeps s (StoKeeps s) f l (fun t a ha k => k.trans (h t a ha)) (StoKeeps.refl s)
theorem Calm.sto {s t : State} (h : Calm s t) : StoKeeps s t :=
  ⟨fun g => by rw [h.gen g]; exact ⟨rfl, rfl⟩, fun g _ _ h3 h4 => by rw [h.gen g]; exact ⟨h3, h4⟩, h.2⟩

/-- No leg that was not shorted before is shorted. -/
def LegsKept (s t : State) : Prop := (∀ g, (s.gen g).legSafe) → ∀ g, (t.gen g).legSafe

theorem LegsKept.refl : LegsKept s s := id
theorem LegsKept.trans {s t u : State} (h : LegsKept s t) (k : LegsKept t u) : LegsKept s u := k ∘ h
theorem LegsKept.each {α : Type} {s : State} (f : State → α → State) (l : List α) (h : ∀ t a, LegsKept t (f t a)) :
    LegsKept s (s.each l f) := each_keeps s (LegsKept s) f l (fun t a _ k => k.trans (h t a)) (LegsKept.refl s)
theorem Calm.legs {s t : State} (h : Calm s t) : LegsKept s t := fun k g => by rw [h.gen g]; exact k g
/-- A change that leaves the generators alone. -/
theorem legs_of_gens {s t : State} (h : t.pwm.gens = s.pwm.gens) : LegsKept s t := by
  intro k g; unfold State.gen; rw [h]; exact k g
theorem setTrip_legs (n : Nat) (x : TripSt) : LegsKept s (s.setTrip n x) := legs_of_gens rfl
/-- A change of generator g that keeps its gates. -/
theorem modGen_legs (g : Nat) (f : Gen → Gen) (h : ∀ x, (f x).gh = x.gh ∧ (f x).gl = x.gl) : LegsKept s (s.modGen g f) := by
  intro k j
  unfold State.modGen
  by_cases hj : j = g
  · subst hj; rw [gen_setGen]; unfold Gen.legSafe; rw [(h _).1, (h _).2]; exact k j
  · rw [gen_setGen_ne s _ hj]; exact k j

/-- STO governs the level of a generator whatever else forces it (R165). -/
theorem sto_level {g : Nat} (h : bit (s.gen g).fOff 10 = true) : s.forceLevel g = 1 := by
  unfold State.forceLevel
  split
  · rfl
  · have : (s.latchLevel g).1 = 1 := by unfold State.latchLevel; simp [h]
    simp [this]

theorem genCmd_exclusive (g : Nat) : ¬ ((s.genCmd g).1 = true ∧ (s.genCmd g).2 = true) := by
  unfold State.genCmd
  split
  · simp
  · simp
  · dsimp only
    split
    · cases (s.gen (s.ilLead g)).req <;> simp
    · simp
    · simp
    · simp

/-- A frozen generator keeps its gates (R171). -/
theorem driveGates_frozen {g : Nat} (n : Nat) (c : Bool) (h : (s.gen g).frozen = true) : s.driveGates g n c = s := by
  unfold State.driveGates; simp [h]

theorem turnOffs (x : Gen) (ch cl : Bool) (n : Nat) :
    let x1 := if x.gh && !ch then x.turnH false n else x
    let x2 := if x1.gl && !cl then x1.turnL false n else x1
    x2.fOff = x.fOff ∧ x2.frozen = x.frozen ∧ (x2.gh = true → ch = true) ∧ (x2.gl = true → cl = true) := by
  intro x1 x2
  have h1 : x1.fOff = x.fOff ∧ x1.frozen = x.frozen ∧ (x1.gh = true → ch = true) ∧ x1.gl = x.gl := by
    simp only [x1, Gen.turnH]
    cases hg : x.gh <;> cases ch <;> simp [hg]
  have h2 : x2.fOff = x1.fOff ∧ x2.frozen = x1.frozen ∧ x2.gh = x1.gh ∧ (x2.gl = true → cl = true) := by
    simp only [x2, Gen.turnL]
    cases hg : x1.gl <;> cases cl <;> simp [hg]
  exact ⟨h2.1.trans h1.1, h2.2.1.trans h1.2.1, fun h => h1.2.2.1 (h2.2.2.1 ▸ h), h2.2.2.2⟩

theorem turnOnH (x : Gen) (ch : Bool) (n d : Nat) :
    let y := if ch && !x.gh then (if x.offL + d ≤ n then x.turnH true n else { x with pendH := true }) else { x with pendH := false }
    y.fOff = x.fOff ∧ y.frozen = x.frozen ∧ y.gl = x.gl ∧ (y.gh = true → ch = true ∨ x.gh = true) := by
  intro y
  simp only [y, Gen.turnH]
  cases hg : x.gh <;> cases ch <;> simp [hg] <;> split <;> simp [hg]

theorem turnOnL (x : Gen) (cl : Bool) (n d : Nat) :
    let y := if cl && !x.gl then (if x.offH + d ≤ n then x.turnL true n else { x with pendL := true }) else { x with pendL := false }
    y.fOff = x.fOff ∧ y.frozen = x.frozen ∧ y.gh = x.gh ∧ (y.gl = true → cl = true ∨ x.gl = true) := by
  intro y
  simp only [y, Gen.turnL]
  cases hg : x.gl <;> cases cl <;> simp [hg] <;> split <;> simp [hg]

/-- The gates of a generator after its commands have acted: each is on only under its command, and nothing else
changes but the count of abandoned turn-ons (R142). -/
theorem driveGates_spec {g : Nat} (n : Nat) (c : Bool) (hg : g < 256) (hf : (s.gen g).frozen = false) :
    ∃ s' y, Calm s s' ∧ s.driveGates g n c = s'.setGen g y ∧ y.fOff = (s.gen g).fOff ∧ y.frozen = false ∧
      (y.gh = true → (s.genCmd g).1 = true) ∧ (y.gl = true → (s.genCmd g).2 = true) := by
  let x := s.gen g
  let ch := (s.genCmd g).1
  let cl := (s.genCmd g).2
  let l := s.ilLead g
  let lost := (x.pendH && !ch) || (x.pendL && !cl)
  let s' := if lost && c then s.bump P.pwmShortCnt g top32 else s
  let x1 := if x.gh && !ch then x.turnH false n else x
  let x2 := if x1.gl && !cl then x1.turnL false n else x1
  let x3 := if ch && !x2.gh then (if x2.offL + s'.reg P.pwmDtRise l ≤ n then x2.turnH true n else { x2 with pendH := true })
    else { x2 with pendH := false }
  let x4 := if cl && !x3.gl then (if x3.offH + s'.reg P.pwmDtFall l ≤ n then x3.turnL true n else { x3 with pendL := true })
    else { x3 with pendL := false }
  have e : s.driveGates g n c = s'.setGen g x4 := by
    unfold State.driveGates
    extract_lets
    rw [if_neg (by rw [show x.frozen = false from hf]; decide)]
  have h2 := turnOffs x ch cl n
  have h3 := turnOnH x2 ch n (s'.reg P.pwmDtRise l)
  have h4 := turnOnL x3 cl n (s'.reg P.pwmDtFall l)
  refine ⟨s', x4, ?_, e, h4.1.trans (h3.1.trans h2.1), (h4.2.1.trans (h3.2.1.trans h2.2.1)).trans hf, ?_, ?_⟩
  · show Calm s (if lost && c then s.bump P.pwmShortCnt g top32 else s)
    split
    · exact setReg_calm s (id := P.pwmShortCnt) (satInc top32 _) (by decide) (by decide) hg
    · exact Calm.refl s
  · intro h
    have h' := h4.2.2.1 ▸ h
    rcases h3.2.2.2 h' with k | k
    · exact k
    · exact h2.2.2.1 k
  · intro h
    rcases h4.2.2.2 h with k | k
    · exact k
    · exact h2.2.2.2 (h3.2.2.1 ▸ k)

theorem setGen_map {g : Nat} (x : Gen) (j : Nat) : (s.setGen g x).reg P.pwmIlMap j = s.reg P.pwmIlMap j := rfl

theorem driveGates_sto {g : Nat} (n : Nat) (c : Bool) (hg : g < 256) : StoKeeps s (s.driveGates g n c) := by
  cases hf : (s.gen g).frozen with
  | true => rw [driveGates_frozen s n c hf]; exact StoKeeps.refl s
  | false =>
    obtain ⟨s', y, hc, he, h1, h2, h3, h4⟩ := driveGates_spec s n c hg hf
    rw [he]
    refine hc.sto.trans ⟨fun j => ?_, fun j k1 k2 k3 k4 => ?_, fun j _ => rfl⟩
    · by_cases hj : j = g
      · subst hj; rw [gen_setGen, hc.gen, h1, h2, hf]; exact ⟨rfl, rfl⟩
      · rw [gen_setGen_ne s' _ hj]; exact ⟨rfl, rfl⟩
    · by_cases hj : j = g
      · subst hj
        rw [hc.gen] at k1
        have hl : s.genCmd j = (false, false) := by unfold State.genCmd; rw [sto_level s k1]; rfl
        rw [gen_setGen]
        rw [hl] at h3 h4
        refine ⟨?_, ?_⟩
        · cases h : y.gh
          · rfl
          · exact absurd (h3 h) (by decide)
        · cases h : y.gl
          · rfl
          · exact absurd (h4 h) (by decide)
      · rw [gen_setGen_ne s' _ hj]; exact ⟨k3, k4⟩

/-- Driving the gates of a generator that STO forces turns both off. -/
theorem driveGates_off {g : Nat} (n : Nat) (c : Bool) (hg : g < 256) (hf : (s.gen g).frozen = false)
    (h : bit (s.gen g).fOff 10 = true) : ((s.driveGates g n c).gen g).gh = false ∧ ((s.driveGates g n c).gen g).gl = false := by
  obtain ⟨s', y, hc, he, h1, h2, h3, h4⟩ := driveGates_spec s n c hg hf
  have hl : s.genCmd g = (false, false) := by unfold State.genCmd; rw [sto_level s h]; rfl
  rw [he, gen_setGen]
  rw [hl] at h3 h4
  refine ⟨?_, ?_⟩
  · cases h : y.gh
    · rfl
    · exact absurd (h3 h) (by decide)
  · cases h : y.gl
    · rfl
    · exact absurd (h4 h) (by decide)

theorem driveGates_legs {g : Nat} (n : Nat) (c : Bool) (hg : g < 256) : LegsKept s (s.driveGates g n c) := by
  cases hf : (s.gen g).frozen with
  | true => rw [driveGates_frozen s n c hf]; exact LegsKept.refl s
  | false =>
    obtain ⟨s', y, hc, he, h1, h2, h3, h4⟩ := driveGates_spec s n c hg hf
    rw [he]
    intro k j
    by_cases hj : j = g
    · subst hj; rw [gen_setGen]
      rintro ⟨a, b⟩
      exact genCmd_exclusive s j ⟨h3 a, h4 b⟩
    · rw [gen_setGen_ne s' _ hj, hc.gen]; exact k j

theorem setBits_lt {n v g : Nat} (h : g ∈ setBits n v) : g < n := List.mem_range.mp (List.mem_filter.mp h).1

/-- The gates of a generator that the interlock resolves. -/
theorem turnBothOff (x : Gen) (n : Nat) :
    let y := if x.gh then x.turnH false n else x
    let z := if y.gl then y.turnL false n else y
    z.fOff = x.fOff ∧ z.frozen = x.frozen ∧ z.gh = false ∧ z.gl = false := by
  intro y z
  have h1 : y.fOff = x.fOff ∧ y.frozen = x.frozen ∧ y.gh = false := by
    simp only [y, Gen.turnH]; cases hg : x.gh <;> simp [hg]
  have h2 : z.fOff = y.fOff ∧ z.frozen = y.frozen ∧ z.gh = y.gh ∧ z.gl = false := by
    simp only [z, Gen.turnL]; cases hg : y.gl <;> simp [hg]
  exact ⟨h2.1.trans h1.1, h2.2.1.trans h1.2.1, h2.2.2.1.trans h1.2.2, h2.2.2.2⟩

/-- A generator replaced by one with its latches, whose gates are off or as before. -/
theorem setGen_sto (g : Nat) (y : Gen) (h1 : y.fOff = (s.gen g).fOff) (h2 : y.frozen = (s.gen g).frozen)
    (h3 : (y.gh = false ∧ y.gl = false) ∨ (y.gh = (s.gen g).gh ∧ y.gl = (s.gen g).gl)) : StoKeeps s (s.setGen g y) := by
  refine ⟨fun j => ?_, fun j _ _ k3 k4 => ?_, fun j _ => rfl⟩
  · by_cases hj : j = g
    · subst hj; rw [gen_setGen]; exact ⟨h1, h2⟩
    · rw [gen_setGen_ne s _ hj]; exact ⟨rfl, rfl⟩
  · by_cases hj : j = g
    · subst hj; rw [gen_setGen]
      rcases h3 with h | h
      · exact h
      · exact ⟨h.1.trans k3, h.2.trans k4⟩
    · rw [gen_setGen_ne s _ hj]; exact ⟨k3, k4⟩
theorem setGen_legs (g : Nat) (y : Gen)
    (h3 : (y.gh = false ∧ y.gl = false) ∨ (y.gh = (s.gen g).gh ∧ y.gl = (s.gen g).gl)) : LegsKept s (s.setGen g y) := by
  intro k j
  by_cases hj : j = g
  · subst hj; rw [gen_setGen]
    unfold Gen.legSafe
    rcases h3 with h | h
    · rw [h.1]; simp
    · rw [h.1, h.2]; exact k j
  · rw [gen_setGen_ne s _ hj]; exact k j

theorem interlock_keeps (grp : List Nat) (n : Nat) : StoKeeps s (s.interlock grp n) ∧ LegsKept s (s.interlock grp n) := by
  unfold State.interlock
  extract_lets clash
  have step : ∀ (t : State) (g : Nat),
      let x := t.gen g
      let y := if x.gh then x.turnH false n else x
      let z := if y.gl then y.turnL false n else y
      let t' := t.setGen g { z with pendH := false, pendL := false, conflict := true }
      StoKeeps t t' ∧ LegsKept t t' := by
    intro t g x y z t'
    have h := turnBothOff x n
    exact ⟨setGen_sto t g _ h.1 h.2.1 (Or.inl h.2.2), setGen_legs t g _ (Or.inl h.2.2)⟩
  split
  · refine ⟨StoKeeps.each _ _ (fun t g _ => ?_), LegsKept.each _ _ (fun t g => ?_)⟩
    all_goals
      extract_lets x y z t'
      split
      · first | exact (step t g).1 | exact (step t g).2
      · first
          | exact (step t g).1.trans ((report_calm t' _ _ _ _ _ _ _).trans (eclForced_calm _ _)).sto
          | exact (step t g).2.trans ((report_calm t' _ _ _ _ _ _ _).trans (eclForced_calm _ _)).legs
  · refine ⟨StoKeeps.each _ _ (fun t g _ => ?_), LegsKept.each _ _ (fun t g => ?_)⟩
    · exact setGen_sto t g _ rfl rfl (Or.inr ⟨rfl, rfl⟩)
    · exact setGen_legs t g _ (Or.inr ⟨rfl, rfl⟩)

/-- A list of changes, each of which leaves the generators and the interlock map alone. -/
theorem eachIn_calm (l : List Nat) (f : State → Nat → State) (h : ∀ t, ∀ b ∈ l, Calm t (f t b)) : Calm s (s.each l f) :=
  each_keeps s (Calm s) f l (fun t a ha k => k.trans (h t a ha)) (Calm.refl s)

theorem bstTurnOn_calm (g : Nat) : Calm s (s.bstTurnOn g) := by
  unfold State.bstTurnOn
  split
  · exact Calm.refl s
  · dsimp only [State.takeFree]
    have h1 : Calm s { s with free := s.free + 1 } := calm_of s rfl rfl
    split
    · exact (h1.trans (calm_of _ rfl rfl)).trans (unlive_calm _ _ _)
    · exact h1

theorem bstTurnOns_calm (before : Smap Gen) : Calm s (s.bstTurnOns before) := by
  unfold State.bstTurnOns
  refine Calm.each _ _ (fun t g => ?_)
  split
  · exact bstTurnOn_calm t g
  · exact Calm.refl t

/-- The window pickers leave the generators alone. -/
theorem seeEdges_calm (before : Smap Gen) (n : Nat) : Calm s (s.seeEdges before n) := by
  unfold State.seeEdges
  refine eachIn_calm s _ _ (fun t b hb => ?_)
  have hb' : b < 256 := by have := List.mem_range.mp hb; omega
  extract_lets q t1
  have h1 : Calm t t1 := setPicker_calm t _ _
  split
  · exact h1.trans (pickerEdge_calm _ _ hb')
  · exact h1

theorem driveAll_keeps (l : List Nat) (n : Nat) (short : List Nat) (hl : ∀ a ∈ l, a < 12) :
    StoKeeps s (s.each l (fun s g => s.driveGates g n (short.contains g))) ∧
      LegsKept s (s.each l (fun s g => s.driveGates g n (short.contains g))) :=
  ⟨StoKeeps.each _ _ (fun t a ha => driveGates_sto t n _ (by have := hl a ha; omega)),
    each_keeps s (LegsKept s) _ _ (fun t a ha k => k.trans (driveGates_legs t n _ (by have := hl a ha; omega))) (LegsKept.refl s)⟩

theorem moveGates_keeps (gs : List Nat) (n : Nat) (short : List Nat) :
    StoKeeps s (s.moveGates gs n short) ∧ LegsKept s (s.moveGates gs n short) := by
  have one : ∀ t g, StoKeeps t ((t.each (t.ilGroup g) (fun s g => s.driveGates g n (short.contains g))).interlock (t.ilGroup g) n) ∧
      LegsKept t ((t.each (t.ilGroup g) (fun s g => s.driveGates g n (short.contains g))).interlock (t.ilGroup g) n) := by
    intro t g
    have hd := driveAll_keeps t (t.ilGroup g) n short (fun a ha => setBits_lt ha)
    have hi := interlock_keeps (t.each (t.ilGroup g) (fun s g => s.driveGates g n (short.contains g))) (t.ilGroup g) n
    exact ⟨hd.1.trans hi.1, hd.2.trans hi.2⟩
  exact ⟨StoKeeps.each _ _ (fun t a _ => (one t a).1), LegsKept.each _ _ (fun t a => (one t a).2)⟩

theorem applyGens_keeps (gs : List Nat) (n : Nat) (short : List Nat) :
    StoKeeps s (s.applyGens gs n short) ∧ LegsKept s (s.applyGens gs n short) := by
  have hm := moveGates_keeps s gs n short
  have hc := (bstTurnOns_calm (s.moveGates gs n short) s.pwm.gens).trans (seeEdges_calm _ s.pwm.gens n)
  exact ⟨hm.1.trans hc.sto, hm.2.trans hc.legs⟩

/-- Driving every generator of a list, each in its own interlock group, leaves those that STO forces off. -/
theorem moveGates_off (gs : List Nat) (n : Nat) (short : List Nat) (hm : ∀ g ∈ gs, g < 12 ∧ bit (s.reg P.pwmIlMap g) g = true)
    (hl : ∀ g ∈ gs, bit (s.gen g).fOff 10 = true ∧ (s.gen g).frozen = false) :
    ∀ g ∈ gs, ((s.moveGates gs n short).gen g).gh = false ∧ ((s.moveGates gs n short).gen g).gl = false := by
  -- one generator is off after its own turn, and stays off
  have one : ∀ (t : State) (g : Nat), g < 12 → bit (t.reg P.pwmIlMap g) g = true → bit (t.gen g).fOff 10 = true →
      (t.gen g).frozen = false → ((t.moveGates [g] n short).gen g).gh = false ∧ ((t.moveGates [g] n short).gen g).gl = false := by
    intro t g hg hmap hf hz
    have hin : g ∈ t.ilGroup g := mem_setBits hg hmap
    have hgrp : ∀ a ∈ t.ilGroup g, a < 12 := fun a ha => setBits_lt ha
    -- after the group is driven, g is off
    have hdr : ∀ (l : List Nat) (u : State), (∀ a ∈ l, a < 12) → g ∈ l → bit (u.gen g).fOff 10 = true → (u.gen g).frozen = false →
        ((u.each l (fun s g => s.driveGates g n (short.contains g))).gen g).gh = false ∧
          ((u.each l (fun s g => s.driveGates g n (short.contains g))).gen g).gl = false := by
      intro l
      induction l with
      | nil => intro u _ h; cases h
      | cons a l ih =>
        intro u hl hgl h1 h2
        have ha : a < 256 := by have := hl a List.mem_cons_self; omega
        have hk := driveGates_sto u n (short.contains a) ha
        have h1' : bit ((u.driveGates a n (short.contains a)).gen g).fOff 10 = true := by rw [(hk.1 g).1]; exact h1
        have h2' : ((u.driveGates a n (short.contains a)).gen g).frozen = false := by rw [(hk.1 g).2]; exact h2
        by_cases hml : g ∈ l
        · exact ih _ (fun b hb => hl b (List.mem_cons_of_mem _ hb)) hml h1' h2'
        · have hga : g = a := by rcases List.mem_cons.mp hgl with h | h; exact h; exact absurd h hml
          subst hga
          have ho := driveGates_off u n (short.contains g) ha h2 h1
          have hr := (driveAll_keeps (u.driveGates g n (short.contains g)) l n short (fun b hb => hl b (List.mem_cons_of_mem _ hb))).1
          exact hr.2.1 g h1' h2' ho.1 ho.2
    have hd := hdr (t.ilGroup g) t hgrp hin hf hz
    have hk := (driveAll_keeps t (t.ilGroup g) n short hgrp).1
    have hi := (interlock_keeps (t.each (t.ilGroup g) (fun s g => s.driveGates g n (short.contains g))) (t.ilGroup g) n).1
    have hf' : bit ((t.each (t.ilGroup g) (fun s g => s.driveGates g n (short.contains g))).gen g).fOff 10 = true := by
      rw [(hk.1 g).1]; exact hf
    have hz' : ((t.each (t.ilGroup g) (fun s g => s.driveGates g n (short.contains g))).gen g).frozen = false := by
      rw [(hk.1 g).2]; exact hz
    exact hi.2.1 g hf' hz' hd.1 hd.2
  -- the whole list
  have all : ∀ (l : List Nat) (t : State), (∀ g ∈ l, g < 12 ∧ bit (t.reg P.pwmIlMap g) g = true) →
      (∀ g ∈ l, bit (t.gen g).fOff 10 = true ∧ (t.gen g).frozen = false) →
      ∀ g ∈ l, ((t.moveGates l n short).gen g).gh = false ∧ ((t.moveGates l n short).gen g).gl = false := by
    intro l
    induction l with
    | nil => intro t _ _ g h; cases h
    | cons a l ih =>
      intro t h1 h2 g hg
      have hk := (moveGates_keeps t [a] n short).1
      have h2a := h2 a List.mem_cons_self
      have h1a := h1 a List.mem_cons_self
      have ho := one t a h1a.1 h1a.2 h2a.1 h2a.2
      by_cases hml : g ∈ l
      · refine ih (t.moveGates [a] n short) (fun b hb => ?_) (fun b hb => ?_) g hml
        · have := h1 b (List.mem_cons_of_mem _ hb)
          rw [hk.2.2 b (by omega)]; exact this
        · have := h2 b (List.mem_cons_of_mem _ hb)
          rw [(hk.1 b).1, (hk.1 b).2]; exact this
      · have hga : g = a := by rcases List.mem_cons.mp hg with h | h; exact h; exact absurd h hml
        subst hga
        have hr : StoKeeps (t.moveGates [g] n short) ((t.moveGates [g] n short).moveGates l n short) := (moveGates_keeps _ l n short).1
        exact hr.2.1 g (by rw [(hk.1 g).1]; exact h2a.1) (by rw [(hk.1 g).2]; exact h2a.2) ho.1 ho.2
  exact all gs s hm hl

theorem modEach_gen (f : Gen → Gen) (gs : List Nat) (g : Nat) (hidem : ∀ x, f (f x) = f x) :
    (s.each gs (fun s g => s.modGen g f)).gen g = if g ∈ gs then f (s.gen g) else s.gen g := by
  induction gs generalizing s with
  | nil => rfl
  | cons a l ih =>
    show ((s.modGen a f).each l (fun s g => s.modGen g f)).gen g = _
    rw [ih (s.modGen a f)]
    unfold State.modGen
    by_cases hga : g = a
    · subst hga
      rw [gen_setGen]
      by_cases hgl : g ∈ l
      · simp [hgl, hidem]
      · simp [hgl]
    · rw [gen_setGen_ne s _ hga]
      simp [hga]

theorem modEach_map (f : Gen → Gen) (gs : List Nat) (id i : Nat) :
    (s.each gs (fun s g => s.modGen g f)).reg id i = s.reg id i :=
  each_same s (fun t => t.reg id i) _ gs (fun _ _ _ => rfl)

/-- A source that forces generators shorts no leg. -/
theorem force_legs (src lvl n : Nat) (gs : List Nat) : LegsKept s (s.force src lvl n gs) := by
  unfold State.force
  extract_lets before s1 s2
  have h1 : LegsKept s s1 := LegsKept.each _ _ (fun t g => modGen_legs t g _ (fun x => by split <;> exact ⟨rfl, rfl⟩))
  have h2 : LegsKept s1 s2 := LegsKept.each _ _ (fun t g => modGen_legs t g _ (fun x => ⟨rfl, rfl⟩))
  exact (((h1.trans h2).trans (moveGates_keeps s2 gs n []).2).trans (seeEdges_calm _ before n).legs).trans
    (eachIn_calm _ _ _ (fun t b _ => eclForced_calm t b)).legs

/-- STO leaves every generator that it forces off and latched (R160, R165, R345). -/
theorem forceSto_off (n : Nat) (gs : List Nat) (hm : ∀ g ∈ gs, g < 12 ∧ bit (s.reg P.pwmIlMap g) g = true) :
    ∀ g ∈ gs, ((s.force 10 1 n gs).gen g).gh = false ∧ ((s.force 10 1 n gs).gen g).gl = false ∧
      bit ((s.force 10 1 n gs).gen g).fOff 10 = true ∧ ((s.force 10 1 n gs).gen g).frozen = false := by
  intro g hg
  unfold State.force
  extract_lets before s1 s2
  have or2 : ∀ x : Gen, ({ ({ x with fOff := x.fOff ||| 2 ^ 10 } : Gen) with fOff := ({ x with fOff := x.fOff ||| 2 ^ 10 } : Gen).fOff ||| 2 ^ 10 } : Gen) = { x with fOff := x.fOff ||| 2 ^ 10 } := by
    intro x; dsimp only; rw [Nat.or_assoc, Nat.or_self]
  have e1 : ∀ j ∈ gs, s1.gen j = { s.gen j with fOff := (s.gen j).fOff ||| 2 ^ 10 } := by
    intro j hj
    have := modEach_gen s (fun x => { x with fOff := x.fOff ||| 2 ^ 10 }) gs j or2
    rw [if_pos hj] at this
    exact this
  have e2 : ∀ j ∈ gs, s2.gen j = { s1.gen j with frozen := false, pendH := false, pendL := false } := by
    intro j hj
    have := modEach_gen s1 (fun x => { x with frozen := false, pendH := false, pendL := false }) gs j (fun _ => rfl)
    rw [if_pos hj] at this
    exact this
  have hb : ∀ j ∈ gs, bit (s2.gen j).fOff 10 = true ∧ (s2.gen j).frozen = false := by
    intro j hj
    rw [e2 j hj, e1 j hj]
    exact ⟨by unfold bit; dsimp only; rw [Nat.testBit_or, Nat.testBit_two_pow_self, Bool.or_true], rfl⟩
  have hmm : ∀ j ∈ gs, j < 12 ∧ bit (s2.reg P.pwmIlMap j) j = true := by
    intro j hj
    have h1 : s2.reg P.pwmIlMap j = s.reg P.pwmIlMap j := (modEach_map s1 _ gs _ _).trans (modEach_map s _ gs _ _)
    rw [h1]; exact hm j hj
  have hoff := moveGates_off s2 gs n [] hmm hb g hg
  have hk := (moveGates_keeps s2 gs n []).1
  have hc := (seeEdges_calm (s2.moveGates gs n []) before n).trans
    (eachIn_calm _ (gs.map (· / 3)).eraseDups (fun s b => s.eclForced b) (fun t b _ => eclForced_calm t b))
  rw [hc.gen g]
  refine ⟨hoff.1, hoff.2, ?_, ?_⟩
  · rw [(hk.1 g).1]; exact (hb g hg).1
  · rw [(hk.1 g).2]; exact (hb g hg).2

end Sys2Proof.Laws
end

