-- ==== Sys2Proof/WellFormed.lean ====
section
/-! DEFINITION. Well-formed commands: what a sender can send at all. A command outside these bounds stands for no
message, frame or access of the manual; the machine answers it all the same. -/

namespace Sys2Proof

open Sys2Proof.Machine

/-- The rings that carry mailbox commands (R72, R84, R455, R480). -/
def commandRings : List Nat := [0, 2, 4, 6, 32, 48]

/-- A mailbox command: on a command ring, with at most 1,004 bytes of payload (R86). -/
def mailboxOk (h : Hdr) (pl : List Byte) : Bool := commandRings.contains h.ring.val && decide (pl.length ≤ 1004)

/-- Data lengths of a CAN FD frame with at least the segment byte (R102; ISO 11898-1). -/
def canLengths : List Nat := [1, 2, 3, 4, 5, 6, 7, 8, 12, 16, 20, 24, 32, 48, 64]

/-- A CAN FD frame (R100, R102); classical frames carry at most 8 bytes. -/
def canOk (fr : CanFrame) : Bool :=
  if fr.fd then fr.data.isEmpty || canLengths.contains fr.data.length else decide (fr.data.length ≤ 8)

/-- A Dexlia frame: its payload's LENGTH is a 16-bit field (R442). -/
def frameOk (f : Frame) : Bool := decide (f.payload.length < 65536)

/-- A direct access names a listed parameter and one of its instances (R6, R94). -/
def accessOk (id : Half) (inst : Byte) : Bool :=
  match paramRow id.toNat with
  | some row => instOk row inst.toNat
  | none => false

/-- A direct access to one word of a 64-bit value (R41, R43). -/
def wordOk (id : Half) (inst : Byte) : Bool :=
  match paramRow id.toNat with
  | some row => instOk row inst.toNat && paramSize row == 8
  | none => false

/-- The checks, by the kind of command; a command whose operands are bounded by their types passes. -/
def Instr.wellFormed : Instr → Bool
  | .ping h pl | .paramRead h pl | .paramWrite h pl | .sysReset h pl | .pwrSet h pl | .txnBegin h pl | .txnCommit h pl
  | .txnRollback h pl | .tripClear h pl | .adcUrgent h pl | .drvStart h pl | .drvStop h pl | .engSwap h pl
  | .captureArm h pl | .injectSet h pl | .selftest h pl | .fltClear h pl | .fltInject h pl | .journalRead h pl
  | .chkScan h pl | .linkEnum h pl | .fwBegin h pl | .fwChunk h pl | .fwFinish h pl | .dbgChallenge h pl
  | .dbgResponse h pl | .taskLoad h pl | .perfDump h pl => mailboxOk h pl
  | .registerWrite _ id inst _ => accessOk id inst
  | .lowWordRead _ id inst | .highWordRead _ id inst | .lowWordWrite _ id inst _ | .highWordWrite _ id inst _ => wordOk id inst
  | .keyWr e _ => decide (16 ≤ e.toNat) && decide (e.toNat < 34)
  | .ringEnable r _ | .ringDisable r => decide (r.val < 32)
  | .chkGo u | .chkHold u | .chkAbort u => decide (u.val < 3)
  | .spiReadFrame sdi => sdi.head? == some 0x0B#8
  | .spiWriteFrame sdi => sdi.head? == some 0x02#8
  | .mailboxMessageTaken r => commandRings.contains r.val || r.val == 34
  | .canFrameReceived fr => canOk fr
  | .dlyReq f | .dlyResp f | .enum f | .enumReply f | .join f | .heal f | .sync f | .ack f | .mbox f | .ha f | .trouble f
  | .report f | .duty f | .gang f | .gangAck f => frameOk f
  | .eccSbe m addr | .eccDbe m addr _ =>
    addr.toNat % 4 == 0 && (if m.val = 0 then decide (addr.toNat < 0x400000)
      else if m.val = 1 then decide (0x01000000 ≤ addr.toNat) && decide (addr.toNat < 0x01400000)
      else decide (0x02000000 ≤ addr.toNat) && decide (addr.toNat < 0x02040000))
  | .doorbellWrite _ _ | .updCommit _ | .rcClear _ | .capStop _ | .arbCommitVioskik | .arbCommitTasks | .secLock
  | .bootPrefWrite _ | .rngRead _ | .fltSelWrite _ _ | .hostDecWrite _ _ | .hostTWrite _ _ | .perfRun _ | .perfStop _
  | .perfCntWrite _ _ | .portEnWrite _ | .msgTmoExpiry _ | .lostEventWrite _ | .nirqHoldoffExpiry | .canSegTmoExpiry
  | .canBusOff | .txnIdleExpiry _ | .commitResponse _ | .configSaveDone | .slowTmoExpiry _ | .decTmoExpiry _ _
  | .powerOn | .powerLoss | .vcoreBrownout | .nrstAssert | .nrstRelease | .chipResetStart | .bootDone
  | .watchdogExpiry | .wakePin _ _ | .canWake _ _ _ | .wakeTimerExpiry | .halfIdleExpiry | .entryFlushDone | .mwSample _ _ _ _
  | .mwVdrvWaitExpiry | .mwGuardStart | .mwRelistenExpiry _ | .mwQuietExpiry | .bgChunkStart | .bgChunkEnd
  | .bgWaitExpiry _ | .throttlePauseEnd | .periodicCheckTimer | .mramScrubTimer | .xtalLoss | .reloadPoint _
  | .compareEdge _ _ | .deadTimeEnd _ | .syncChainWrap | .syncInEdge _ _ _ | .syncPulse _ | .syncLossTimeout _
  | .tripRawEdge _ _ _ | .tripFilteredEdge _ | .debugHalt _ | .debugResume | .adcSample _ _ _ | .windowDelivered _
  | .vbusAgeExpiry _ | .hkRoundStart | .hkConversionDone _ | .posInputEdge _ _ _ | .posZeroTmo _
  | .zcComparatorEdge _ _ _ _ | .prechargeElapsed _ | .listenExpiry _ | .alignElapsed _ | .olTMaxExpiry _
  | .ascStepExpiry _ | .brakeMaxExpiry _ | .stopTMaxExpiry _ | .softTMaxExpiry _ | .engRunStart _ | .engRunFinish _
  | .engDeadlineMiss _ | .desatDetect _ _ _ | .hocEdge _ | .softTurnoffStep2 _ | .vdrvUvFall _ | .vdrvUvRise _
  | .bstUv _ | .xcmdDie _ | .stoActive _ _ | .stoDiscTimeout _ | .selftestDone _ | .uvFiltExpiry _ _ | .ov4Edge _
  | .ov4Release _ | .chopCheckExpiry _ | .chopDesat _ | .shdnRecordWrite | .penumbraExpiry | .mirrorWrite
  | .journalTailEntry | .injTimeout | .scrubRead _ | .lockstep | .portUp _ _ | .portDown _ | .dlyRespTimeout _
  | .dlyReqTimer _ | .syncSendTimer | .syncMissingTimeout | .retxTmoExpiry _ | .enumCollectEnd | .gangAckTimeout _
  | .reportWaitExpiry _ | .portFree _ | .mboxSegTimeout _ | .upstreamClockLoss | .fwTmoExpiry | .fwFinishComplete
  | .taskLoadComplete | .trngHealthFail | .trngRetest _ | .perfOverflow _ _ | .perfSample _ _ | .perfDumpTick
  | .stoRelease _ | .hocRelease _ | .ov4ComparatorInactive _ | .blockResetDone _ | .canErrorPassive
  | .frameCrcFail _ _ | .userModeAccessFault _ => true

end Sys2Proof
end

