-- ==== Sys2Proof/Tests/Slice0.lean ====
section
/-! SUPPORT. Tests on small states: ill-formed commands, the manual's worked examples, and for every statement a
state and operands that meet its hypotheses, clause by clause. -/

set_option maxRecDepth 100000
set_option Elab.async false

namespace Sys2Proof.Tests

open Sys2Proof Sys2Proof.Machine

/-- FULL, with the epoch at 1,000,000 ticks. -/
def full : State := { State.reset with epoch := 1000000, pwr := { State.reset.pwr with mode := .full } }
/-- HALF, with command ring 0 and its response ring 1 enabled. -/
def mail : State :=
  (State.reset.setReg P.hostRingCfg 0 (0x800000 + 2 ^ 31)).setReg P.hostRingCfg 1 (0x1000 + 0x800000 + 2 ^ 26 + 2 ^ 31)
/-- A header on ring 0. -/
def hdr : Hdr := { ring := 0, tag := 1, inst := 0, flags := 0, deadline := 0, seq := 0 }
/-- Drive 0 is local and owns bridge 0. -/
def drive0 (s : State) : State := s.setReg P.sysDrvMap 0 0x11
/-- Drive 0 runs in FULL. -/
def running0 (s : State) : State :=
  { s.modDrv 0 (fun x => { x with phase := .running, car := { x.car with run := true } }) with pwr := { s.pwr with mode := .full } }
/-- An item of a PARAM_READ. -/
def item (id i : Nat) : List Byte := leBytes 2 id ++ leBytes 1 i ++ zeros 1
/-- An item of a PARAM_WRITE with a value of `n` bytes. -/
def wr32 (id i n v : Nat) : List Byte := leBytes 2 id ++ leBytes 1 i ++ leBytes 1 n ++ leBytes n v
/-- Both gate rails are up. -/
def railsUp (s : State) : State := (s.setDie 0 { up := true, everUp := true }).setDie 1 { up := true, everUp := true }
/-- The comparator tests of the three dies have passed. -/
def tested (s : State) : State := ((s.setReg P.gateStStat 0 4).setReg P.gateStStat 1 4).setReg P.gateStStat 2 4

/-- A row, for a default. -/
def default0 : ParamRow := (directRow P.sysId 0).getD ⟨0, 0, 0, .one, .none, .ro, .immediate, .any, .val 0, .none, false⟩
/-- The first `n` words of the key store are written. -/
def keyed (s : State) (n : Nat) : State := { s with keys := (List.range n).map (fun i => (16 + i, some 0)) }
/-- CAN FD is enabled. -/
def canOn (s : State) : State := s.setReg P.hostCanEn 0 1
/-- A partial message of CAN FD waits for segment `n`. -/
def canSeg (s : State) (n : Nat) : State := { s with host := { s.host with canIn := some { bytes := [], next := n, stamp := 0 } } }
/-- The host has last fed the temperature of position g on tick t. -/
def hostTAt (s : State) (g t : Nat) : State :=
  { s with therm := { s.therm with hostAt := Smap.set (fun _ => none) s.therm.hostAt g (some t) } }
/-- The epoch. -/
def setEpoch (s : State) (n : Nat) : State := { s with epoch := n }
/-- A window that closed at epoch 0. -/
def win0 : Window := { close := 0, vec := 4, floating := 0, sum := 0, n := 2, csum := 0, cn := 2, ofsA := 0, ofsB := 0, ecl := false, shift := false, second := false }
/-- A run that waits on lane 0. -/
def run0 : Run := { boundary := 0, next := 100, per := 200, spp := 2, deadline := 90, prog := 0, regs := {}, theta := 0, omega := 0#32, sets := [], comp := 0, plansFirst := true, ovr := none, iTherm := 0#32, pBus := 0#32, iLb := 0#32, cost := 100, lane := 0, start := none }
/-- GH of generator 0 has been on since epoch 0. -/
def desatOn (s : State) : State := s.setGen 0 { gh := true }
/-- The self-test of PWR_SET `full` on die 0 alone, begun at epoch 0. -/
def test0 : SelfTest := { cmd := none, start := 0, dies := [0] }
/-- Its end is due. -/
def testEnds (s : State) : State := { s with epoch := 2 ^ 40, gate := { s.gate with tests := [test0] } }
/-- Every comparator passes. -/
def passes : SelftestResult := { offCd := 0, onCd := 0xFF, offDa := 0, onDa := 0x3FFFFFF, offDb := 0, onDb := 0x3FFFFFF }
/-- Port 0 is up, and this device has joined below it. -/
def linked (s : State) : State := (((s.setPortState 0 portUp).setPortTree 0 1).setReg P.linkStat 0 1).setReg P.linkId 0 1
/-- The root of a tree that it has joined, with port 0 up. -/
def rooted (s : State) : State := ((s.setPortState 0 portUp).setReg P.linkStat 0 1).setReg P.linkCfg 0 1
/-- An enumeration is under way at the root. -/
def withEnum (s : State) (e : EnumSt) : State := { s with link := { s.link with enum := some e } }
/-- An ENUM came from port 1. -/
def seenEnum (s : State) : State := { s with link := { s.link with enumSeen := some (0, 0, 1) } }

/-! Ill-formed commands are refused by WellFormed, one for each check. -/

theorem test_ping_off_a_command_ring : (Instr.ping { hdr with ring := 1 } []).wellFormed = false := by decide +kernel
theorem test_ping_too_long : (Instr.ping hdr (zeros 1005)).wellFormed = false := by decide +kernel
theorem test_write_of_an_unlisted_parameter : (Instr.registerWrite .spi 0xFFFF 0 0).wellFormed = false := by decide +kernel
theorem test_word_read_of_a_32_bit_value :
    (Instr.lowWordRead .spi (BitVec.ofNat 16 P.timeEra) 0).wellFormed = false := by decide +kernel
theorem test_key_word_of_the_factory : (Instr.keyWr 15 0).wellFormed = false := by decide +kernel
theorem test_enable_of_a_link_ring : (Instr.ringEnable 32 0).wellFormed = false := by decide +kernel
theorem test_go_of_the_patrol_unit : (Instr.chkGo 3).wellFormed = false := by decide +kernel
theorem test_read_frame_without_its_code : (Instr.spiReadFrame [0x02]).wellFormed = false := by decide +kernel
theorem test_write_frame_without_its_code : (Instr.spiWriteFrame [0x0B]).wellFormed = false := by decide +kernel
theorem test_message_of_an_output_ring : (Instr.mailboxMessageTaken 16).wellFormed = false := by decide +kernel
theorem test_can_frame_length :
    (Instr.canFrameReceived { ident := 0, fd := true, remote := false, data := zeros 9 }).wellFormed = false := by decide +kernel
theorem test_frame_too_long :
    (Instr.sync { port := 0, dst := 1, src := 2, flags := 0, seq := 0, payload := zeros 65536, sAgo := 0 }).wellFormed = false := by
  decide +kernel
theorem test_ecc_address_unaligned : (Instr.eccSbe 0 2).wellFormed = false := by decide +kernel
theorem test_ping_is_well_formed : (Instr.ping hdr []).wellFormed = true := by decide +kernel

/-! Worked examples and tables of the manual. -/

/-- The state of an outcome. -/
def after (o : Out) : State := match o with | .next t => t | _ => State.reset

/-- The check values of R425's table. -/
theorem test_check_values :
    [(8, 0x1D, 0xFF, false, 0xFF), (16, 0x1021, 0xFFFF, false, 0), (32, 0x04C11DB7, 0xFFFFFFFF, true, 0xFFFFFFFF),
      (32, 0x1EDC6F41, 0xFFFFFFFF, true, 0xFFFFFFFF)].map (fun (w, p, i, r, x) =>
        crc ⟨w, p, i, r, r, x⟩ [0x31, 0x32, 0x33, 0x34, 0x35, 0x36, 0x37, 0x38, 0x39]) =
      [0x4B, 0x29B1, 0xCBF43926, 0xE3069283] := by decide +kernel

/-- The example of R44 and R45: in time with 24 ticks to spare, in time on the limit, late one tick after it. -/
theorem test_deadline_example :
    [0x1FFFFFFF8, 0x200000010, 0x200000011].map (fun now =>
      tooLate (cmdOf { hdr with flags := 1 } 0x0100 now) 0x10) = [false, false, true] := by decide +kernel

/-- The epoch is read over SPI as in the example after R43: the snapshot, and not the live high word. -/
theorem test_epoch_example :
    let s := after (exec (.lowWordRead .spi (BitVec.ofNat 16 P.timeEpoch) 0) (setEpoch full 0x2FFFFFFF0))
    let t := after (exec (.highWordRead .spi (BitVec.ofNat 16 P.timeEpoch) 0) (setEpoch s 0x300000180))
    (Smap.get (fun _ => 0) s.host.rdata 0, Smap.get (fun _ => 0) t.host.rdata 0) = (0xFFFFFFF0, 2) := by decide +kernel

/-- The message of the example after R103. -/
theorem test_message_example :
    (messageBytes 0x0102 0x21 0 1 0x3B9B1820 7 [0x14, 0x03, 0x00, 0x01, 0x28]).take 21 =
      [0x02, 0x01, 0x21, 0x00, 0x00, 0x01, 0x05, 0x00, 0x20, 0x18, 0x9B, 0x3B, 0x07, 0x00, 0x00, 0x00,
       0x14, 0x03, 0x00, 0x01, 0x28] := by decide +kernel

/-- That message taken, and its response. -/
def exampleAfter : State :=
  after (exec (.paramWrite { ring := 0, tag := 0x21, inst := 0, flags := 1, deadline := 0x3B9B1820, seq := 7 }
    [0x14, 0x03, 0x00, 0x01, 0x28]) (setEpoch (State.reset.setReg P.hostIrqEn 0 2) 0x3B9AD360))

theorem test_example_sets_the_parameter : exampleAfter.reg 0x0314 0 = 0x28 := by decide +kernel
/-- OPCODE, TAG, DEADLINE and the status of the response; its data are those that R109 adds to the example's. -/
theorem test_example_response :
    let bs := exampleAfter.readEntries 1 0 1
    (bs.take 4, (bs.drop 8).take 4, (bs.drop 16).take 4) =
      ([0x02, 0x81, 0x21, 0x00], [0x60, 0xD3, 0x9A, 0x3B], [0x00, 0x00, 0xFF, 0xFF]) := by decide +kernel
theorem test_example_falls_nirq : exampleAfter.host.nirq = true := by decide +kernel

/-- The write frame of the example after R103 reaches the ring pool at 0x180. -/
theorem test_spi_write_example :
    let bs : List Byte := [0x02, 0x81, 0x80, 0x06] ++ (List.range 28).map (BitVec.ofNat 8)
    let hdrBytes := bs
    let c := crc16 hdrBytes
    Memory.readBytes (after (exec (.spiWriteFrame (hdrBytes ++ [BitVec.ofNat 8 (c / 256), BitVec.ofNat 8 c, 0, 0])) mail)).pool 0x180 28 =
      (List.range 28).map (BitVec.ofNat 8) := by decide +kernel

/-- The table gives its rows no bits, so a word spells no command. -/
theorem test_words_spell_no_command (n w : Nat) : decodeTableWord n w = none := rfl

/-! Witnesses. -/

theorem witness_HostQueriesAnswer_1 : ∃ (s : State) (h : Hdr),
    let c := cmdOf h 0x0100 s.epoch
    let u := s.bodyState h 0x0100
    s.serves h 0x0100 = true :=
  ⟨mail, hdr, by decide +kernel⟩
theorem witness_HostQueriesAnswer_2 : ∃ (s : State) (h : Hdr) (pl : List Byte),
    let c := cmdOf h 0x0101 s.epoch
    let u := s.bodyState h 0x0101
    s.serves h 0x0101 = true ∧
    pl.length % 4 = 0 ∧
    u.readCheck 0 4 pl = none :=
  ⟨mail, hdr, item P.sysId 0, by decide +kernel⟩
theorem witness_HostQueriesAnswer_3 : ∃ (s : State) (h : Hdr),
    let c := cmdOf h 0x1D01 s.epoch
    let u := s.bodyState h 0x1D01
    s.serves h 0x1D01 = true ∧
    h.inst.toNat < 2 :=
  ⟨mail, hdr, by decide +kernel⟩
theorem witness_HostQueriesAnswer_4 : ∃ (s : State) (h : Hdr),
    let c := cmdOf h 0x1D01 s.epoch
    let u := s.bodyState h 0x1D01
    s.serves h 0x1D01 = true ∧
    h.inst = 2 :=
  ⟨mail, { hdr with inst := 2 }, by decide +kernel⟩
theorem witness_HostQueriesAnswer_5 : ∃ (s : State) (h : Hdr) (pl : List Byte),
    let c := cmdOf h 0x1903 s.epoch
    let u := s.bodyState h 0x1903
    s.serves h 0x1903 = true ∧
    pl.length = 4 ∧
    fieldAt pl 0 1 = 0 ∧
    1 ≤ fieldAt pl 2 1 ∧
    fieldAt pl 2 1 ≤ 31 ∧
    fieldAt pl 3 1 = 0 ∧
    (bit (fieldAt pl 1 1) 0 = false ∨ u.reg P.fltStream 0 ≠ 1) :=
  ⟨mail, hdr, [0, 1, 31, 0], by decide +kernel⟩
theorem witness_HostQueriesAnswer_6 : ∃ (s : State) (h : Hdr) (pl : List Byte),
    let c := cmdOf h 0x1903 s.epoch
    let u := s.bodyState h 0x1903
    s.serves h 0x1903 = true ∧
    pl.length = 4 ∧
    fieldAt pl 0 1 = 1 ∧
    1 ≤ fieldAt pl 2 1 ∧
    fieldAt pl 2 1 ≤ 27 ∧
    fieldAt pl 3 1 ≤ 63 ∧
    bit (fieldAt pl 1 1) 0 = false :=
  ⟨mail, hdr, [1, 0, 27, 63], by decide +kernel⟩
theorem witness_HostQueriesAnswer_7 : ∃ (s : State) (h : Hdr),
    let c := cmdOf h 0x1101 s.epoch
    let u := s.bodyState h 0x1101
    s.serves h 0x1101 = true ∧
    h.inst.toNat ≤ 31 ∧
    u.hk.conv = none ∧
    u.hk.round = false ∧
    u.epoch + u.hkTicks < u.hk.due :=
  ⟨{ mail with hk := { mail.hk with due := 200000 } }, { hdr with inst := 31 }, by decide +kernel⟩
theorem witness_TransactionCommandsRun_1 : ∃ (s : State) (h : Hdr),
    let c := cmdOf h 0x0501 s.epoch
    let u := s.bodyState h 0x0501
    s.serves h 0x0501 = true ∧
    (u.txnOf c.iface).isOpen = false :=
  ⟨mail, hdr, by decide +kernel⟩
theorem witness_TransactionCommandsRun_2 : ∃ (s : State) (h : Hdr) (pl : List Byte),
    let c := cmdOf h 0x0502 s.epoch
    let u := s.bodyState h 0x0502
    s.serves h 0x0502 = true ∧
    pl.length = 1 ∧
    (u.txnOf c.iface).isOpen = true ∧
    (bit (fieldAt pl 0 1) 0 = false ∨ u.txn.saving = none) ∧
    u.validate (u.txnOf c.iface).pairs = none :=
  ⟨mail.setTxn 0 { isOpen := true, pairs := [.write P.hostMsgTmo 0 0 500] }, hdr, [1], by decide +kernel⟩
theorem witness_TransactionCommandsRun_3 : ∃ (s : State) (h : Hdr),
    let c := cmdOf h 0x0503 s.epoch
    let u := s.bodyState h 0x0503
    s.serves h 0x0503 = true ∧
    (u.txnOf c.iface).isOpen = true :=
  ⟨mail.setTxn 0 { isOpen := true }, hdr, by decide +kernel⟩
theorem witness_TransactionCommandsRun_4 : ∃ (s : State) (h : Hdr) (pl : List Byte) (l : List Staged),
    let c := cmdOf h 0x0102 s.epoch
    let u := s.bodyState h 0x0102
    s.serves h 0x0102 = true ∧
    (u.txnOf c.iface).isOpen = true ∧
    u.stageItems c.iface (u.txnOf c.iface).pairs 0 (pl.length + 1) pl = (none, l) :=
  ⟨mail.setTxn 0 { isOpen := true }, hdr, wr32 P.hostMsgTmo 0 2 500, [.write P.hostMsgTmo 0 0 500], by decide +kernel⟩
theorem witness_TransactionCommandsRun_5 : ∃ (s : State) (h : Hdr) (pl : List Byte) (l : List Staged),
    let c := cmdOf h 0x0102 s.epoch
    let u := s.bodyState h 0x0102
    s.serves h 0x0102 = true ∧
    (u.txnOf c.iface).isOpen = false ∧
    u.stageItems c.iface [] 0 (pl.length + 1) pl = (none, l) ∧
    u.validate l = none :=
  ⟨mail, hdr, wr32 P.hostMsgTmo 0 2 500, [.write P.hostMsgTmo 0 0 500], by decide +kernel⟩
theorem witness_TransactionCommandsRun_6 : ∃ (s : State) (h : Hdr) (pl : List Byte) (l : List Staged),
    let c := cmdOf h 0x1501 s.epoch
    let u := s.bodyState h 0x1501
    s.serves h 0x1501 = true ∧
    h.inst.toNat ≤ 3 ∧
    pl.length = 1 ∧
    (u.txnOf c.iface).isOpen = true ∧
    u.computes h.inst.toNat = true ∧
    (u.restartIdle c.iface).swapPending h.inst.toNat = false ∧
    (u.txnOf c.iface).pairs.any (samePair (.swap h.inst.toNat (bit (fieldAt pl 0 1) 0))) = false ∧
    stagePair (u.txnOf c.iface).pairs (.swap h.inst.toNat (bit (fieldAt pl 0 1) 0)) = some l :=
  ⟨(drive0 mail).setTxn 0 { isOpen := true }, hdr, [1], [.swap 0 true], by decide +kernel⟩
theorem witness_TransactionCommandsRun_7 : ∃ (s : State) (h : Hdr) (pl : List Byte),
    let c := cmdOf h 0x1501 s.epoch
    let u := s.bodyState h 0x1501
    s.serves h 0x1501 = true ∧
    h.inst.toNat ≤ 3 ∧
    pl.length = 1 ∧
    (u.txnOf c.iface).isOpen = false ∧
    u.computes h.inst.toNat = true ∧
    u.swapPending h.inst.toNat = false ∧
    u.takesLater h.inst.toNat = false :=
  ⟨drive0 mail, hdr, [1], by decide +kernel⟩
theorem witness_TransactionCommandsRun_8 : ∃ (s : State) (h : Hdr) (pl : List Byte),
    let c := cmdOf h 0x1501 s.epoch
    let u := s.bodyState h 0x1501
    s.serves h 0x1501 = true ∧
    h.inst.toNat ≤ 3 ∧
    pl.length = 1 ∧
    (u.txnOf c.iface).isOpen = false ∧
    u.computes h.inst.toNat = true ∧
    u.swapPending h.inst.toNat = false ∧
    u.takesLater h.inst.toNat = true :=
  ⟨running0 (drive0 mail), hdr, [1], by decide +kernel⟩
theorem witness_PowerAndTestCommandsRun_1 : ∃ (s : State) (h : Hdr) (pl : List Byte),
    let c := cmdOf h 0x0301 s.epoch
    let u := s.bodyState h 0x0301
    s.serves h 0x0301 = true ∧
    pl.length = 1 ∧
    u.pwr.mode = .full ∧
    fieldAt pl 0 1 = 3 :=
  ⟨{ mail with pwr := full.pwr }, hdr, [3], by decide +kernel⟩
theorem witness_PowerAndTestCommandsRun_2 : ∃ (s : State) (h : Hdr) (pl : List Byte),
    let c := cmdOf h 0x0301 s.epoch
    let u := s.bodyState h 0x0301
    s.serves h 0x0301 = true ∧
    pl.length = 1 ∧
    u.pwr.mode = .full ∧
    fieldAt pl 0 1 = 2 ∧
    (List.range 4).all u.stopped = true :=
  ⟨{ mail with pwr := full.pwr }, hdr, [2], by decide +kernel⟩
theorem witness_PowerAndTestCommandsRun_3 : ∃ (s : State) (h : Hdr) (pl : List Byte),
    let c := cmdOf h 0x0301 s.epoch
    let u := s.bodyState h 0x0301
    s.serves h 0x0301 = true ∧
    pl.length = 1 ∧
    u.pwr.mode ≠ .full ∧
    fieldAt pl 0 1 = 2 :=
  ⟨mail, hdr, [2], by decide +kernel⟩
theorem witness_PowerAndTestCommandsRun_4 : ∃ (s : State) (h : Hdr) (pl : List Byte),
    let c := cmdOf h 0x0301 s.epoch
    let u := s.bodyState h 0x0301
    s.serves h 0x0301 = true ∧
    pl.length = 1 ∧
    u.pwr.mode ≠ .full ∧
    fieldAt pl 0 1 = 3 ∧
    u.anyUvlo = false ∧
    u.towardsFull = false ∧
    u.testsPassed = true :=
  ⟨tested (railsUp mail), hdr, [3], by decide +kernel⟩
theorem witness_PowerAndTestCommandsRun_5 : ∃ (s : State) (h : Hdr) (pl : List Byte),
    let c := cmdOf h 0x0301 s.epoch
    let u := s.bodyState h 0x0301
    s.serves h 0x0301 = true ∧
    pl.length = 1 ∧
    u.pwr.mode ≠ .full ∧
    fieldAt pl 0 1 = 3 ∧
    u.anyUvlo = false ∧
    u.towardsFull = false ∧
    u.testsPassed = false :=
  ⟨railsUp mail, hdr, [3], by decide +kernel⟩
theorem witness_PowerAndTestCommandsRun_6 : ∃ (s : State) (h : Hdr) (pl : List Byte),
    let c := cmdOf h 0x0301 s.epoch
    let u := s.bodyState h 0x0301
    s.serves h 0x0301 = true ∧
    pl.length = 1 ∧
    u.pwr.mode ≠ .full ∧
    fieldAt pl 0 1 ≤ 1 ∧
    u.classACause = false ∧
    (u.wakeActive (fieldAt pl 0 1 == 0)).2 = false :=
  ⟨mail.setReg P.pwrWakeCfg 0 2, hdr, [1], by decide +kernel⟩
theorem witness_PowerAndTestCommandsRun_7 : ∃ (s : State) (h : Hdr),
    let c := cmdOf h 0x0103 s.epoch
    let u := s.bodyState h 0x0103
    s.serves h 0x0103 = true :=
  ⟨mail, hdr, by decide +kernel⟩
theorem witness_PowerAndTestCommandsRun_8 : ∃ (s : State) (h : Hdr),
    let c := cmdOf h 0x1001 s.epoch
    let u := s.bodyState h 0x1001
    s.serves h 0x1001 = true ∧
    h.inst.toNat ≤ 7 ∧
    u.tripLevel h.inst.toNat = false ∧
    bit (u.reg P.pwmTripStat 0) h.inst.toNat = true :=
  ⟨mail.setReg P.pwmTripStat 0 0x80, { hdr with inst := 7 }, by decide +kernel⟩
theorem witness_PowerAndTestCommandsRun_9 : ∃ (s : State) (h : Hdr),
    let c := cmdOf h 0x1001 s.epoch
    let u := s.bodyState h 0x1001
    s.serves h 0x1001 = true ∧
    h.inst.toNat ≤ 7 ∧
    u.tripLevel h.inst.toNat = false ∧
    bit (u.reg P.pwmTripStat 0) h.inst.toNat = false :=
  ⟨mail, hdr, by decide +kernel⟩
theorem witness_PowerAndTestCommandsRun_10 : ∃ (s : State) (h : Hdr),
    let c := cmdOf h 0x1601 s.epoch
    let u := s.bodyState h 0x1601
    s.serves h 0x1601 = true ∧
    h.inst.toNat ≤ 3 ∧
    u.awake = true ∧
    ((if h.inst.toNat = 3 then [0, 1, 2] else [h.inst.toNat]).any (fun i => i != 0 && u.uvlo (i - 1))) = false ∧
    ((if h.inst.toNat = 3 then [0, 1, 2] else [h.inst.toNat]).any (fun i => if i = 0 then (List.range 4).any (fun d => !u.stopped d)
      else (u.ownersOf (dieBridges (i - 1))).any (fun d => !u.stopped d))) = false ∧
    ((if h.inst.toNat = 3 then [0, 1, 2] else [h.inst.toNat]).any u.testing) = false :=
  ⟨railsUp mail, { hdr with inst := 3 }, by decide +kernel⟩
theorem witness_DriveCommandsRun_1 : ∃ (s : State) (h : Hdr) (pl : List Byte),
    let c := cmdOf h 0x1401 s.epoch
    let u := s.bodyState h 0x1401
    s.serves h 0x1401 = true ∧
    h.inst.toNat ≤ 3 ∧
    pl.length = 1 ∧
    u.pwr.mode = .full ∧
    u.computes h.inst.toNat = true ∧
    u.reg P.pwmTestEn h.inst.toNat ≠ 1 ∧
    ((u.drv h.inst.toNat).phase = .stopped ∨ (u.drv h.inst.toNat).phase = .mwHold) ∧
    u.hasReaction h.inst.toNat = false ∧
    u.anyForced h.inst.toNat = false ∧
    u.anyUvlo = false :=
  ⟨railsUp { drive0 mail with pwr := full.pwr }, hdr, [0], by decide +kernel⟩
theorem witness_DriveCommandsRun_2 : ∃ (s : State) (h : Hdr) (pl : List Byte),
    let c := cmdOf h 0x1402 s.epoch
    let u := s.bodyState h 0x1402
    s.serves h 0x1402 = true ∧
    h.inst.toNat ≤ 3 ∧
    pl.length = 1 ∧
    u.computes h.inst.toNat = true ∧
    u.stopped h.inst.toNat = true :=
  ⟨drive0 mail, hdr, [0], by decide +kernel⟩
theorem witness_DriveCommandsRun_3 : ∃ (s : State) (h : Hdr) (pl : List Byte),
    let c := cmdOf h 0x1402 s.epoch
    let u := s.bodyState h 0x1402
    s.serves h 0x1402 = true ∧
    h.inst.toNat ≤ 3 ∧
    pl.length = 1 ∧
    u.computes h.inst.toNat = true ∧
    u.stopped h.inst.toNat = false ∧
    (u.drv h.inst.toNat).stop.byAction = true :=
  ⟨(running0 (drive0 mail)).modDrv 0 (fun x => { x with stop := { x.stop with byAction := true } }), hdr, [1], by decide +kernel⟩
theorem witness_DriveCommandsRun_4 : ∃ (s : State) (h : Hdr) (pl : List Byte),
    let c := cmdOf h 0x1402 s.epoch
    let u := s.bodyState h 0x1402
    s.serves h 0x1402 = true ∧
    h.inst.toNat ≤ 3 ∧
    pl.length = 1 ∧
    u.computes h.inst.toNat = true ∧
    (u.drv h.inst.toNat).phase = .running ∧
    (u.drv h.inst.toNat).stop.byAction = false ∧
    bit (fieldAt pl 0 1) 0 = true :=
  ⟨running0 (drive0 mail), hdr, [1], by decide +kernel⟩
theorem witness_DriveCommandsRun_5 : ∃ (s : State) (h : Hdr) (pl : List Byte),
    let c := cmdOf h 0x1402 s.epoch
    let u := s.bodyState h 0x1402
    s.serves h 0x1402 = true ∧
    h.inst.toNat ≤ 3 ∧
    pl.length = 1 ∧
    u.computes h.inst.toNat = true ∧
    u.stopped h.inst.toNat = false ∧
    (u.drv h.inst.toNat).stop.byAction = false ∧
    (bit (fieldAt pl 0 1) 0 && (u.drv h.inst.toNat).phase == .running) = false :=
  ⟨running0 (drive0 mail), hdr, [0], by decide +kernel⟩
theorem witness_DriveCommandsRun_6 : ∃ (s : State) (h : Hdr) (pl : List Byte),
    let c := cmdOf h 0x1502 s.epoch
    let u := s.bodyState h 0x1502
    let cap : Capture := { cmd := c, kind := fieldAt pl 0 1, trig := fieldAt pl 1 1, decim := fieldAt pl 2 1, set := fieldAt pl 3 1,
                             sigs := [4, 5, 6, 7].map (fun i => fieldAt pl i 1), count := fieldAt pl 8 2, start := fieldAt pl 12 4 }
    s.serves h 0x1502 = true ∧
    h.inst.toNat ≤ 3 ∧
    pl.length = 16 ∧
    u.computes h.inst.toNat = true ∧
    u.ringOut (18 + h.inst.toNat) = true ∧
    u.ringEsize (18 + h.inst.toNat) ≠ 16 ∧
    fieldAt pl 0 1 ≤ 1 ∧
    fieldAt pl 1 1 ≤ 2 ∧
    fieldAt pl 8 2 ≠ 0 ∧
    ([4, 5, 6, 7].map (fun i => fieldAt pl i 1)).any
      (fun v => v != 0xFF && (decide (19 < v % 64) || decide (u.r.nSets h.inst.toNat ≤ v / 64))) = false ∧
    ¬ (fieldAt pl 0 1 = 0 ∧ fieldAt pl 2 1 = 0) ∧
    ¬ (fieldAt pl 0 1 = 1 ∧ u.r.nSets h.inst.toNat ≤ fieldAt pl 3 1) :=
  ⟨(drive0 mail).setReg P.hostRingCfg 18 (0x2000 + 0x800000 + 0x1000000 + 2 ^ 26 + 2 ^ 31), hdr, [0, 0, 1, 0, 0, 0xFF, 0xFF, 0xFF, 1, 0, 0, 0, 0, 0, 0, 0], by decide +kernel⟩
theorem witness_DriveCommandsRun_7 : ∃ (s : State) (h : Hdr) (pl : List Byte),
    let c := cmdOf h 0x1503 s.epoch
    let u := s.bodyState h 0x1503
    let i : InjSet := { point := fieldAt pl 0 1, wave := fieldAt pl 1 1, at_ := bit (fieldAt pl 2 1) 0, prbsN := fieldAt pl 4 1,
                          prbsDiv := fieldAt pl 5 1, amp := BitVec.ofNat 32 (fieldAt pl 8 4), f0 := BitVec.ofNat 32 (fieldAt pl 12 4),
                          f1 := BitVec.ofNat 32 (fieldAt pl 16 4), dur := fieldAt pl 20 4, start := fieldAt pl 24 4 }
    s.serves h 0x1503 = true ∧
    h.inst.toNat ≤ 3 ∧
    pl.length = 28 ∧
    (u.drv h.inst.toNat).phase = .running ∧
    ¬ (fieldAt pl 0 1 = 5 ∧ u.reg P.focCtrl h.inst.toNat = 0) ∧
    fieldAt pl 0 1 ≤ 5 ∧
    fieldAt pl 1 1 ≤ 2 ∧
    (fieldAt pl 0 1 = 0 ∨ F32.le (F32.abs (BitVec.ofNat 32 (fieldAt pl 8 4))) (u.injLimit h.inst.toNat (fieldAt pl 0 1)) = true) ∧
    u.injFreqOk h.inst.toNat (BitVec.ofNat 32 (fieldAt pl 12 4)) = true ∧
    u.injFreqOk h.inst.toNat (BitVec.ofNat 32 (fieldAt pl 16 4)) = true ∧
    7 ≤ fieldAt pl 4 1 ∧
    fieldAt pl 4 1 ≤ 15 ∧
    fieldAt pl 5 1 ≠ 0 ∧
    ¬ (fieldAt pl 1 1 = 1 ∧ fieldAt pl 20 4 = 0) :=
  ⟨running0 (drive0 mail), hdr, [0, 0, 0, 0, 7, 1, 0, 0] ++ zeros 20, by decide +kernel⟩
theorem witness_FaultAndCheckCommandsRun_1 : ∃ (s : State) (h : Hdr) (pl : List Byte),
    let c := cmdOf h 0x1901 s.epoch
    let u := s.bodyState h 0x1901
    s.serves h 0x1901 = true ∧
    2 ≤ pl.length ∧
    pl.length ≤ 1004 ∧
    pl.length % 2 = 0 :=
  ⟨mail, hdr, [0xFF, 0xFF], by decide +kernel⟩
theorem witness_FaultAndCheckCommandsRun_2 : ∃ (s : State) (h : Hdr) (pl : List Byte) (k i : Nat),
    let c := cmdOf h 0x1902 s.epoch
    let u := s.bodyState h 0x1902
    s.serves h 0x1902 = true ∧
    pl.length = 4 ∧
    injectTarget (fieldAt pl 0 1) (fieldAt pl 1 1) (fieldAt pl 2 1) = some (k, i) ∧
    (List.range 4).all u.stopped = true ∧
    k ≠ K.linkCrc ∧
    u.flt.inject = none :=
  ⟨mail, hdr, [3, 3, 1, 0], K.chkScan, 3, by decide +kernel⟩
theorem witness_FaultAndCheckCommandsRun_3 : ∃ (s : State) (h : Hdr) (pl : List Byte) (i : Nat),
    let c := cmdOf h 0x1902 s.epoch
    let u := s.bodyState h 0x1902
    let x : Inject := { cmd := c, noReact := bit (fieldAt pl 3 1) 0, epoch := u.epoch, kind := K.linkCrc, inst := i, waits := true }
    s.serves h 0x1902 = true ∧
    pl.length = 4 ∧
    injectTarget (fieldAt pl 0 1) (fieldAt pl 1 1) (fieldAt pl 2 1) = some (K.linkCrc, i) ∧
    (List.range 4).all u.stopped = true ∧
    (u.portState i = portUp ∨ u.portState i = portSpare) ∧
    u.flt.inject = none :=
  ⟨mail.setReg P.linkPortStat 2 2, hdr, [5, 2, 1, 0], 2, by decide +kernel⟩
theorem witness_FaultAndCheckCommandsRun_4 : ∃ (s : State) (h : Hdr) (pl : List Byte),
    let c := cmdOf h 0x1A01 s.epoch
    let u := s.bodyState h 0x1A01
    s.serves h 0x1A01 = true ∧
    h.inst.toNat ≤ 2 ∧
    pl.length = 16 ∧
    u.chkState h.inst.toNat ≠ 1 ∧
    u.chkState h.inst.toNat ≠ 2 ∧
    fieldAt pl 0 1 ≤ 4 ∧
    1 ≤ fieldAt pl 8 4 ∧
    fieldAt pl 8 4 ≤ 0x400000 ∧
    inOneMemory (fieldAt pl 4 4) (fieldAt pl 8 4) = true :=
  ⟨mail, { hdr with inst := 2 }, [4, 0, 0, 0, 0, 0, 0, 1, 0, 0, 0x40, 0, 0, 0, 0, 0], by decide +kernel⟩
theorem witness_FaultAndCheckCommandsRun_5 : ∃ (s : State) (h : Hdr),
    let c := cmdOf h 0x1B01 s.epoch
    let u := s.bodyState h 0x1B01
    s.serves h 0x1B01 = true ∧
    u.isRoot = true ∧
    [0, 1, 2].any (fun p => u.portState p == portUp) = true ∧
    (List.range 4).all u.stopped = true :=
  ⟨(mail.setReg P.linkCfg 0 1).setPortState 2 portUp, hdr, by decide +kernel⟩
theorem witness_SecurityCommandsRun_1 : ∃ (s : State) (h : Hdr) (pl : List Byte),
    let c := cmdOf h 0x1C01 s.epoch
    let u := s.bodyState h 0x1C01
    s.serves h 0x1C01 = true ∧
    h.inst.toNat ≤ 3 ∧
    pl.length = 4 ∧
    ¬ (u.recovery = false ∧ h.inst.toNat < 2 ∧ h.inst.toNat = (bit (u.reg P.secStat 0) 1).toNat) ∧
    u.sec.fw = none ∧
    192 ≤ fieldAt pl 0 4 ∧
    fieldAt pl 0 4 ≤ targetSize h.inst.toNat :=
  ⟨mail, { hdr with inst := 3 }, [192, 0, 0, 0], by decide +kernel⟩
theorem witness_SecurityCommandsRun_2 : ∃ (s : State) (h : Hdr) (pl : List Byte) (f : FwUpdate),
    let c := cmdOf h 0x1C02 s.epoch
    let u := s.bodyState h 0x1C02
    let g : FwUpdate := { f with got := f.got + (pl.length - 4), last := u.epoch }
    s.serves h 0x1C02 = true ∧
    h.inst.toNat ≤ 3 ∧
    5 ≤ pl.length ∧
    pl.length ≤ 996 ∧
    u.sec.fw = some f ∧
    f.iface = c.iface ∧
    f.target = h.inst.toNat ∧
    f.finish = none ∧
    fieldAt pl 0 4 = f.got ∧
    f.got + (pl.length - 4) ≤ f.total :=
  ⟨{ mail with sec := { mail.sec with fw := some { iface := 0, target := 3, total := 193, got := 192, last := 0 } } }, { hdr with inst := 3 }, [192, 0, 0, 0, 9], { iface := 0, target := 3, total := 193, got := 192, last := 0 }, by decide +kernel⟩
theorem witness_SecurityCommandsRun_3 : ∃ (s : State) (h : Hdr) (pl : List Byte) (f : FwUpdate),
    let c := cmdOf h 0x1C03 s.epoch
    let u := s.bodyState h 0x1C03
    s.serves h 0x1C03 = true ∧
    h.inst.toNat ≤ 3 ∧
    pl.length = 1 ∧
    u.sec.fw = some f ∧
    f.iface = c.iface ∧
    f.target = h.inst.toNat ∧
    f.finish = none :=
  ⟨{ mail with sec := { mail.sec with fw := some { iface := 0, target := 3, total := 192, last := 0 } } }, { hdr with inst := 3 }, [0], { iface := 0, target := 3, total := 192, last := 0 }, by decide +kernel⟩
theorem witness_SecurityCommandsRun_4 : ∃ (s : State) (h : Hdr) (pl : List Byte),
    let c := cmdOf h 0x1C06 s.epoch
    let u := s.bodyState h 0x1C06
    s.serves h 0x1C06 = true ∧
    h.inst.toNat ≤ 7 ∧
    pl.length = 5 ∧
    u.sec.load = none :=
  ⟨mail, { hdr with inst := 7 }, [0, 0, 0, 0, 1], by decide +kernel⟩
theorem witness_SecurityCommandsRun_5 : ∃ (s : State) (h : Hdr) (pl : List Byte),
    let c := cmdOf h 0x1C04 s.epoch
    let u := s.bodyState h 0x1C04
    s.serves h 0x1C04 = true ∧
    pl.length = 1 ∧
    1 ≤ fieldAt pl 0 1 ∧
    fieldAt pl 0 1 ≤ 2 ∧
    u.isLive K.trngFail 0 = false ∧
    u.sec.fails < 3 :=
  ⟨mail, hdr, [2], by decide +kernel⟩
theorem witness_SecurityCommandsRun_6 : ∃ (s : State) (h : Hdr) (pl : List Byte) (x : Challenge),
    let c := cmdOf h 0x1C05 s.epoch
    let u := s.bodyState h 0x1C05
    s.serves h 0x1C05 = true ∧
    pl.length = 64 ∧
    u.sec.chal = some x ∧
    expired x.at_ (sTicks (u.reg P.secDbgTmo 0)) u.epoch = false :=
  ⟨{ mail with sec := { mail.sec with chal := some { bytes := zeros 28, level := 2, at_ := 0 } } }, hdr, zeros 64, { bytes := zeros 28, level := 2, at_ := 0 }, by decide +kernel⟩
theorem witness_DirectAccessRuns_1 : ∃ (s : State) (i : Iface) (id : Half) (inst : Byte) (v : DWord) (row : ParamRow),
    directRow id.toNat inst.toNat = some row ∧
    s.serving = true ∧
    row.effect = .immediate ∧
    writable row inst.toNat = true ∧
    itemRange row v.toNat = true ∧
    s.stateCheck row inst.toNat (s.rcPage (ifaceNo i)) = St.ok ∧
    (row.id / 256 = 4 ∨ row.id = P.timeSnapStat ∨ s.validate [.write row.id inst.toNat (s.rcPage (ifaceNo i)) v.toNat] = none) :=
  ⟨mail, .can, BitVec.ofNat 16 P.hostIrqEn, 0, 0xFFFFFFFFFFFFFFFF, (directRow P.hostIrqEn 0).getD default0, by decide +kernel⟩
theorem witness_DirectAccessRuns_2 : ∃ (s : State) (i : Iface) (id : Half) (inst : Byte) (row : ParamRow),
    directRow id.toNat inst.toNat = some row ∧
    s.serving = true ∧
    paramSize row = 8 :=
  ⟨full, .link, BitVec.ofNat 16 P.timeEpoch, 0, (directRow P.timeEpoch 0).getD default0, by decide +kernel⟩
theorem witness_DirectAccessRuns_3 : ∃ (s : State) (i : Iface) (id : Half) (inst : Byte) (row : ParamRow),
    directRow id.toNat inst.toNat = some row ∧
    s.serving = true ∧
    paramSize row = 8 ∧
    (s.snap (ifaceNo i)).addr = some (snapAddr row.id inst.toNat) ∧
    (s.snap (ifaceNo i)).fresh = true :=
  ⟨full.setSnap 3 { addr := some (snapAddr P.timeEpoch 0), hi := 7, fresh := true }, .link, BitVec.ofNat 16 P.timeEpoch, 0, (directRow P.timeEpoch 0).getD default0, by decide +kernel⟩
theorem witness_DirectAccessRuns_4 : ∃ (s : State) (i : Iface) (id : Half) (inst : Byte) (row : ParamRow),
    directRow id.toNat inst.toNat = some row ∧
    s.serving = true ∧
    paramSize row = 8 ∧
    (s.snap (ifaceNo i)).addr ≠ some (snapAddr row.id inst.toNat) :=
  ⟨full, .spi, BitVec.ofNat 16 P.timeEpoch, 0, (directRow P.timeEpoch 0).getD default0, by decide +kernel⟩
theorem witness_DirectAccessRuns_5 : ∃ (s : State) (i : Iface) (id : Half) (inst : Byte) (v : Word) (row : ParamRow),
    directRow id.toNat inst.toNat = some row ∧
    s.wordWritable row inst.toNat = true :=
  ⟨mail, .sat, BitVec.ofNat 16 P.hostIrqEn, 0, 0xFFFFFFFF, (directRow P.hostIrqEn 0).getD default0, by decide +kernel⟩
theorem witness_DirectAccessRuns_6 : ∃ (s : State) (i : Iface) (id : Half) (inst : Byte) (v : Word) (row : ParamRow),
    directRow id.toNat inst.toNat = some row ∧
    s.wordWritable row inst.toNat = true ∧
    (s.snap (ifaceNo i)).heldAddr = some (snapAddr id.toNat inst.toNat) :=
  ⟨mail.setSnap 2 { heldAddr := some (snapAddr P.hostIrqEn 0), heldLow := 5 }, .sat, BitVec.ofNat 16 P.hostIrqEn, 0, 0xFFFFFFFF, (directRow P.hostIrqEn 0).getD default0, by decide +kernel⟩
theorem witness_DirectAccessRuns_7 : ∃ (s : State) (i : Iface) (id : Half) (inst : Byte) (v : Word) (row : ParamRow),
    directRow id.toNat inst.toNat = some row ∧
    s.wordWritable row inst.toNat = true ∧
    (s.snap (ifaceNo i)).heldAddr ≠ some (snapAddr id.toNat inst.toNat) :=
  ⟨mail, .sat, BitVec.ofNat 16 P.hostIrqEn, 0, 1, (directRow P.hostIrqEn 0).getD default0, by decide +kernel⟩
theorem witness_DirectAccessRuns_8 : ∃ (s : State) (i : Iface),
    s.serving = true ∧
    s.isLive K.trngFail 0 = false :=
  ⟨mail, .link, by decide +kernel⟩
theorem witness_ControlWritesRun_1 : ∃ (s : State) (i : Iface) (sel : Half),
    s.serving = true :=
  ⟨mail, .link, 0xFFFF, by decide +kernel⟩
theorem witness_ControlWritesRun_2 : ∃ (s : State) (path : BitVec 24) (action : BitVec 2),
    s.serving = true :=
  ⟨mail, 0, 3, by decide +kernel⟩
theorem witness_ControlWritesRun_3 : ∃ (s : State) (g : Fin 12) (v : Word),
    s.serving = true ∧
    rangeOk .hostT v.toNat = true :=
  ⟨mail, 11, 0x42C80000, by decide +kernel⟩
theorem witness_ControlWritesRun_4 : ∃ (s : State) (c : Fin 2),
    s.serving = true :=
  ⟨mail, 1, by decide +kernel⟩
theorem witness_ControlWritesRun_5 : ∃ (s : State) (c : Fin 2),
    s.serving = true :=
  ⟨mail, 1, by decide +kernel⟩
theorem witness_ControlWritesRun_6 : ∃ (s : State) (e : Fin 12) (v : DWord),
    s.serving = true :=
  ⟨mail, 11, 0xFFFFFFFFFFFF, by decide +kernel⟩
theorem witness_ControlWritesRun_7 : ∃ (s : State) (b : Bool),
    s.serving = true :=
  ⟨mail, true, by decide +kernel⟩
theorem witness_ControlWritesRun_8 : ∃ (s : State) (d : Fin 4),
    s.serving = true ∧
    s.reg P.pwmTestEn d.val = 1 :=
  ⟨mail.setReg P.pwmTestEn 3 1, 3, by decide +kernel⟩
theorem witness_ControlWritesRun_9 : ∃ (s : State) (d : Fin 4),
    s.serving = true :=
  ⟨mail, 3, by decide +kernel⟩
theorem witness_ControlWritesRun_10 : ∃ (s : State) (d : Fin 4),
    s.serving = true :=
  ⟨mail, 3, by decide +kernel⟩
theorem witness_ControlWritesRun_11 : ∃ (s : State) (u : Fin 4),
    s.serving = true ∧
    u.val ≠ 3 :=
  ⟨mail, 2, by decide +kernel⟩
theorem witness_ControlWritesRun_12 : ∃ (s : State) (u : Fin 4),
    s.serving = true ∧
    u.val ≠ 3 :=
  ⟨mail, 2, by decide +kernel⟩
theorem witness_ControlWritesRun_13 : ∃ (s : State) (u : Fin 4),
    s.serving = true ∧
    u.val ≠ 3 :=
  ⟨mail, 2, by decide +kernel⟩
theorem witness_ControlWritesRun_14 : ∃ (s : State),
    s.serving = true :=
  ⟨mail, by decide +kernel⟩
theorem witness_ControlWritesRun_15 : ∃ (s : State),
    s.serving = true :=
  ⟨mail, by decide +kernel⟩
theorem witness_ControlWritesRun_16 : ∃ (s : State),
    s.serving = true ∧
    s.slotFull 2 = true ∧
    s.slotFull 3 = true ∧
    s.inField = false :=
  ⟨keyed mail 18, by decide +kernel⟩
theorem witness_ControlWritesRun_17 : ∃ (s : State) (e : Byte) (v : DWord),
    s.serving = true ∧
    s.keyWritable e.toNat = true :=
  ⟨mail, 33, 7, by decide +kernel⟩
theorem witness_ControlWritesRun_18 : ∃ (s : State) (v : BitVec 3),
    s.serving = true :=
  ⟨mail, 7, by decide +kernel⟩
theorem witness_RingCommandsRun_1 : ∃ (s : State) (r : Fin 64) (v : Half),
    s.awake = true :=
  ⟨mail, 0, 64, by decide +kernel⟩
theorem witness_RingCommandsRun_2 : ∃ (s : State) (r : Fin 64) (cfg : Word),
    s.serving = true ∧
    r.val < 32 :=
  ⟨mail, 31, 0, by decide +kernel⟩
theorem witness_RingCommandsRun_3 : ∃ (s : State) (r : Fin 64),
    s.serving = true ∧
    r.val < 32 :=
  ⟨mail, 0, by decide +kernel⟩
theorem witness_RingCommandsRun_4 : ∃ (s : State) (sdi : List Byte),
    s.spiUp = true ∧
    4 ≤ sdi.length ∧
    fieldAt sdi 0 1 = 0x0B :=
  ⟨mail, [0x0B, 0, 0, 0], by decide +kernel⟩
theorem witness_RingCommandsRun_5 : ∃ (s : State) (sdi : List Byte),
    s.spiUp = true ∧
    4 ≤ sdi.length ∧
    fieldAt sdi 0 1 = 0x02 :=
  ⟨mail, [0x02, 0, 0, 0], by decide +kernel⟩
theorem witness_RingCommandsRun_6 : ∃ (s : State) (r : Fin 64),
    r.val ≠ 34 ∧
    s.takesFrom r.val = true ∧
    s.inTurn r.val = true :=
  ⟨mail.setReg P.hostRingIdx 0 4, 0, by decide +kernel⟩
theorem witness_RingCommandsRun_7 : ∃ (s : State) (r : Fin 64),
    r.val = 34 ∧
    s.satWaits = true ∧
    s.inTurn r.val = true :=
  ⟨(mail.setReg P.hostRingIdx 34 4).setReg P.hostRingCfg 35 ((mail.reg P.hostRingCfg 35) ||| 2 ^ 31), 34, by decide +kernel⟩
theorem witness_RingCommandsRun_8 : ∃ (s : State) (r : Fin 64) (n t : Nat) (l : List (Nat × Nat)),
    (s.ring r.val).exposed = (n, t) :: l ∧
    s.serving = true ∧
    commandRings.contains r.val = true ∧
    s.ringOn r.val = true ∧
    s.ringFilled r.val < s.msgEntries r.val ∧
    expired t (usTicks (s.reg P.hostMsgTmo 0)) s.epoch = true :=
  ⟨State.setRing { mail with epoch := 1000000 } 0 { exposed := [(1, 0)] }, 0, 1, 0, [], by decide +kernel⟩
theorem witness_RingCommandsRun_9 : ∃ (s : State) (r : Fin 64),
    s.awake = true ∧
    r.val = 16 ∧
    (s.ring 16).lost ≠ 0 ∧
    s.ringOut 16 = true ∧
    2 * s.entriesFor 16 28 ≤ s.ringFree 16 :=
  ⟨(mail.setRing 16 { lost := 1 }).setReg P.hostRingCfg 16 (0x4000 + 0x800000 + 2 ^ 26 + 2 ^ 31), 16, by decide +kernel⟩
theorem witness_RingCommandsRun_10 : ∃ (s : State),
    s.host.nirq = false :=
  ⟨mail, by decide +kernel⟩
theorem witness_CanCommandsRun_1 : ∃ (s : State) (fr : CanFrame) (c : Byte) (body : List Byte),
    s.awake = true ∧
    s.reg P.hostCanEn 0 = 1 ∧
    fr.fd = true ∧
    fr.remote = false ∧
    s.canForUs fr.ident.toNat = true ∧
    fr.data = c :: body ∧
    bit c.toNat 7 = true ∧
    bit c.toNat 6 = true ∧
    c.toNat % 64 = 0 ∧
    s.host.canIn = none :=
  ⟨canOn mail, { fd := true, remote := false, ident := 0x200000, data := [0xC0] }, 0xC0, [], by decide +kernel⟩
theorem witness_CanCommandsRun_2 : ∃ (s : State) (fr : CanFrame) (c : Byte) (body : List Byte),
    s.awake = true ∧
    s.reg P.hostCanEn 0 = 1 ∧
    fr.fd = true ∧
    fr.remote = false ∧
    s.canForUs fr.ident.toNat = true ∧
    fr.data = c :: body ∧
    bit c.toNat 7 = true ∧
    bit c.toNat 6 = false ∧
    c.toNat % 64 = 0 ∧
    s.host.canIn = none :=
  ⟨canOn mail, { fd := true, remote := false, ident := 0x200000, data := [0x80] }, 0x80, [], by decide +kernel⟩
theorem witness_CanCommandsRun_3 : ∃ (s : State) (fr : CanFrame) (c : Byte) (body : List Byte) (m : Reasm),
    s.awake = true ∧
    s.reg P.hostCanEn 0 = 1 ∧
    fr.fd = true ∧
    fr.remote = false ∧
    s.canForUs fr.ident.toNat = true ∧
    fr.data = c :: body ∧
    bit c.toNat 7 = false ∧
    bit c.toNat 6 = false ∧
    s.host.canIn = some m ∧
    m.next = c.toNat % 64 :=
  ⟨canSeg (canOn mail) 63, { fd := true, remote := false, ident := 0x200000, data := [0x3F] }, 0x3F, [], { bytes := [], next := 63, stamp := 0 }, by decide +kernel⟩
theorem witness_CanCommandsRun_4 : ∃ (s : State) (fr : CanFrame) (c : Byte) (body : List Byte) (m : Reasm),
    s.awake = true ∧
    s.reg P.hostCanEn 0 = 1 ∧
    fr.fd = true ∧
    fr.remote = false ∧
    s.canForUs fr.ident.toNat = true ∧
    fr.data = c :: body ∧
    bit c.toNat 7 = false ∧
    bit c.toNat 6 = true ∧
    s.host.canIn = some m ∧
    m.next = c.toNat % 64 :=
  ⟨canSeg (canOn mail) 63, { fd := true, remote := false, ident := 0x200000, data := [0x7F] }, 0x7F, [], { bytes := [], next := 63, stamp := 0 }, by decide +kernel⟩
theorem witness_CanCommandsRun_5 : ∃ (s : State) (fr : CanFrame) (c : Byte) (body : List Byte),
    s.awake = true ∧
    s.reg P.hostCanEn 0 = 1 ∧
    fr.fd = true ∧
    fr.remote = false ∧
    s.canForUs fr.ident.toNat = true ∧
    fr.data = c :: body ∧
    bit c.toNat 7 = false ∧
    (∀ m : Reasm, s.host.canIn = some m → m.next ≠ c.toNat % 64) :=
  ⟨canOn mail, { fd := true, remote := false, ident := 0x200000, data := [0x3F] }, 0x3F, [], by decide +kernel⟩
theorem witness_CanCommandsRun_6 : ∃ (s : State) (m : Reasm),
    s.host.canIn = some m ∧
    s.awake = true ∧
    expired m.stamp (msTicks (s.reg P.hostCanSegTmo 0)) s.epoch = true :=
  ⟨canSeg { canOn mail with epoch := 2 ^ 40 } 1, { bytes := [], next := 1, stamp := 0 }, by decide +kernel⟩
theorem witness_CanCommandsRun_7 : ∃ (s : State),
    s.awake = true ∧
    s.reg P.hostCanEn 0 = 1 :=
  ⟨canOn mail, by decide +kernel⟩
theorem witness_CanCommandsRun_8 : ∃ (s : State),
    s.awake = true ∧
    s.reg P.hostCanEn 0 = 1 :=
  ⟨canOn mail, by decide +kernel⟩
theorem witness_TimersOfCommandsRun_1 : ∃ (s : State) (i : Iface),
    s.serving = true ∧
    (s.txnOf (ifaceNo i)).isOpen = true ∧
    expired (s.txnOf (ifaceNo i)).idle (msTicks (s.reg P.txnIdleMax 0)) s.epoch = true :=
  ⟨State.setTxn { mail with epoch := 2 ^ 40 } 3 { isOpen := true }, .link, by decide +kernel⟩
theorem witness_TimersOfCommandsRun_2 : ∃ (s : State) (r : ConfigRec) (t : Nat),
    s.txn.saving = some (r, t) ∧
    s.serving = true :=
  ⟨{ mail with txn := { mail.txn with saving := some ({}, 0) } }, {}, 0, by decide +kernel⟩
theorem witness_TimersOfCommandsRun_3 : ∃ (s : State) (i : Iface),
    s.serving = true :=
  ⟨mail, .link, by decide +kernel⟩
theorem witness_TimersOfCommandsRun_4 : ∃ (s : State) (t : State) (p : Nat),
    s.chunkFree = true ∧
    State.choose s.offerChunk 1 0 5 = (t, some p) :=
  ⟨{ mail with chk := { mail.chk with scrubDue := true } }, (State.choose (State.offerChunk { mail with chk := { mail.chk with scrubDue := true } }) 1 0 5).1, 2, by decide +kernel⟩
theorem witness_TimersOfCommandsRun_5 : ∃ (s : State) (p t : Nat),
    s.pwr.chunk = some (p, t) ∧
    s.awake = true ∧
    (p ≠ 3 ∨ s.chunkOver = true) :=
  ⟨{ mail with pwr := { mail.pwr with chunk := some (2, 0) } }, 2, 0, by decide +kernel⟩
theorem witness_TimersOfCommandsRun_6 : ∃ (s : State) (p : Fin 5) (t : Nat),
    s.awake = true ∧
    s.seeReady.readySince (p.val + 1) = some t ∧
    s.seeReady.awake = true ∧
    bit s.seeReady.pwr.lateDone (p.val + 1) = false ∧
    expired t (taskWait (p.val + 1)) s.seeReady.epoch = true :=
  ⟨State.setReady { mail with epoch := 2 ^ 50, chk := { mail.chk with scrubDue := true } } 2 (some 0), 1, 0, by decide +kernel⟩
theorem witness_TimersOfCommandsRun_7 : ∃ (s : State) (t : Nat),
    s.pwr.pause = some t ∧
    t ≤ s.epoch :=
  ⟨{ mail with pwr := { mail.pwr with pause := some 0 } }, 0, by decide +kernel⟩
theorem witness_TimersOfCommandsRun_8 : ∃ (s : State) (g : Fin 12) (d t : Nat),
    let u := State.lateOne { s with therm := { s.therm with hostAt := Smap.set (fun _ => none) s.therm.hostAt g.val (some s.epoch) } } d (16 + g.val) P.thermPsMode (g.val / 3) 0
    s.ownerOf (g.val / 3) = some d ∧
    Smap.get (fun _ => none) s.therm.hostAt g.val = some t ∧
    s.awake = true ∧
    s.hostMode P.thermPsMode (g.val / 3) = true ∧
    expired t (msTicks (s.reg P.hostSlowTmo 0)) s.epoch = true :=
  ⟨hostTAt (State.setReg { drive0 mail with epoch := 2 ^ 40 } P.thermPsMode 0 1) 2 0, 2, 0, 0, by decide +kernel⟩
theorem witness_PowerCommandsRun_1 : ∃ (s : State),
    s.pwr.mode = .unpowered :=
  ⟨{ mail with pwr := { mail.pwr with mode := .unpowered } }, by decide +kernel⟩
theorem witness_PowerCommandsRun_2 : ∃ (s : State),
    s.pwr.mode ≠ .unpowered :=
  ⟨full, by decide +kernel⟩
theorem witness_PowerCommandsRun_3 : ∃ (s : State),
    s.powered = true :=
  ⟨full, by decide +kernel⟩
theorem witness_PowerCommandsRun_4 : ∃ (s : State),
    s.powered = true ∧
    s.pwr.nrstLow = false :=
  ⟨full, by decide +kernel⟩
theorem witness_PowerCommandsRun_5 : ∃ (s : State),
    s.pwr.mode = .reset ∧
    s.pwr.nrstLow = true :=
  ⟨{ mail with pwr := { mail.pwr with mode := .reset, nrstLow := true } }, by decide +kernel⟩
theorem witness_PowerCommandsRun_6 : ∃ (s : State) (b : Nat),
    s.pwr.chipReq = some b ∧
    s.awake = true ∧
    s.resetRecorded = true ∧
    (List.range 4).all (fun d => !s.resetWaits d) = true :=
  ⟨{ mail with pwr := { mail.pwr with chipReq := some 3 } }, 3, by decide +kernel⟩
theorem witness_PowerCommandsRun_7 : ∃ (s : State) (k : Nat) (fb : Bool),
    s.wakeNow.pwr.mode = .boot ∧
    s.wakeNow.bootSlot = some (k, fb) :=
  ⟨(State.setReg ({ mail with pwr := { mail.pwr with mode := .boot } }) P.secSlotStat 1 1).setReg P.secBootPref 0 1, 1, false, by decide +kernel⟩
theorem witness_PowerCommandsRun_8 : ∃ (s : State),
    s.wakeNow.pwr.mode = .boot ∧
    s.wakeNow.bootSlot = none :=
  ⟨{ { mail with pwr := { mail.pwr with mode := .boot } } with r := { a := [(regKey P.secSlotStat 0, 0)] } }, by decide +kernel⟩
theorem witness_PowerCommandsRun_9 : ∃ (s : State),
    s.awake = true :=
  ⟨full, by decide +kernel⟩
theorem witness_PowerCommandsRun_10 : ∃ (s : State) (high : Bool) (cycles : Half),
    s.sleep = some .new ∧
    s.pinWakes high cycles.toNat = true :=
  ⟨{ mail with pwr := { mail.pwr with mode := .new } }, true, 63, by decide +kernel⟩
theorem witness_PowerCommandsRun_11 : ∃ (s : State) (high : Bool) (cycles : Half),
    s.sleep = some .crescent ∧
    s.pinWakes high cycles.toNat = true ∧
    bit (s.reg P.pwrWakeEn 0) 0 = true :=
  ⟨State.setReg (State.setReg ({ mail with pwr := { mail.pwr with mode := .crescent } }) P.pwrWakeEn 0 1) P.pwrWakeCfg 0 0xFD, false, 63, by decide +kernel⟩
theorem witness_PowerCommandsRun_12 : ∃ (s : State) (dom rec dom2 : Half),
    s.sleep = some .crescent ∧
    s.crxWakes dom.toNat rec.toNat dom2.toNat = true ∧
    bit (s.reg P.pwrWakeEn 0) 1 = true :=
  ⟨State.setReg ({ mail with pwr := { mail.pwr with mode := .crescent } }) P.pwrWakeEn 0 2, 5000, 100, 100, by decide +kernel⟩
theorem witness_PowerCommandsRun_13 : ∃ (s : State),
    s.pwr.mode = .crescent ∧
    bit (s.reg P.pwrWakeEn 0) 2 = true ∧
    s.reg P.pwrWakeTimer 0 ≠ 0 ∧
    s.reg P.pwrWakeTimer 0 ≤ s.pwr.crCycles :=
  ⟨State.setReg (State.setReg ({ mail with pwr := { mail.pwr with mode := .crescent, crCycles := 5 } }) P.pwrWakeEn 0 4) P.pwrWakeTimer 0 5, by decide +kernel⟩
theorem witness_PowerCommandsRun_14 : ∃ (s : State),
    s.pwr.mode = .half ∧
    s.serving = true ∧
    s.reg P.pwrHalfIdle 0 ≠ 0 ∧
    expired s.pwr.idleStart (sTicks (s.reg P.pwrHalfIdle 0)) s.epoch = true ∧
    s.classACause = false ∧
    (s.wakeActive false).2 = false :=
  ⟨State.setReg { mail.setReg P.pwrHalfIdle 0 1 with epoch := 2 ^ 50 } P.pwrWakeCfg 0 2, by decide +kernel⟩
theorem witness_PowerCommandsRun_15 : ∃ (s : State),
    s.pwr.mwStage = .vdrv ∧
    s.awake = true ∧
    s.anyUvlo = true ∧
    expired s.pwr.mwStart (msTicks (s.reg P.pwrMwVdrvWait 0)) s.epoch = true :=
  ⟨setEpoch ({ mail with pwr := { mail.pwr with mwStage := .vdrv } }) (2 ^ 50), by decide +kernel⟩
theorem witness_PowerCommandsRun_16 : ∃ (s : State),
    (s.pwr.mwStage = .vdrv ∨ s.pwr.mwStage = .unguarded) ∧
    s.pwr.mode = .half ∧
    s.serving = true ∧
    s.anyUvlo = false :=
  ⟨railsUp ({ mail with pwr := { mail.pwr with mwStage := .vdrv } }), by decide +kernel⟩
theorem witness_PowerCommandsRun_17 : ∃ (s : State) (d : Fin 4),
    s.pwr.mode = .full ∧
    (s.drv d.val).phase = .mwHold ∧
    (s.drv d.val).mwLow = true ∧
    (s.drv d.val).held (msTicks (s.reg P.pwrMwRelisten 0)) s.epoch = true :=
  ⟨{ full with epoch := 2 ^ 50 }.modDrv 3 (fun x => { x with phase := .mwHold, mwLow := true, inForce := some 0 }), 3, by decide +kernel⟩
theorem witness_PowerCommandsRun_18 : ∃ (s : State),
    s.pwr.mode = .full ∧
    s.pwr.mwFull = true ∧
    s.pwr.mwCancel = false ∧
    (List.range 4).all (fun d => s.stopped d || (s.drv d).phase == .mwHold) = true ∧
    expired s.pwr.mwQuiet (msTicks (s.reg P.pwrMwQuiet 0)) s.epoch = true :=
  ⟨setEpoch ({ full with pwr := { full.pwr with mwFull := true } }) (2 ^ 50), by decide +kernel⟩
theorem witness_PowerCommandsRun_19 : ∃ (s : State) (p0 p1 p2 p3 : BitVec 2),
    let x := State.watchAll { s with pwr := { s.pwr with mwSamples := s.pwr.mwSamples + 1 } } (s.pwr.mwSamples + 1) [p0.toNat, p1.toNat, p2.toNat, p3.toNat]
    let y : State := if x.2.1 then { x.1 with pwr := { x.1.pwr with mwQuiet := x.1.epoch } } else x.1
    (s.awake = true ∨ s.pwr.mode = .crescent) :=
  ⟨{ mail with pwr := { mail.pwr with mode := .crescent } }, 0, 1, 2, 3, by decide +kernel⟩
theorem witness_PowerCommandsRun_20 : ∃ (s : State),
    s.awake = true ∧
    s.pwr.xtalRef = true :=
  ⟨full, by decide +kernel⟩
theorem witness_PowerCommandsRun_21 : ∃ (s : State) (u : BlkUnit),
    s.awake = true ∧
    s.flt.blk.contains u = true :=
  ⟨{ full with flt := { full.flt with blk := [.chk] } }, .chk, by decide +kernel⟩
theorem witness_PowerCommandsRun_22 : ∃ (s : State) (e : Entry),
    let u := (s.enterDrafts.flushLife.mirrorAll s.enterDrafts.flt.mirrorQ.length).settleEnergy.each (List.range 12) (fun s g => s.modGen g (fun x => { x with frozen := false }))
    let p : PowerSt := { u.pwr with mode := (match e with | .new => .new | .crescent => .crescent), entering := none, crEntry := u.epoch, crCycles := 0, mw := [], mwSamples := 0, mwFull := false, mwStage := .none }
    let v : State := { u with pool := [], mem := mramOnly u.mem, bus := { u.bus with chops := [] }, pwr := p }
    s.pwr.entering = some e ∧
    s.awake = true :=
  ⟨{ mail with pwr := { mail.pwr with entering := some .new } }, .new, by decide +kernel⟩
theorem witness_CheckAndSecurityEventsRun_1 : ∃ (s : State),
    s.awake = true ∧
    expired s.chk.perAt (sTicks (s.reg P.chkPerInt 0)) s.epoch = true :=
  ⟨setEpoch mail (2 ^ 50), by decide +kernel⟩
theorem witness_CheckAndSecurityEventsRun_2 : ∃ (s : State),
    s.awake = true ∧
    expired s.chk.scrubAt (sTicks (3600 * s.reg P.chkMramScrubInt 0)) s.epoch = true :=
  ⟨setEpoch mail (2 ^ 50), by decide +kernel⟩
theorem witness_CheckAndSecurityEventsRun_3 : ∃ (s : State),
    s.awake = true ∧
    s.chk.engAt + 64 ≤ s.epoch ∧
    s.chk.engNext = 65535 :=
  ⟨{ full with chk := { full.chk with engNext := 65535 } }, by decide +kernel⟩
theorem witness_CheckAndSecurityEventsRun_4 : ∃ (s : State),
    s.awake = true ∧
    s.chk.engAt + 64 ≤ s.epoch ∧
    s.chk.engNext < 65535 :=
  ⟨full, by decide +kernel⟩
theorem witness_CheckAndSecurityEventsRun_5 : ∃ (s : State),
    s.awake = true ∧
    s.chk.sramAt + 64 ≤ s.epoch ∧
    s.chk.sramNext = 1048575 :=
  ⟨{ full with chk := { full.chk with sramNext := 1048575 } }, by decide +kernel⟩
theorem witness_CheckAndSecurityEventsRun_6 : ∃ (s : State) (m : Fin 3) (addr : Word),
    let t := ((s.bump P.chkSbeCnt m.val top32).report K.eccSbe m.val s.epoch none addr.toNat).takeFree
    s.awake = true ∧
    wordIn m.val addr.toNat = true ∧
    m.val ≠ 2 :=
  ⟨full, 0, 0x002FFFFC, by decide +kernel⟩
theorem witness_CheckAndSecurityEventsRun_7 : ∃ (s : State) (m : Fin 3) (addr : Word),
    s.awake = true ∧
    wordIn m.val addr.toNat = true ∧
    m.val = 2 :=
  ⟨full, 2, 0x02000000, by decide +kernel⟩
theorem witness_CheckAndSecurityEventsRun_8 : ∃ (s : State) (m : Fin 3) (addr : Word),
    s.awake = true ∧
    wordIn m.val addr.toNat = true :=
  ⟨full, 0, 0, by decide +kernel⟩
theorem witness_CheckAndSecurityEventsRun_9 : ∃ (s : State) (m : Fin 3) (addr : Word),
    s.awake = true ∧
    wordIn m.val addr.toNat = true :=
  ⟨full, 0, 0, by decide +kernel⟩
theorem witness_CheckAndSecurityEventsRun_10 : ∃ (s : State) (m : Fin 3) (addr : Word) (r : Reader),
    s.awake = true ∧
    wordIn m.val addr.toNat = true ∧
    r ≠ .scan ∧
    r ≠ .engine :=
  ⟨full, 0, 0, .scrub, by decide +kernel⟩
theorem witness_CheckAndSecurityEventsRun_11 : ∃ (s : State),
    s.awake = true :=
  ⟨full, by decide +kernel⟩
theorem witness_CheckAndSecurityEventsRun_12 : ∃ (s : State),
    s.awake = true :=
  ⟨full, by decide +kernel⟩
theorem witness_CheckAndSecurityEventsRun_13 : ∃ (s : State) (passed : Bool),
    s.awake = true ∧
    s.isLive K.trngFail 0 = true ∧
    s.sec.retestAt + msTicks 10 ≤ s.epoch :=
  ⟨State.report { full with epoch := 2 ^ 40 } K.trngFail 0 0, true, by decide +kernel⟩
theorem witness_CheckAndSecurityEventsRun_14 : ∃ (s : State) (t : Fin 8),
    s.awake = true ∧
    bit (s.reg P.secTaskStat t.val) 1 = true :=
  ⟨full.setReg P.secTaskStat 7 3, 7, by decide +kernel⟩
theorem witness_CheckAndSecurityEventsRun_15 : ∃ (s : State) (f : FwUpdate),
    s.sec.fw = some f ∧
    s.awake = true ∧
    f.finish = none ∧
    expired f.last (msTicks (s.reg P.secFwTmo 0)) s.epoch = true :=
  ⟨setEpoch { mail with sec := { mail.sec with fw := some { iface := 0, target := 3, total := 192, last := 0 } } } (2 ^ 50), { iface := 0, target := 3, total := 192, last := 0 }, by decide +kernel⟩
theorem witness_CheckAndSecurityEventsRun_16 : ∃ (s : State) (f : FwUpdate) (c : Cmd) (flags : Nat),
    s.sec.fw = some f ∧
    f.finish = some (c, flags) ∧
    s.awake = true :=
  ⟨{ mail with sec := { mail.sec with fw := some { iface := 0, target := 3, total := 192, last := 0, finish := some ({}, 0) } } }, { iface := 0, target := 3, total := 192, last := 0, finish := some ({}, 0) }, {}, 0, by decide +kernel⟩
theorem witness_CheckAndSecurityEventsRun_17 : ∃ (s : State) (c : Cmd) (off flags : Nat),
    s.sec.load = some (c, off, flags) ∧
    s.awake = true :=
  ⟨{ mail with sec := { mail.sec with load := some ({}, 0, 0) } }, {}, 0, 0, by decide +kernel⟩
theorem witness_PwmCommandsRun_1 : ∃ (s : State) (d : Fin 4),
    s.atReloadPoint d.val = true ∧
    s.role d.val = 3 :=
  ⟨(running0 full).setReg P.sysDrvMap 0 0x31, 0, by decide +kernel⟩
theorem witness_PwmCommandsRun_2 : ∃ (s : State) (d : Fin 4),
    s.atReloadPoint d.val = true ∧
    s.computes d.val = true :=
  ⟨running0 (drive0 full), 0, by decide +kernel⟩
theorem witness_PwmCommandsRun_3 : ∃ (s : State) (g : Fin 12) (f : Fin 32) (d : Nat),
    s.ownerOf (g.val / 3) = some d ∧
    s.pwr.mode = .full ∧
    s.pwm.halted = none ∧
    (s.drv d).car.run = true ∧
    (s.posF d f.val = s.reg P.pwmCmpa g.val ∨ s.posF d f.val = s.reg P.pwmCmpb g.val) ∧
    s.reg P.pwmCmpa g.val / 32 < (s.drv d).car.per ∧
    s.reg P.pwmCmpa g.val ≠ 0x1FFFFF ∧
    (s.gen g.val).req ≠ requestAt (s.drv d).car.per (s.reg P.pwmCmpa g.val) (s.reg P.pwmCmpb g.val) (s.posF d f.val) :=
  ⟨((running0 (drive0 full)).modDrv 0 (fun x => { x with car := { x.car with cnt := 2 } })).setReg P.pwmCmpa 0 64, 0, 0, 0, by decide +kernel⟩
theorem witness_PwmCommandsRun_4 : ∃ (s : State) (g : Fin 12),
    s.pwm.halted = none ∧
    (s.gen g.val).pendH = true ∧
    (s.gen g.val).offL + s.reg P.pwmDtRise (s.ilLead g.val) ≤ s.nowF + 31 :=
  ⟨full.setGen 11 { pendH := true }, 11, by decide +kernel⟩
theorem witness_PwmCommandsRun_5 : ∃ (s : State) (g : Fin 12),
    s.pwm.halted = none ∧
    (s.gen g.val).pendH = false ∧
    (s.gen g.val).pendL = true ∧
    (s.gen g.val).offH + s.reg P.pwmDtFall (s.ilLead g.val) ≤ s.nowF + 31 :=
  ⟨full.setGen 11 { pendL := true }, 11, by decide +kernel⟩
theorem witness_PwmCommandsRun_6 : ∃ (s : State),
    s.pwr.mode = .full ∧
    s.pwm.halted = none ∧
    s.reg P.pwmSyncSrc 0 = 0 ∧
    s.pwm.chain = 0 :=
  ⟨full, by decide +kernel⟩
theorem witness_PwmCommandsRun_7 : ∃ (s : State) (rawAgo : Half) (frac : Fin 32) (rising : Bool),
    let raw := (s.epoch - rawAgo.toNat) * 32 + frac.val
    s.pwr.mode = .full ∧
    s.pwm.halted = none ∧
    s.reg P.pwmSyncSrc 0 = 1 ∧
    bit (s.reg P.pwmSyncInCfg 0) 0 = true ∧
    rising = !bit (s.reg P.pwmSyncInCfg 0) 1 ∧
    rawAgo.toNat = bits (s.reg P.pwmSyncInCfg 0) 2 4 + (if frac.val = 0 then 0 else 1) :=
  ⟨(full.setReg P.pwmSyncSrc 0 1).setReg P.pwmSyncInCfg 0 0x3D, 16, 31, true, by decide +kernel⟩
theorem witness_PwmCommandsRun_8 : ∃ (s : State) (rawAgo : Half) (frac : Fin 32) (rising : Bool),
    s.awake = true ∧
    (s.pwr.mode ≠ .full ∨ s.reg P.pwmSyncSrc 0 ≠ 1) ∧
    rising = !bit (s.reg P.pwmSyncInCfg 0) 1 ∧
    rawAgo.toNat = bits (s.reg P.pwmSyncInCfg 0) 2 4 + (if frac.val = 0 then 0 else 1) :=
  ⟨mail.setReg P.pwmSyncInCfg 0 2, 0, 0, false, by decide +kernel⟩
theorem witness_PwmCommandsRun_9 : ∃ (s : State) (b : Fin 4) (t : Nat) (rest : List Nat),
    let out := bit (s.reg P.pwmSyncOutCfg 0) 0 && bits (s.reg P.pwmSyncOutCfg 0) 1 2 == b.val
    let x : State := { s with pwm := { s.pwm with pulses := Smap.set (fun _ => []) s.pwm.pulses b.val rest, syncOut := if out then some s.epoch else s.pwm.syncOut } }
    let y : State := if b.val < 3 then x.addPulse (b.val + 1) (t + s.reg P.pwmSyncDly (b.val + 1)) else x
    Smap.get (fun _ => []) s.pwm.pulses b.val = t :: rest ∧
    t ≤ s.epoch ∧
    s.pwr.mode = .full :=
  ⟨{ full with pwm := { full.pwm with pulses := [(3, [0, 5])] } }, 3, 0, [5], by decide +kernel⟩
theorem witness_PwmCommandsRun_10 : ∃ (s : State) (d : Fin 4),
    s.pwr.mode = .full ∧
    s.computes d.val = true ∧
    s.reg P.pwmSyncMode d.val = 1 ∧
    (s.drv d.val).car.lost = false ∧
    expired (s.drv d.val).car.pulse (2 * s.reg P.pwmSyncPeriod 0) s.epoch = true :=
  ⟨(running0 (drive0 full)).setReg P.pwmSyncMode 0 1, 0, by decide +kernel⟩
theorem witness_PwmCommandsRun_11 : ∃ (s : State) (t : Fin 8) (level : Bool) (frac : Fin 32),
    let u : State := s.setTrip t.val { pin := level, raw := s.epoch, frac := frac.val, fired := false }
    s.awake = true ∧
    level = !bit (s.reg P.pwmTripCfg t.val) 1 ∧
    s.tripLevel t.val = false :=
  ⟨full, 7, true, 31, by decide +kernel⟩
theorem witness_PwmCommandsRun_12 : ∃ (s : State) (t : Fin 8) (level : Bool) (frac : Fin 32),
    let u : State := s.setTrip t.val { s.trip t.val with pin := level }
    s.awake = true ∧
    level = bit (s.reg P.pwmTripCfg t.val) 1 ∧
    s.tripLevel t.val = true :=
  ⟨full.setReg P.pwmTripStat 0 0x8000, 7, false, 31, by decide +kernel⟩
theorem witness_PwmCommandsRun_13 : ∃ (s : State) (t : Fin 8),
    let edge := (s.trip t.val).firstSample + bits (s.reg P.pwmTripCfg t.val) 8 8
    let u := s.setTrip t.val { s.trip t.val with fired := true }
    let gs := setBits 12 (u.reg P.pwmTripMap t.val)
    let lv := fun g : Nat => u.safeLevel (bits (u.reg P.pwmTripCfg t.val) 2 2) g
    let v : State := if bit (u.reg P.pwmTripStat 0) t.val then u else ((u.setBit P.pwmTripStat 0 t.val true).force t.val 1 u.nowF (gs.filter (fun g => lv g == 1))).force t.val 2 u.nowF (gs.filter (fun g => lv g == 2))
    s.awake = true ∧
    bit (s.reg P.pwmTripCfg t.val) 0 = true ∧
    s.tripLevel t.val = true ∧
    (s.trip t.val).fired = false ∧
    edge ≤ s.epoch :=
  ⟨(full.setReg P.pwmTripCfg 7 0xFF01).setReg P.pwmTripStat 0 0x8000, 7, by decide +kernel⟩
theorem witness_PwmCommandsRun_14 : ∃ (s : State),
    s.awake = true ∧
    s.pwm.halted = none ∧
    bits (s.reg P.secStat 0) 4 2 = 2 :=
  ⟨full.setReg P.secStat 0 0x20, by decide +kernel⟩
theorem witness_PwmCommandsRun_15 : ∃ (s : State),
    s.awake = true ∧
    bits (s.reg P.secStat 0) 4 2 ≠ 0 :=
  ⟨full.setReg P.secStat 0 0x20, by decide +kernel⟩
theorem witness_PwmCommandsRun_16 : ∃ (s : State) (t : Nat),
    s.pwm.halted = some t :=
  ⟨{ full with pwm := { full.pwm with halted := some 5 } }, 5, by decide +kernel⟩
theorem witness_PwmCommandsRun_17 : ∃ (s : State),
    s.pwm.halted = none :=
  ⟨full, by decide +kernel⟩
theorem witness_ConverterCommandsRun_1 : ∃ (s : State) (k : Fin 8) (code : BitVec 14) (orng : Bool),
    s.awake = true ∧
    (s.epoch + 10 - s.reg P.adcPhase k.val) % 10 = 0 ∧
    (s.conv k.val).last ≠ some s.epoch :=
  ⟨full, 6, 0x3FFF, true, by decide +kernel⟩
theorem witness_ConverterCommandsRun_2 : ∃ (s : State) (b : Fin 4) (w : Window) (l : List Window),
    s.awake = true ∧
    (s.picker b.val).closed = w :: l ∧
    w.close + 40 * 32 ≤ s.epoch * 32 :=
  ⟨full.setPicker 3 { closed := [win0] }, 3, win0, [], by decide +kernel⟩
theorem witness_ConverterCommandsRun_3 : ∃ (s : State) (b : Fin 4),
    s.awake = true ∧
    expired (s.checker b.val).vbusAt (usTicks (s.reg P.adcVbusAgeMax b.val)) s.epoch = true :=
  ⟨full, 3, by decide +kernel⟩
theorem witness_ConverterCommandsRun_4 : ∃ (s : State),
    s.awake = true ∧
    s.hk.due ≤ s.epoch ∧
    s.flt.blk.contains .hk = false ∧
    s.hk.round = false ∧
    s.hk.conv = none ∧
    s.hk.due + msTicks (s.reg P.adcHkPeriod 0) > s.epoch :=
  ⟨mail, by decide +kernel⟩
theorem witness_ConverterCommandsRun_5 : ∃ (s : State),
    s.awake = true ∧
    s.hk.due ≤ s.epoch ∧
    s.flt.blk.contains .hk = false ∧
    s.hk.round = true ∧
    s.hk.due + msTicks (s.reg P.adcHkPeriod 0) > s.epoch :=
  ⟨{ mail with hk := { mail.hk with round := true } }, by decide +kernel⟩
theorem witness_ConverterCommandsRun_6 : ∃ (s : State) (code : Half) (ch t : Nat) (cmd : Option Cmd),
    s.hk.conv = some (ch, t, cmd) ∧
    s.awake = true ∧
    t + s.hkTicks ≤ s.epoch ∧
    s.flt.blk.contains .hk = false :=
  ⟨{ full with hk := { full.hk with conv := some (31, 0, none) } }, 0xFFFF, 31, 0, none, by decide +kernel⟩
theorem witness_PositionAndStartCommandsRun_1 : ∃ (s : State) (p : Fin 12) (level : Bool) (rawAgo : Half),
    let v := level != bit (s.reg P.posInCfg (p.val / 3)) (4 + p.val % 3)
    s.awake = true ∧
    s.flt.blk.contains .pos = false ∧
    v ≠ s.posPin (p.val / 3) (p.val % 3) ∧
    bits (s.reg P.posInCfg (p.val / 3)) 0 4 * 32 ≤ rawAgo.toNat ∧
    rawAgo.toNat ≤ (bits (s.reg P.posInCfg (p.val / 3)) 0 4 + 1) * 32 :=
  ⟨(drive0 full).setReg P.posInCfg 0 4, 2, true, 160, by decide +kernel⟩
theorem witness_PositionAndStartCommandsRun_2 : ∃ (s : State) (p : Fin 12) (level : Bool) (rawAgo : Half) (d : Nat),
    let v := level != bit (s.reg P.posInCfg (p.val / 3)) (4 + p.val % 3)
    let x : State := { s with posIn := Smap.set (fun _ => false) s.posIn (3 * (p.val / 3) + p.val % 3) v }
    let y : State := if (hallIndex (x.hallState (p.val / 3))).isSome then { x with posSeen := x.posSeen ||| 2 ^ (p.val / 3) } else x
    s.awake = true ∧
    s.flt.blk.contains .pos = false ∧
    v ≠ s.posPin (p.val / 3) (p.val % 3) ∧
    bits (s.reg P.posInCfg (p.val / 3)) 0 4 * 32 ≤ rawAgo.toNat ∧
    rawAgo.toNat ≤ (bits (s.reg P.posInCfg (p.val / 3)) 0 4 + 1) * 32 ∧
    s.ownerOf (p.val / 3) = some d ∧
    s.lowBridge d = p.val / 3 ∧
    s.reg P.posSrc d ≠ 1 ∧
    s.reg P.posSrc d ≠ 3 ∧
    s.hallDecoded d = true :=
  ⟨(drive0 full).setReg P.posInCfg 0 4, 2, true, 160, 0, by decide +kernel⟩
theorem witness_PositionAndStartCommandsRun_3 : ∃ (s : State) (d : Fin 4),
    s.awake = true ∧
    s.role d.val ≠ 0 ∧
    (s.drv d.val).trk.zeroed = false ∧
    s.hostSteers d.val = false ∧
    expired (s.drv d.val).trk.evTick (msTicks (s.reg P.posZeroTmo d.val)) s.epoch = true ∧
    s.hallDecoded d.val = false :=
  ⟨((setEpoch (drive0 full) (2 ^ 50)).setReg P.posSrc 0 2).modDrv 0 (fun x => { x with trk := { x.trk with zeroed := false } }), 0, by decide +kernel⟩
theorem witness_PositionAndStartCommandsRun_4 : ∃ (s : State) (d : Fin 4),
    s.awake = true ∧
    s.role d.val ≠ 0 ∧
    (s.drv d.val).trk.zeroed = true ∧
    s.hallDecoded d.val = true ∧
    (hallIndex (s.drv d.val).trk.hall).isNone = true ∧
    expired (s.drv d.val).trk.hallTick (msTicks (s.reg P.posZeroTmo d.val)) s.epoch = true :=
  ⟨(setEpoch (drive0 full) (2 ^ 50)).modDrv 0 (fun x => { x with trk := { x.trk with zeroed := true } }), 0, by decide +kernel⟩
theorem witness_PositionAndStartCommandsRun_5 : ∃ (s : State) (b : Fin 4) (line : Fin 3) (rising : Bool) (frac : Fin 32) (d : Nat),
    s.ownerOf b.val = some d ∧
    s.pwr.mode = .full ∧
    s.lowBridge d = b.val ∧
    (s.drv d).listening = true ∧
    s.underTest (b.val / 2 + 1) (18 + (3 * b.val + line.val) % 6) = false :=
  ⟨(running0 (drive0 full)).modDrv 0 (fun x => { x with phase := .listen, inForce := some 0 }), 0, 2, true, 31, 0, by decide +kernel⟩
theorem witness_PositionAndStartCommandsRun_6 : ∃ (s : State) (d : Fin 4),
    s.awake = true ∧
    (s.drv d.val).phase = .precharge ∧
    (s.drv d.val).start.gangWait = none ∧
    (s.drv d.val).held (usTicks (s.reg P.gatePrecharge 0)) s.epoch = true :=
  ⟨(setEpoch full (2 ^ 50)).modDrv 3 (fun x => { x with phase := .precharge, inForce := some 0 }), 3, by decide +kernel⟩
theorem witness_PositionAndStartCommandsRun_7 : ∃ (s : State) (d : Fin 4),
    s.pwr.mode = .full ∧
    (s.drv d.val).listening = true ∧
    (s.drv d.val).held (msTicks (s.reg P.posListen d.val)) s.epoch = true :=
  ⟨(setEpoch full (2 ^ 50)).modDrv 3 (fun x => { x with phase := .listen, inForce := some 0 }), 3, by decide +kernel⟩
theorem witness_PositionAndStartCommandsRun_8 : ∃ (s : State) (d : Fin 4),
    s.pwr.mode = .full ∧
    (s.drv d.val).phase = .align ∧
    (s.drv d.val).stop.byAction = false ∧
    expired (s.drv d.val).since (msTicks (s.reg P.posAlignT d.val)) s.epoch = true :=
  ⟨(setEpoch full (2 ^ 50)).modDrv 3 (fun x => { x with phase := .align }), 3, by decide +kernel⟩
theorem witness_PositionAndStartCommandsRun_9 : ∃ (s : State) (d : Fin 4),
    s.pwr.mode = .full ∧
    (s.drv d.val).phase = .openLoop ∧
    (s.drv d.val).start.failed = false ∧
    (s.drv d.val).stop.byAction = false ∧
    expired (s.drv d.val).since (msTicks (s.reg P.posOlTMax d.val)) s.epoch = true :=
  ⟨(setEpoch full (2 ^ 50)).modDrv 3 (fun x => { x with phase := .openLoop }), 3, by decide +kernel⟩
theorem witness_PositionAndStartCommandsRun_10 : ∃ (s : State) (d : Fin 4),
    s.pwr.mode = .full ∧
    (s.drv d.val).phase = .brake ∧
    (s.drv d.val).held (msTicks (s.reg P.posAscStep d.val)) s.epoch = true :=
  ⟨(setEpoch full (2 ^ 50)).modDrv 3 (fun x => { x with phase := .brake, inForce := some 0 }), 3, by decide +kernel⟩
theorem witness_PositionAndStartCommandsRun_11 : ∃ (s : State) (d : Fin 4),
    s.pwr.mode = .full ∧
    (s.drv d.val).phase = .lossBrake ∧
    (s.drv d.val).stop.byAction = false ∧
    expired (s.drv d.val).since (20000 * s.reg P.posAscStep d.val) s.epoch = true :=
  ⟨(setEpoch full (2 ^ 50)).modDrv 3 (fun x => { x with phase := .lossBrake }), 3, by decide +kernel⟩
theorem witness_PositionAndStartCommandsRun_12 : ∃ (s : State) (d : Fin 4),
    s.pwr.mode = .full ∧
    (s.drv d.val).phase = .stopping ∧
    (s.drv d.val).stop.ph = .short ∧
    (s.drv d.val).stop.listen = false ∧
    s.shortTracked d.val = false ∧
    (s.drv d.val).held (msTicks (s.reg P.posAscStep d.val)) s.epoch = true :=
  ⟨(setEpoch full (2 ^ 50)).modDrv 3 (fun x => { x with phase := .stopping, stop := { x.stop with ph := .short }, inForce := some 0 }), 3, by decide +kernel⟩
theorem witness_PositionAndStartCommandsRun_13 : ∃ (s : State) (d : Fin 4),
    s.pwr.mode = .full ∧
    ((s.drv d.val).phase = .brake ∨ (s.drv d.val).phase = .lossBrake) ∧
    (s.drv d.val).start.failed = false ∧
    (s.drv d.val).stop.byAction = false ∧
    msTicks (s.reg P.posBrakeMax d.val) < (s.drv d.val).start.brakeTicks + (s.epoch - (s.drv d.val).since) :=
  ⟨(setEpoch full (2 ^ 50)).modDrv 3 (fun x => { x with phase := .brake }), 3, by decide +kernel⟩
theorem witness_PositionAndStartCommandsRun_14 : ∃ (s : State) (d : Fin 4),
    s.pwr.mode = .full ∧
    (s.drv d.val).phase = .listen ∧
    (s.drv d.val).start.failed = false ∧
    (s.drv d.val).stop.byAction = false ∧
    msTicks (s.reg P.posBrakeMax d.val) < (s.drv d.val).start.brakeTicks :=
  ⟨full.modDrv 3 (fun x => { x with phase := .listen, start := { x.start with brakeTicks := 2 ^ 50 } }), 3, by decide +kernel⟩
theorem witness_PositionAndStartCommandsRun_15 : ∃ (s : State) (d : Fin 4),
    s.pwr.mode = .full ∧
    (s.drv d.val).phase = .stopping ∧
    (s.drv d.val).stop.ph = .ramp ∧
    (s.drv d.val).stop.soft = none ∧
    expired (s.drv d.val).stop.entry (msTicks (s.reg P.focStopTMax d.val)) s.epoch = true :=
  ⟨(setEpoch full (2 ^ 50)).modDrv 3 (fun x => { x with phase := .stopping, stop := { x.stop with ph := .ramp } }), 3, by decide +kernel⟩
theorem witness_PositionAndStartCommandsRun_16 : ∃ (s : State) (d : Fin 4) (t : Nat),
    (s.drv d.val).stop.soft = some t ∧
    s.pwr.mode = .full ∧
    expired t (msTicks (s.reg P.focSoftTMax d.val)) s.epoch = true :=
  ⟨(setEpoch full (2 ^ 50)).modDrv 3 (fun x => { x with stop := { x.stop with soft := some 0 } }), 3, 0, by decide +kernel⟩
theorem witness_EngineRunsAreServed_1 : ∃ (s : State) (l : Fin 2) (t d : Nat),
    s.pwr.mode = .full ∧
    s.flt.blk.contains .eng = false ∧
    s.onLane l.val = none ∧
    s.nextRun l.val = some (t, d) ∧
    s.laneFree l.val ≤ 2 * s.epoch + 1 :=
  ⟨full.modDrv 0 (fun x => { x with foc := { x.foc with run := some run0 } }), 0, run0.deadline, 0, by decide +kernel⟩
theorem witness_EngineRunsAreServed_2 : ∃ (s : State) (d : Fin 4) (r : Run),
    s.pwr.mode = .full ∧
    s.runOf d.val = some r ∧
    r.late = false ∧
    r.deadline < s.epoch :=
  ⟨full.modDrv 3 (fun x => { x with foc := { x.foc with run := some run0 } }), 3, run0, by decide +kernel⟩
theorem witness_EngineRunsAreServed_3 : ∃ (s : State) (l : Fin 2) (d : Nat) (r : Run) (e : Nat),
    s.onLane l.val = some d ∧
    s.runOf d = some r ∧
    r.endCycle = some e ∧
    s.pwr.mode = .full ∧
    s.flt.blk.contains .eng = false ∧
    (e - 1) / 2 ≤ s.epoch :=
  ⟨full.modDrv 0 (fun x => { x with foc := { x.foc with run := some { run0 with start := some 0 } } }), 0, 0, { run0 with start := some 0 }, run0.cost, by decide +kernel⟩
theorem witness_GateCommandsRun_1 : ∃ (s : State) (j : Fin 2),
    (s.die j.val).up = true ∧
    s.underTest (j.val + 1) 24 = false :=
  ⟨railsUp full, 1, by decide +kernel⟩
theorem witness_GateCommandsRun_2 : ∃ (s : State) (j : Fin 2),
    s.awake = true ∧
    (s.die j.val).up = false :=
  ⟨full, 1, by decide +kernel⟩
theorem witness_GateCommandsRun_3 : ∃ (s : State) (g : Fin 12),
    s.awake = true ∧
    (s.gen g.val).gh = true ∧
    s.underTest (g.val / 6 + 1) (12 + g.val % 6) = false ∧
    s.bstHold g.val = false :=
  ⟨full.setGen 11 { gh := true }, 11, by decide +kernel⟩
theorem witness_GateCommandsRun_4 : ∃ (s : State) (g : Fin 12),
    s.awake = true ∧
    (s.chan g.val).xcmd = false :=
  ⟨full, 11, by decide +kernel⟩
theorem witness_GateCommandsRun_5 : ∃ (s : State) (g : Fin 12) (low : Bool) (latched : Half),
    s.awake = true ∧
    s.desatEnabled g.val low (extendEpoch s.epoch latched.toNat) = true ∧
    s.underTest (g.val / 6 + 1) ((if low then 6 else 0) + g.val % 6) = false :=
  ⟨desatOn full, 0, false, 0, by decide +kernel⟩
theorem witness_GateCommandsRun_6 : ∃ (s : State) (b : Fin 4),
    s.awake = true ∧
    s.underTest 0 b.val = false :=
  ⟨full, 3, by decide +kernel⟩
theorem witness_GateCommandsRun_7 : ∃ (s : State) (b : Fin 4),
    bit s.gate.hoc b.val = true :=
  ⟨{ full with gate := { full.gate with hoc := 8 } }, 3, by decide +kernel⟩
theorem witness_GateCommandsRun_8 : ∃ (s : State) (d : Fin 4) (b t : Nat),
    (List.range 4).filter (fun b => (s.bridges d.val).contains b || (s.ownerOf b).isNone) = [b] ∧
    s.softOf b = some t ∧
    t + s.softTicks b ≤ s.epoch :=
  ⟨((((drive0 full).setReg P.sysDrvMap 1 0x12).setReg P.sysDrvMap 2 0x14).setReg P.sysDrvMap 3 0x18).setSoft 3 (some 0), 3, 3, 0, by decide +kernel⟩
theorem witness_GateCommandsRun_9 : ∃ (s : State) (j : Fin 2) (stob : Bool),
    let x := (if stob then { s.die j.val with lowB := true } else { s.die j.val with lowA := true }).setDiffer s.epoch
    let t := (s.setDie j.val x).setDie j.val { (s.setDie j.val x).die j.val with latch := true }
    let u := t.force 10 1 t.nowF ((dieBridges j.val).map gensOfBridge).flatten
    let v := (u.bump P.gateStoCnt (j.val + 1) top32).report K.stoAct (2 * j.val + stob.toNat) (u.bump P.gateStoCnt (j.val + 1) top32).epoch
    (if stob then (s.die j.val).lowB else (s.die j.val).lowA) = false ∧
    s.awake = true :=
  ⟨full, 1, true, by decide +kernel⟩
theorem witness_GateCommandsRun_10 : ∃ (s : State) (j : Fin 2) (stob : Bool),
    let x := (if stob then { s.die j.val with lowB := true } else { s.die j.val with lowA := true }).setDiffer s.epoch
    (if stob then (s.die j.val).lowB else (s.die j.val).lowA) = false ∧
    s.pwr.mode = .boot :=
  ⟨{ full with pwr := { full.pwr with mode := .boot } }, 1, true, by decide +kernel⟩
theorem witness_GateCommandsRun_11 : ∃ (s : State) (stob : Bool),
    ((if stob then (s.die 0).lowB else (s.die 0).lowA) = true ∨ (if stob then (s.die 1).lowB else (s.die 1).lowA) = true) :=
  ⟨full.setDie 0 { lowA := true, lowB := true }, true, by decide +kernel⟩
theorem witness_GateCommandsRun_12 : ∃ (s : State) (j : Fin 2) (t : Nat),
    (s.die j.val).differ = some t ∧
    s.awake = true ∧
    expired t (msTicks (s.reg P.gateStoDiscT 0)) s.epoch = true :=
  ⟨(setEpoch full (2 ^ 50)).setDie 1 { differ := some 0 }, 1, 0, by decide +kernel⟩
theorem witness_GateCommandsRun_13 : ∃ (s : State) (res : SelftestResult) (t : SelfTest),
    s.endedTest = some t ∧
    (t.cmd ≠ none ∨ (s.endTest t res).gate.tests.length = s.gate.tests.length ∨ (s.endTest t res).pwr.mode ≠ .half) :=
  ⟨testEnds full, passes, test0, by decide +kernel⟩
theorem witness_GateCommandsRun_14 : ∃ (s : State) (res : SelftestResult) (t : SelfTest),
    s.endedTest = some t ∧
    t.cmd = none ∧
    (s.endTest t res).gate.tests.length < s.gate.tests.length ∧
    (s.endTest t res).pwr.mode = .half ∧
    (s.endTest t res).pwr.entering = none :=
  ⟨testEnds mail, passes, test0, by decide +kernel⟩
theorem witness_BusCommandsRun_1 : ∃ (s : State) (n : Fin 4) (uv2 : Bool) (t : Nat),
    s.awake = true ∧
    uv2 = false ∧
    (s.grp n.val).uv1 = false ∧
    (s.grp n.val).uv1At = some t ∧
    expired t (usTicks (s.reg P.busUvFilt n.val)) s.epoch = true :=
  ⟨(setEpoch full (2 ^ 50)).setGrp 3 { uv1At := some 0 }, 3, false, 0, by decide +kernel⟩
theorem witness_BusCommandsRun_2 : ∃ (s : State) (n : Fin 4) (uv2 : Bool) (t : Nat),
    s.awake = true ∧
    uv2 = true ∧
    (s.grp n.val).uv2 = false ∧
    (s.grp n.val).uv2At = some t ∧
    expired t (usTicks (s.reg P.busUvFilt n.val)) s.epoch = true :=
  ⟨(setEpoch full (2 ^ 50)).setGrp 3 { uv2At := some 0 }, 3, true, 0, by decide +kernel⟩
theorem witness_BusCommandsRun_3 : ∃ (s : State) (b : Fin 4),
    s.awake = true ∧
    s.underTest 0 (4 + b.val) = false :=
  ⟨full, 3, by decide +kernel⟩
theorem witness_BusCommandsRun_4 : ∃ (s : State) (b : Fin 4),
    bit s.bus.ov4 b.val = true :=
  ⟨{ full with bus := { full.bus with ov4 := 8 } }, 3, by decide +kernel⟩
theorem witness_BusCommandsRun_5 : ∃ (s : State) (n : Fin 4),
    (s.grp n.val).ov4Latch = true ∧
    s.ov4Quiet n.val = true ∧
    expired (s.grp n.val).ov4Clear (usTicks (s.reg P.busOv4Hold n.val)) s.epoch = true :=
  ⟨(setEpoch full (2 ^ 50)).setGrp 3 { ov4Latch := true }, 3, by decide +kernel⟩
theorem witness_BusCommandsRun_6 : ∃ (s : State) (c : Fin 2) (t : Nat),
    (s.chop c.val).check = some t ∧
    s.pwm.halted = none ∧
    expired t (usTicks (s.reg P.busChopCheck c.val)) s.epoch = true :=
  ⟨(setEpoch full (2 ^ 50)).setChop 1 { check := some 0 }, 1, 0, by decide +kernel⟩
theorem witness_BusCommandsRun_7 : ∃ (s : State) (c : Fin 2),
    s.awake = true ∧
    s.chopDesatEnabled c.val = true ∧
    s.underTest (c.val + 1) 25 = false :=
  ⟨(railsUp full).setChop 1 { on := true }, 1, by decide +kernel⟩
theorem witness_FaultTimersRun_1 : ∃ (s : State) (u : Nat) (words : List Nat) (rest : List (Nat × List Nat)),
    s.flt.shdnQ = (u, words) :: rest ∧
    Smap.get (fun _ => none) s.therm.shdn u = none :=
  ⟨{ full with flt := { full.flt with shdnQ := [(0, [1, 2, 3, 4])] } }, 0, [1, 2, 3, 4], [], by decide +kernel⟩
theorem witness_FaultTimersRun_2 : ∃ (s : State),
    s.flt.pens.filter (fun p => decide (p.stop < s.epoch)) ≠ [] ∧
    s.awake = true :=
  ⟨{ full with flt := { full.flt with pens := [{ kind := .ov4 0, start := 0, stop := 1, sel := 0, seq := none }] } }, by decide +kernel⟩
theorem witness_FaultTimersRun_3 : ∃ (s : State),
    s.awake = true :=
  ⟨full, by decide +kernel⟩
theorem witness_FaultTimersRun_4 : ∃ (s : State),
    s.awake = true :=
  ⟨full, by decide +kernel⟩
theorem witness_FaultTimersRun_5 : ∃ (s : State) (x : Inject),
    s.flt.inject = some x ∧
    s.awake = true ∧
    x.waits = false ∧
    expired x.epoch (usTicks 10) s.epoch = true :=
  ⟨{ full with flt := { full.flt with inject := some { cmd := {}, noReact := false, epoch := 0, kind := 0, inst := 0 } } }, { cmd := {}, noReact := false, epoch := 0, kind := 0, inst := 0 }, by decide +kernel⟩
theorem witness_FaultTimersRun_6 : ∃ (s : State) (kind inst : Byte),
    let sel := selector kind.toNat inst.toNat
    let u := s.setRec sel { s.frec sel with awaiting := none }
    let v := ((u.takeDeferred kind.toNat inst.toNat (u.reg P.fltReact kind.toNat)).bump P.hostDecLate 0 top32).bump P.hostDecRun 0 255
    s.awake = true ∧
    (s.frec sel).awaiting ≠ none ∧
    s.awaits (s.frec sel) = false ∧
    v.reg P.hostDecRun 0 < v.reg P.hostLateMax 0 :=
  ⟨(setEpoch full (2 ^ 50)).setRec (selector 1 0) { awaiting := some 0 }, 1, 0, by decide +kernel⟩
theorem witness_PerfCommandsRun_1 : ∃ (s : State) (e : Fin 12) (two : Bool),
    s.awake = true ∧
    s.reg P.perfCtl (e.val / 6) = 1 ∧
    s.coreHalted (e.val / 6) = false ∧
    bits (s.reg P.perfEvt e.val) 0 8 ≠ 0 ∧
    2 ^ 48 ≤ s.reg P.perfCnt e.val + (if two then 2 else 1) :=
  ⟨((full.setReg P.perfCtl 1 1).setReg P.perfEvt 11 1).setReg P.perfCnt 11 (2 ^ 48 - 1), 11, false, by decide +kernel⟩
theorem witness_PerfCommandsRun_2 : ∃ (s : State) (c : Fin 2) (r : SampleInsn),
    s.awake = true ∧
    bit (s.reg P.perfSampleCfg c.val) 0 = true ∧
    s.coreHalted c.val = false ∧
    (c.val ≠ 0 ∨ s.susp0 = false) :=
  ⟨full.setReg P.perfSampleCfg 1 0x0201, 1, { pc := 0, insn := 3, lat := 0, wasted := false, user := true }, by decide +kernel⟩
theorem witness_PerfCommandsRun_3 : ∃ (s : State),
    s.atDump = true :=
  ⟨(setEpoch full 1000000).setReg P.perfDumpCfg 0 15, by decide +kernel⟩
theorem witness_PerfCommandsRun_4 : ∃ (s : State),
    s.perf.dumpDue = true :=
  ⟨{ full with perf := { full.perf with dumpDue := true } }, by decide +kernel⟩
theorem witness_LinkPortsAndTimersRun_1 : ∃ (s : State) (p : Fin 3) (inverted : Bool),
    s.awake = true ∧
    (s.portState p.val = portTrain ∨ s.portState p.val = portDown) ∧
    s.linkClock = true ∧
    (s.port p.val).exchanged = true :=
  ⟨(full.setPortState 2 portTrain).setPort 2 { exchanged := true }, 2, true, by decide +kernel⟩
theorem witness_LinkPortsAndTimersRun_2 : ∃ (s : State) (p : Fin 3),
    s.awake = true ∧
    (s.portState p.val = portUp ∨ s.portState p.val = portSpare) :=
  ⟨linked full, 0, by decide +kernel⟩
theorem witness_LinkPortsAndTimersRun_3 : ∃ (s : State) (p : Fin 3),
    s.awake = true ∧
    (s.portState p.val = portUp ∨ s.portState p.val = portSpare) ∧
    expired (s.port p.val).resp (3 * usTicks (s.reg P.linkDlyInt 0)) s.epoch = true :=
  ⟨setEpoch (linked full) (2 ^ 50), 0, by decide +kernel⟩
theorem witness_LinkPortsAndTimersRun_4 : ∃ (s : State) (p : Fin 3),
    s.awake = true ∧
    s.portState p.val ≠ portOff ∧
    (s.portState p.val = portTrain ∨ s.portState p.val = portDown ∨ (s.port p.val).req + usTicks (s.reg P.linkDlyInt 0) ≤ s.epoch) :=
  ⟨full.setPortState 2 portTrain, 2, by decide +kernel⟩
theorem witness_LinkPortsAndTimersRun_5 : ∃ (s : State),
    s.awake = true ∧
    bit (s.reg P.linkStat 0) 1 = true :=
  ⟨full.setReg P.linkStat 0 2, by decide +kernel⟩
theorem witness_LinkPortsAndTimersRun_6 : ∃ (s : State) (p : Fin 3),
    s.awake = true :=
  ⟨linked full, 2, by decide +kernel⟩
theorem witness_LinkPortsAndTimersRun_7 : ∃ (s : State) (p : Fin 3) (why : FrameFault),
    s.awake = true ∧
    s.portState p.val ≠ portOff ∧
    s.injectFrame p.val = none :=
  ⟨linked full, 0, .crc, by decide +kernel⟩
theorem witness_LinkPortsAndTimersRun_8 : ∃ (s : State),
    s.awake = true ∧
    s.isRoot = true ∧
    s.joined = true ∧
    s.link.lastSync + usTicks (s.reg P.linkSyncInt 0) ≤ s.epoch ∧
    s.sendSync.link.enum = none :=
  ⟨rooted full, by decide +kernel⟩
theorem witness_LinkPortsAndTimersRun_9 : ∃ (s : State),
    s.awake = true ∧
    s.joined = true ∧
    s.isRoot = false ∧
    s.link.acq = none ∧
    expired s.link.lastSync (3 * usTicks (s.reg P.linkSyncInt 0)) s.epoch = true :=
  ⟨setEpoch (linked full) (2 ^ 50), by decide +kernel⟩
theorem witness_LinkPortsAndTimersRun_10 : ∃ (s : State) (p : Fin 3),
    s.awake = true :=
  ⟨linked full, 0, by decide +kernel⟩
theorem witness_LinkPortsAndTimersRun_11 : ∃ (s : State) (src : Byte) (m : Reasm),
    Smap.get (fun _ => none) s.host.linkIn src.toNat = some m ∧
    s.awake = true ∧
    expired m.stamp (msTicks 1) s.epoch = true :=
  ⟨{ setEpoch full (2 ^ 40) with host := { full.host with linkIn := [(7, some { bytes := [], next := 1, stamp := 0 })] } }, 7, { bytes := [], next := 1, stamp := 0 }, by decide +kernel⟩
theorem witness_LinkPortsAndTimersRun_12 : ∃ (s : State) (e : EnumSt),
    s.link.enum = some e ∧
    s.awake = true ∧
    e.joined = false ∧
    expired e.start (msTicks 2) s.epoch = true :=
  ⟨{ setEpoch full (2 ^ 40) with link := { full.link with enum := some { cmd := {}, start := 0 } } }, { cmd := {}, start := 0 }, by decide +kernel⟩
theorem witness_LinkPortsAndTimersRun_13 : ∃ (s : State) (d : Fin 4) (t : Nat) (l : List Nat),
    (s.drv d.val).start.gangWait = some (t, l) ∧
    s.awake = true ∧
    expired t (msTicks 1) s.epoch = true :=
  ⟨(setEpoch full (2 ^ 40)).modDrv 3 (fun x => { x with start := { x.start with gangWait := some (0, [1]) } }), 3, 0, [1], by decide +kernel⟩
theorem witness_LinkPortsAndTimersRun_14 : ∃ (s : State) (d : Fin 4) (r : Run),
    (s.drv d.val).foc.run = some r ∧
    s.pwr.mode = .full ∧
    s.role d.val = 2 ∧
    r.ready = false ∧
    expired r.boundary (s.reg P.linkWait d.val) s.epoch = true ∧
    (s.members d.val).filter (fun v => !s.reportIn v d.val) = [] :=
  ⟨(full.setReg P.sysDrvMap 0 0x21).modDrv 0 (fun x => { x with foc := { x.foc with run := some { run0 with ready := false } } }), 0, { run0 with ready := false }, by decide +kernel⟩
theorem witness_LinkPortsAndTimersRun_15 : ∃ (s : State) (d : Fin 4) (r : Run),
    let l := (s.members d.val).filter (fun v => !s.reportIn v d.val)
    (s.drv d.val).foc.run = some r ∧
    s.pwr.mode = .full ∧
    s.role d.val = 2 ∧
    r.ready = false ∧
    expired r.boundary (s.reg P.linkWait d.val) s.epoch = true ∧
    l ≠ [] :=
  ⟨((full.setReg P.sysDrvMap 0 0x21).setReg P.linkGang 0 0x8101).modDrv 0 (fun x => { x with foc := { x.foc with run := some { run0 with ready := false } } }), 0, { run0 with ready := false }, by decide +kernel⟩
theorem witness_LinkPortsAndTimersRun_16 : ∃ (s : State) (f : Frame) (e : EnumSt),
    s.awake = true ∧
    s.portState f.port.val ≠ portOff ∧
    s.injectFrame f.port.val = none ∧
    s.portTakes 0x41 f = true ∧
    (s.linkAuth = true → bit f.flags.toNat 0 = true) ∧
    s.isRoot = true ∧
    s.link.enum = some e ∧
    e.joined = false ∧
    e.replies.any (fun r => r.uid == fld f 0 8) = false :=
  ⟨withEnum (rooted full) { cmd := {}, start := 0 }, { port := 0, dst := 0xFF, src := 0, flags := 0, seq := 0, payload := zeros 44, sAgo := 0 }, { cmd := {}, start := 0 }, by decide +kernel⟩
theorem witness_LinkPortsAndTimersRun_17 : ∃ (s : State) (f : Frame) (a b up : Nat),
    s.awake = true ∧
    s.portState f.port.val ≠ portOff ∧
    s.injectFrame f.port.val = none ∧
    s.portTakes 0x41 f = true ∧
    (s.linkAuth = true → bit f.flags.toNat 0 = true) ∧
    s.isRoot = false ∧
    s.link.enumSeen = some (a, b, up) ∧
    up ≠ f.port.val :=
  ⟨seenEnum (linked full), { port := 0, dst := 0xFF, src := 0, flags := 0, seq := 0, payload := zeros 44, sAgo := 0 }, 0, 0, 1, by decide +kernel⟩
theorem witness_LinkFramesAreHandled_1 : ∃ (s : State) (f : Frame),
    s.takesFrame 0x02 f = true :=
  ⟨linked full, { port := 0, dst := 0xFF, src := 0, flags := 0, seq := 0, payload := [], sAgo := 0 }, by decide +kernel⟩
theorem witness_LinkFramesAreHandled_2 : ∃ (s : State) (f : Frame),
    s.takesFrame 0x03 f = true :=
  ⟨linked full, { port := 0, dst := 0xFF, src := 0, flags := 0, seq := 0, payload := [], sAgo := 0 }, by decide +kernel⟩
theorem witness_LinkFramesAreHandled_3 : ∃ (s : State) (f : Frame),
    s.takesFrame 0x01 f = true :=
  ⟨linked full, { port := 0, dst := 0xFF, src := 0, flags := 0, seq := 0, payload := [], sAgo := 0 }, by decide +kernel⟩
theorem witness_LinkFramesAreHandled_4 : ∃ (s : State) (f : Frame),
    s.takesFrame 0x04 f = true :=
  ⟨linked full, { port := 0, dst := 0xFF, src := 0, flags := 0, seq := 0, payload := [], sAgo := 0 }, by decide +kernel⟩
theorem witness_LinkFramesAreHandled_5 : ∃ (s : State) (f : Frame),
    s.takesFrame 0x32 f = true :=
  ⟨linked full, { port := 0, dst := 0xFF, src := 0, flags := 0, seq := 0, payload := [], sAgo := 0 }, by decide +kernel⟩
theorem witness_LinkFramesAreHandled_6 : ∃ (s : State) (f : Frame),
    s.takesFrame 0x30 f = true :=
  ⟨linked full, { port := 0, dst := 0xFF, src := 0, flags := 0, seq := 0, payload := [], sAgo := 0 }, by decide +kernel⟩
theorem witness_LinkFramesAreHandled_7 : ∃ (s : State) (f : Frame),
    s.takesFrame 0x20 f = true :=
  ⟨linked full, { port := 0, dst := 0xFF, src := 0, flags := 0, seq := 0, payload := [], sAgo := 0 }, by decide +kernel⟩
theorem witness_LinkFramesAreHandled_8 : ∃ (s : State) (f : Frame),
    s.takesFrame 0x40 f = true :=
  ⟨linked full, { port := 0, dst := 0xFF, src := 0, flags := 0, seq := 0, payload := [], sAgo := 0 }, by decide +kernel⟩
theorem witness_LinkFramesAreHandled_9 : ∃ (s : State) (f : Frame),
    s.takesFrame 0x42 f = true :=
  ⟨linked full, { port := 0, dst := 0xFF, src := 0, flags := 0, seq := 0, payload := [], sAgo := 0 }, by decide +kernel⟩
theorem witness_LinkFramesAreHandled_10 : ∃ (s : State) (f : Frame),
    s.takesFrame 0x43 f = true :=
  ⟨linked full, { port := 0, dst := 0xFF, src := 0, flags := 0, seq := 0, payload := [], sAgo := 0 }, by decide +kernel⟩
theorem witness_LinkFramesAreHandled_11 : ∃ (s : State) (f : Frame),
    s.takesFrame 0x44 f = true :=
  ⟨linked full, { port := 0, dst := 0xFF, src := 0, flags := 0, seq := 0, payload := [], sAgo := 0 }, by decide +kernel⟩
theorem witness_LinkFramesAreHandled_12 : ∃ (s : State) (f : Frame),
    s.takesFrame 0x10 f = true :=
  ⟨linked full, { port := 0, dst := 0xFF, src := 0, flags := 0, seq := 0, payload := [], sAgo := 0 }, by decide +kernel⟩
theorem witness_LinkFramesAreHandled_13 : ∃ (s : State) (f : Frame),
    s.takesFrame 0x11 f = true :=
  ⟨linked full, { port := 0, dst := 0xFF, src := 0, flags := 0, seq := 0, payload := [], sAgo := 0 }, by decide +kernel⟩
theorem witness_LinkFramesAreHandled_14 : ∃ (s : State) (f : Frame),
    s.takesFrame 0x31 f = true :=
  ⟨linked full, { port := 0, dst := 0xFF, src := 0, flags := 0, seq := 0, payload := [], sAgo := 0 }, by decide +kernel⟩
theorem witness_StepRunsTheFrontCommand_1 : ∃ (s : State) (c : Instr) (rest : List Instr), s.pending = c :: rest ∧ rest ≠ [] :=
  ⟨{ full with pending := [.nirqHoldoffExpiry, .secLock] }, .nirqHoldoffExpiry, [.secLock], by decide +kernel⟩
theorem witness_StepOnAnEmptyQueueIsATick_1 : ∃ s : State, s.pending = [] :=
  ⟨full, rfl⟩
theorem witness_StepOnAnEmptyQueueIsATick_2 : ∃ s : State, s.pending = [] ∧ (s.pwr.mode = .boot ∨ s.pwr.mode = .reset) :=
  ⟨{ full with pwr := { full.pwr with mode := .boot } }, by decide +kernel⟩
theorem witness_StepOnAnEmptyQueueIsATick_3 : ∃ s : State, s.pending = [] ∧ s.pwr.mode = .unpowered :=
  ⟨{ full with pwr := { full.pwr with mode := .unpowered } }, by decide +kernel⟩
theorem witness_SixtyFourBitValuesReadWhole_1 : ∃ (s : State) (i : Iface) (id : Half) (inst : Byte) (row : ParamRow), s.serving = true ∧ directRow id.toNat inst.toNat = some row ∧ paramSize row = 8 ∧ (s.snap (ifaceNo i)).addr ≠ some (snapAddr row.id inst.toNat) :=
  ⟨full, .spi, BitVec.ofNat 16 P.timeEpoch, 0, (directRow P.timeEpoch 0).getD default0, by decide +kernel⟩
theorem witness_SixtyFourBitValuesReadWhole_2 : ∃ (s : State) (i : Iface) (id : Half) (inst : Byte) (row : ParamRow), s.serving = true ∧ directRow id.toNat inst.toNat = some row ∧ paramSize row = 8 ∧ (s.snap (ifaceNo i)).addr = some (snapAddr row.id inst.toNat) ∧ (s.snap (ifaceNo i)).fresh = true :=
  ⟨full.setSnap 0 { addr := some (snapAddr P.timeEpoch 0), hi := 2, fresh := true }, .spi, BitVec.ofNat 16 P.timeEpoch, 0, (directRow P.timeEpoch 0).getD default0, by decide +kernel⟩
theorem witness_SixtyFourBitValuesReadWhole_3 : ∃ (s : State) (i : Iface) (id : Half) (inst : Byte) (row : ParamRow), s.serving = true ∧ directRow id.toNat inst.toNat = some row ∧ paramSize row = 8 ∧ (s.snap (ifaceNo i)).addr = some (snapAddr row.id inst.toNat) ∧ (s.snap (ifaceNo i)).fresh = false :=
  ⟨full.setSnap 0 { addr := some (snapAddr P.timeEpoch 0), hi := 2, fresh := false }, .spi, BitVec.ofNat 16 P.timeEpoch, 0, (directRow P.timeEpoch 0).getD default0, by decide +kernel⟩
theorem witness_SixtyFourBitValuesAreWrittenWhole_1 : ∃ (s : State) (i : Iface) (id : Half) (inst : Byte) (row : ParamRow), directRow id.toNat inst.toNat = some row ∧ s.wordWritable row inst.toNat = true ∧ (s.snap (ifaceNo i)).heldAddr ≠ some (snapAddr id.toNat inst.toNat) :=
  ⟨full, .spi, BitVec.ofNat 16 P.hostIrqEn, 0, (directRow P.hostIrqEn 0).getD default0, by decide +kernel⟩
theorem witness_SixtyFourBitValuesAreWrittenWhole_2 : ∃ (s : State) (i : Iface) (id : Half) (inst : Byte) (row : ParamRow), directRow id.toNat inst.toNat = some row ∧ s.wordWritable row inst.toNat = true ∧ (s.snap (ifaceNo i)).heldAddr = some (snapAddr id.toNat inst.toNat) :=
  ⟨full.setSnap 0 { heldAddr := some (snapAddr P.hostIrqEn 0), heldLow := 3 }, .spi, BitVec.ofNat 16 P.hostIrqEn, 0, (directRow P.hostIrqEn 0).getD default0, by decide +kernel⟩
theorem witness_RetryIsNotExecutedAgain_1 : ∃ (s : State) (op : Nat) (h : Hdr) (pl : List Byte) (i : Instr) (o tag inst low : Nat) (rp : List Byte), mailboxInstr op h pl = some i ∧ (ringIface h.ring.val).isSome = true ∧ s.serving = true ∧ (s.recovery && h.ring.val != 0) = false ∧ s.hasRoom (h.ring.val + 1) 1004 = true ∧ (s.hear (cmdOf h op s.epoch)).asksAgain (cmdOf h op s.epoch) = true ∧ ((s.hear (cmdOf h op s.epoch)).ring h.ring.val).executing = false ∧ ((s.hear (cmdOf h op s.epoch)).ring h.ring.val).resp = some (o, tag, inst, low, rp) :=
  ⟨mail.setRing 0 { mail.ring 0 with execSeq := some 0, resp := some (0x0100, 1, 0, 0, []) }, 0x0100, { hdr with flags := 2 }, [], .ping { hdr with flags := 2 } [], 0x0100, 1, 0, 0, [], by decide +kernel⟩
theorem witness_RetryIsNotExecutedAgain_2 : ∃ (s : State) (op : Nat) (h : Hdr) (pl : List Byte) (i : Instr), mailboxInstr op h pl = some i ∧ (ringIface h.ring.val).isSome = true ∧ s.serving = true ∧ (s.recovery && h.ring.val != 0) = false ∧ s.hasRoom (h.ring.val + 1) 1004 = true ∧ (s.hear (cmdOf h op s.epoch)).asksAgain (cmdOf h op s.epoch) = true ∧ ((s.hear (cmdOf h op s.epoch)).ring h.ring.val).executing = true :=
  ⟨mail.setRing 0 { mail.ring 0 with execSeq := some 0, executing := true }, 0x0100, { hdr with flags := 2 }, [], .ping { hdr with flags := 2 } [], by decide +kernel⟩
theorem witness_LateCommandsAreRefused_1 : ∃ (s : State) (op : Nat) (h : Hdr) (pl : List Byte) (i : Instr), mailboxInstr op h pl = some i ∧ (ringIface h.ring.val).isSome = true ∧ s.serving = true ∧ (s.recovery && h.ring.val != 0) = false ∧ s.hasRoom (h.ring.val + 1) 1004 = true ∧ (s.hear (cmdOf h op s.epoch)).asksAgain (cmdOf h op s.epoch) = false ∧ tooLate (cmdOf h op s.epoch) h.deadline.toNat = true :=
  ⟨setEpoch mail 1000, 0x0100, { hdr with flags := 1, deadline := 10 }, [], .ping { hdr with flags := 1, deadline := 10 } [], by decide +kernel⟩
theorem witness_MailboxRunsTheSpelledCommand_1 : ∃ (s : State) (op : Nat) (h : Hdr) (pl : List Byte) (i : Instr), mailboxInstr op h pl = some i ∧ s.takesFrom h.ring.val = true ∧ s.inTurn h.ring.val = true ∧ s.hasRoom (h.ring.val + 1) 1004 = true ∧ pl.length ≤ 1004 ∧ s.entriesFor h.ring.val pl.length ≤ s.ringFilled h.ring.val ∧ (s.readEntries h.ring.val (s.ringTail h.ring.val) (s.entriesFor h.ring.val pl.length)).take (20 + pl.length) = messageBytes op h.tag.toNat h.inst.toNat h.flags.toNat h.deadline.toNat h.seq.toNat pl :=
  ⟨({ mail with pool := Memory.writeBytes [] 0 (messageBytes 0x0101 1 0 0 0 0 (item P.sysId 0)) }).setReg P.hostRingIdx 0 2, 0x0101, hdr, item P.sysId 0, .paramRead hdr (item P.sysId 0), by decide +kernel⟩
theorem witness_DoorbellOutOfStepIsIgnored_1 : ∃ (s : State) (r : Fin 64) (v : Half), s.awake = true ∧ (31 < r.val) :=
  ⟨full, 32, 0, by decide +kernel⟩
theorem witness_DoorbellOutOfStepIsIgnored_2 : ∃ (s : State) (r : Fin 64) (v : Half), s.awake = true ∧ (s.ringOn r.val = false) :=
  ⟨full, 2, 0, by decide +kernel⟩
theorem witness_DoorbellOutOfStepIsIgnored_3 : ∃ (s : State) (r : Fin 64) (v : Half), s.awake = true ∧ (cfgDir (s.ringCfg r.val) = true ∧ s.ringFilled r.val < (v.toNat + 2 ^ 16 - s.ringTail r.val) % 2 ^ 16) :=
  ⟨mail, 1, 1, by decide +kernel⟩
theorem witness_DoorbellOutOfStepIsIgnored_4 : ∃ (s : State) (r : Fin 64) (v : Half), s.awake = true ∧ (cfgDir (s.ringCfg r.val) = false ∧ s.ringFree r.val < (v.toNat + 2 ^ 16 - s.ringHead r.val) % 2 ^ 16) :=
  ⟨mail, 0, 257, by decide +kernel⟩
theorem witness_DoorbellInStepMovesItsIndex_1 : ∃ (s : State) (r : Fin 64) (v : Half), s.awake = true ∧ r.val ≤ 31 ∧ s.ringOn r.val = true ∧ s.ringFilled r.val ≤ s.ringEntries r.val ∧ (cfgDir (s.ringCfg r.val) = true ∧ (v.toNat + 2 ^ 16 - s.ringTail r.val) % 2 ^ 16 ≤ s.ringFilled r.val) :=
  ⟨mail.setReg P.hostRingIdx 1 256, 1, 256, by decide +kernel⟩
theorem witness_DoorbellInStepMovesItsIndex_2 : ∃ (s : State) (r : Fin 64) (v : Half), s.awake = true ∧ r.val ≤ 31 ∧ s.ringOn r.val = true ∧ s.ringFilled r.val ≤ s.ringEntries r.val ∧ (cfgDir (s.ringCfg r.val) = false ∧ (v.toNat + 2 ^ 16 - s.ringHead r.val) % 2 ^ 16 ≤ s.ringFree r.val) :=
  ⟨mail, 0, 256, by decide +kernel⟩
theorem witness_CommandsOfARoundsEndWait_1 : ∃ (s : State) (op : Nat) (h : Hdr) (pl : List Byte) (i : Instr), mailboxInstr op h pl = some i ∧ s.admits h op = true ∧ (s.bodyState h op).waitsForRound (cmdOf h op s.epoch) = true :=
  ⟨{ setEpoch mail 1000000 with hk := { mail.hk with conv := some (0, 0, none), round := true, pos := 32 } }, 0x1901, hdr, [0xFF, 0xFF], .fltClear hdr [0xFF, 0xFF], by decide +kernel⟩
theorem witness_CommandsOfARoundsEndWait_2 : ∃ (s : State) (c : Cmd) (pl : List Byte) (takes deferred : Bool), s.host.atEnd = [(c, pl)] ∧ opcodeInfo c.opcode = some (takes, deferred) :=
  ⟨{ mail with host := { mail.host with atEnd := [({ opcode := 0x1901 }, [0xFF, 0xFF])] } }, { opcode := 0x1901 }, [0xFF, 0xFF], false, false, by decide +kernel⟩
theorem witness_DuplicateFramesAreDiscarded_1 : ∃ (s : State) (t : Nat) (f : Frame) (i : Instr), class3Instr t f = some i ∧ s.duplicate t f = true :=
  ⟨let f : Frame := { port := 0, dst := 1, src := 2, flags := 14, seq := 5, payload := [], sAgo := 0 }; (linked full).markSeq 0x31 f, 0x31, { port := 0, dst := 1, src := 2, flags := 14, seq := 5, payload := [], sAgo := 0 }, .trouble { port := 0, dst := 1, src := 2, flags := 14, seq := 5, payload := [], sAgo := 0 }, by decide +kernel⟩
theorem witness_KeysAreWrittenOnce_1 : ∃ (s : State) (e : Byte) (v : DWord), s.serving = true ∧ s.inField = false ∧ 16 ≤ e.toNat ∧ e.toNat < 34 ∧ Smap.get (fun _ => none) s.keys e.toNat = none :=
  ⟨{ full with r := full.r.set P.secStat 0 0 }, 33, 7, by decide +kernel⟩
theorem witness_KeysAreWrittenOnce_2 : ∃ (s : State) (e : Byte) (v : DWord), s.inField = true :=
  ⟨full.setReg P.secStat 0 1, 16, 7, by decide +kernel⟩
theorem witness_KeysAreWrittenOnce_3 : ∃ (s : State) (e : Byte) (v : DWord), e.toNat < 16 :=
  ⟨full, 15, 7, by decide +kernel⟩
theorem witness_KeysAreWrittenOnce_4 : ∃ (s : State) (e : Byte) (v : DWord), 34 ≤ e.toNat :=
  ⟨full, 34, 7, by decide +kernel⟩
theorem witness_KeysAreWrittenOnce_5 : ∃ (s : State) (e : Byte) (v : DWord), (Smap.get (fun _ => none) s.keys e.toNat).isSome = true :=
  ⟨keyed full 1, 16, 7, by decide +kernel⟩
theorem witness_KeysAreWrittenOnce_6 : ∃ s : State, s.serving = true ∧ s.inField = false ∧ s.slotFull 2 = true ∧ s.slotFull 3 = true :=
  ⟨{ keyed full 16 with r := full.r.set P.secStat 0 0 }, by decide +kernel⟩
theorem witness_KeysAreWrittenOnce_7 : ∃ s : State, s.inField = true :=
  ⟨full.setReg P.secStat 0 1, by decide +kernel⟩
theorem witness_KeysAreWrittenOnce_8 : ∃ s : State, s.slotFull 2 = false :=
  ⟨full, by decide +kernel⟩
theorem witness_KeysAreWrittenOnce_9 : ∃ s : State, s.slotFull 3 = false :=
  ⟨keyed full 15, by decide +kernel⟩
theorem witness_CanFramesOfOthersAreIgnored_1 : ∃ (s : State) (fr : CanFrame), bit fr.ident.toNat 25 = true ∧ s.reg P.hostCanEn 0 = 1 :=
  ⟨canOn full, { ident := 0x2000000, fd := true, remote := false, data := [0xC0] }, by decide +kernel⟩
theorem witness_CanFramesOfOthersAreIgnored_2 : ∃ (s : State) (fr : CanFrame), bits fr.ident.toNat 17 8 ≠ s.reg P.hostCanNode 0 ∧ s.reg P.hostCanEn 0 = 1 :=
  ⟨canOn full, { ident := 0x1FE0000, fd := true, remote := false, data := [0xC0] }, by decide +kernel⟩
theorem witness_CanFramesOfOthersAreIgnored_3 : ∃ (s : State) (fr : CanFrame), bit fr.ident.toNat 16 = true ∧ s.reg P.hostCanEn 0 = 1 :=
  ⟨canOn full, { ident := 0x10000, fd := true, remote := false, data := [0xC0] }, by decide +kernel⟩
theorem witness_CanFramesOfOthersAreIgnored_4 : ∃ (s : State) (fr : CanFrame), bits fr.ident.toNat 0 16 ≠ 0 ∧ s.reg P.hostCanEn 0 = 1 :=
  ⟨canOn full, { ident := 0x8000, fd := true, remote := false, data := [0xC0] }, by decide +kernel⟩
theorem witness_CanFramesOfOthersAreIgnored_5 : ∃ (s : State) (fr : CanFrame), fr.fd = false ∧ s.reg P.hostCanEn 0 = 1 :=
  ⟨canOn full, { ident := 0, fd := false, remote := false, data := [0xC0] }, by decide +kernel⟩
theorem witness_CanFramesOfOthersAreIgnored_6 : ∃ (s : State) (fr : CanFrame), fr.remote = true ∧ s.reg P.hostCanEn 0 = 1 :=
  ⟨canOn full, { ident := 0, fd := true, remote := true, data := [0xC0] }, by decide +kernel⟩
theorem witness_HealthFollowsTheFaults_1 : ∃ (s : State) (sel : Nat), (s.frec sel).cause = true ∧ selClass sel = .a :=
  ⟨full.setRec (selector K.xcmdDie 0) { cause := true }, selector K.xcmdDie 0, by decide +kernel⟩
theorem witness_HealthFollowsTheFaults_2 : ∃ (s : State) (sel : Nat), (s.frec sel).cause = true ∧ bit (s.reg P.fltHealthMask 0) (selClass sel).code = true :=
  ⟨(full.setRec (selector K.xtalFail 0) { cause := true }).setReg P.fltHealthMask 0 7, selector K.xtalFail 0, by decide +kernel⟩
theorem witness_HealthFollowsTheFaults_3 : ∃ (s : State) (sel : Nat), (s.frec sel).cause = true ∧ bit (s.reg P.fltReact (sel / 256)) 5 = true :=
  ⟨(full.setRec (selector K.xtalFail 0) { cause := true }).setReg P.fltReact 1 32, selector K.xtalFail 0, by decide +kernel⟩
theorem witness_HealthFollowsTheFaults_4 : ∃ s : State, s.awake = false :=
  ⟨{ full with pwr := { full.pwr with mode := .boot } }, by decide +kernel⟩
theorem witness_HealthFollowsTheFaults_5 : ∃ s : State, s.awake = true ∧ s.recovery = false ∧ (∀ p ∈ s.flt.recs, p.2.cause = false) :=
  ⟨{ full with r := full.r.set P.secStat 0 0 }, by decide +kernel⟩
theorem witness_FlagsSetOnTheTickOfAClearStay_1 : ∃ (s : State) (i : Iface) (v : DWord), s.serving = true ∧ s.reg P.hostIrqPend 0 = 3 :=
  ⟨full.setReg P.hostIrqPend 0 3, .spi, 1, by decide +kernel⟩
theorem witness_RefusedSpiWritesChangeNothing_1 : ∃ (s : State) (sdi : List Byte), s.spiUp = true ∧ fieldAt sdi 0 1 = 0x02 ∧ 4 ≤ sdi.length ∧ 4 * fieldAt sdi 3 1 + 12 ≤ sdi.length ∧ (sdi.drop (4 * fieldAt sdi 3 1 + 8)).take 2 ≠ spiCrc (sdi.take (4 * fieldAt sdi 3 1 + 8)) :=
  ⟨full, (let b : List Byte := [0x02, 128, 0, 0] ++ [1, 2, 3, 4]; b ++ [1, 2] ++ zeros 2), by decide +kernel⟩
theorem witness_RefusedSpiWritesChangeNothing_2 : ∃ (s : State) (sdi : List Byte), s.spiUp = true ∧ fieldAt sdi 0 1 = 0x02 ∧ 4 ≤ sdi.length ∧ 4 * fieldAt sdi 3 1 + 12 ≤ sdi.length ∧ (sdi.drop (4 * fieldAt sdi 3 1 + 8)).take 2 = spiCrc (sdi.take (4 * fieldAt sdi 3 1 + 8)) ∧ spiAddrOk (fieldAt sdi 1 1 * 256 + fieldAt sdi 2 1) (fieldAt sdi 3 1 + 1) = false :=
  ⟨full, (let b : List Byte := [0x02, 255, 252, 1] ++ [1, 2, 3, 4, 5, 6, 7, 8]; b ++ spiCrc b ++ zeros 2), by decide +kernel⟩
theorem witness_RefusedSpiWritesChangeNothing_3 : ∃ (s : State) (sdi : List Byte), s.spiUp = true ∧ fieldAt sdi 0 1 = 0x02 ∧ 4 ≤ sdi.length ∧ sdi.length < 4 * fieldAt sdi 3 1 + 12 :=
  ⟨full, [0x02, 0x80, 0, 0, 1, 2, 3, 4, 0, 0, 0], by decide +kernel⟩
theorem witness_SpiWritesReachTheAperture_1 : ∃ (s : State) (sdi : List Byte), s.spiUp = true ∧ fieldAt sdi 0 1 = 0x02 ∧ 4 * fieldAt sdi 3 1 + 12 ≤ sdi.length ∧ (sdi.drop (4 * fieldAt sdi 3 1 + 8)).take 2 = spiCrc (sdi.take (4 * fieldAt sdi 3 1 + 8)) ∧ spiAddrOk (fieldAt sdi 1 1 * 256 + fieldAt sdi 2 1) (fieldAt sdi 3 1 + 1) = true ∧ 0x8000 ≤ fieldAt sdi 1 1 * 256 + fieldAt sdi 2 1 :=
  ⟨full, (let b : List Byte := [0x02, 255, 252, 0] ++ [1, 2, 3, 4]; b ++ spiCrc b ++ zeros 2), by decide +kernel⟩
theorem witness_FailedCommitAppliesNothing_1 : ∃ (s : State) (h : Hdr) (pl : List Byte) (v : Viol), s.serves h 0x0502 = true ∧ pl.length = 1 ∧ ((s.bodyState h 0x0502).txnOf (cmdOf h 0x0502 s.epoch).iface).isOpen = true ∧ (bit (fieldAt pl 0 1) 0 = false) ∧ (s.bodyState h 0x0502).validate ((s.bodyState h 0x0502).txnOf (cmdOf h 0x0502 s.epoch).iface).pairs = some v ∧ v.inst < 256 :=
  ⟨mail.setTxn 0 { isOpen := true, pairs := [.write P.sysDrvMap 0 0 0x10] }, hdr, [0], (mail.validate [.write P.sysDrvMap 0 0 0x10]).getD ⟨0, 0, 0, 0, 0, 0⟩, by decide +kernel⟩
theorem witness_FwChunksWriteTheirBytes_1 : ∃ (s : State) (h : Hdr) (pl : List Byte) (f : FwUpdate), s.serves h 0x1C02 = true ∧ h.inst.toNat ≤ 3 ∧ 5 ≤ pl.length ∧ pl.length ≤ 996 ∧ (s.bodyState h 0x1C02).sec.fw = some f ∧ f.iface = (cmdOf h 0x1C02 s.epoch).iface ∧ f.target = h.inst.toNat ∧ f.finish = none ∧ fieldAt pl 0 4 = f.got ∧ f.got + (pl.length - 4) ≤ f.total :=
  ⟨{ mail with sec := { mail.sec with fw := some { iface := 0, target := 1, total := 200, got := 199, last := 0 } } }, { hdr with inst := 1 }, [199, 0, 0, 0, 7], { iface := 0, target := 1, total := 200, got := 199, last := 0 }, by decide +kernel⟩
theorem witness_FwChunksWriteTheirBytes_2 : ∃ (s : State) (h : Hdr) (pl : List Byte) (f : FwUpdate), s.serves h 0x1C02 = true ∧ h.inst.toNat ≤ 3 ∧ 5 ≤ pl.length ∧ pl.length ≤ 996 ∧ (s.bodyState h 0x1C02).sec.fw = some f ∧ f.iface = (cmdOf h 0x1C02 s.epoch).iface ∧ f.target = h.inst.toNat ∧ f.finish = none ∧ fieldAt pl 0 4 ≠ f.got :=
  ⟨{ mail with sec := { mail.sec with fw := some { iface := 0, target := 1, total := 200, got := 199, last := 0 } } }, { hdr with inst := 1 }, [198, 0, 0, 0, 7], { iface := 0, target := 1, total := 200, got := 199, last := 0 }, by decide +kernel⟩
theorem witness_FwChunksWriteTheirBytes_3 : ∃ (s : State) (h : Hdr) (pl : List Byte) (f : FwUpdate), s.serves h 0x1C02 = true ∧ h.inst.toNat ≤ 3 ∧ 5 ≤ pl.length ∧ pl.length ≤ 996 ∧ (s.bodyState h 0x1C02).sec.fw = some f ∧ f.iface = (cmdOf h 0x1C02 s.epoch).iface ∧ f.target = h.inst.toNat ∧ f.finish = none ∧ f.total < f.got + (pl.length - 4) :=
  ⟨{ mail with sec := { mail.sec with fw := some { iface := 0, target := 1, total := 200, got := 199, last := 0 } } }, { hdr with inst := 1 }, [199, 0, 0, 0, 7, 8], { iface := 0, target := 1, total := 200, got := 199, last := 0 }, by decide +kernel⟩
theorem witness_SwapsExchangeTheBanks_1 : ∃ (s : State) (h : Hdr) (pl : List Byte), s.serves h 0x1501 = true ∧ h.inst.toNat ≤ 3 ∧ pl.length = 1 ∧ ((s.bodyState h 0x1501).txnOf (cmdOf h 0x1501 s.epoch).iface).isOpen = false ∧ (s.bodyState h 0x1501).computes h.inst.toNat = true ∧ (s.bodyState h 0x1501).swapPending h.inst.toNat = false ∧ (s.bodyState h 0x1501).takesLater h.inst.toNat = false ∧ bit (fieldAt pl 0 1) 0 = true :=
  ⟨drive0 mail, hdr, [1], by decide +kernel⟩
theorem witness_StoTurnsEveryGateOff_1 : ∃ (s : State) (j : Fin 2) (stob : Bool), s.awake = true ∧ (if stob then (s.die j.val).lowB else (s.die j.val).lowA) = false ∧ (s.gen 7).gh = true ∧ bit (s.gen 7).fAsc 12 = true ∧ (s.gen 7).frozen = true ∧ (∀ k : Fin 12, bit (s.reg P.pwmIlMap k.val) k.val = true) :=
  ⟨full.setGen 7 { gh := true, fAsc := 4096, frozen := true }, 1, true, by decide +kernel⟩
theorem witness_DriveGatesKeepTheirLegs_1 : ∃ s : State, ∀ k, (s.gen k).legSafe :=
  ⟨full, fun k => by show ¬ _; rintro ⟨h, _⟩; cases h⟩
theorem witness_CommandFrames_1 : ∃ (pl : List Byte), bit (fieldAt pl 1 1) 0 = false :=
  ⟨[0, 0, 3, 0], by decide +kernel⟩
theorem witness_CommandFrames_2 : ∃ (s : State) (h : Hdr) (k : Nat), k ≠ (cmdOf h 0x0501 s.epoch).iface ∧ k ≠ (cmdOf h 0x0503 s.epoch).iface :=
  ⟨full, hdr, 1, by decide +kernel⟩
theorem witness_CommandFrames_3 : ∃ (h : Hdr) (d : Nat), d ≠ h.inst.toNat :=
  ⟨hdr, 3, by decide +kernel⟩
theorem witness_CommandFrames_4 : ∃ (id i : Nat), i < 256 ∧ id ∉ hostOwn ∧ id ≠ P.hostLateCnt ∧ id ≠ P.hostRespStall :=
  ⟨P.timeEra, 0, by decide +kernel⟩
theorem witness_TripClearAsksItsInput_1 : ∃ (s : State) (h : Hdr),
    let c := cmdOf h 0x1001 s.epoch
    let u := s.bodyState h 0x1001
    s.serves h 0x1001 = true ∧
    c.inst ≤ 7 ∧
    u.tripLevel c.inst = true :=
  ⟨mail.setReg P.pwmTripStat 0 0x100, hdr, by decide +kernel⟩
theorem witness_TripClearAsksItsInput_2 : ∃ (s : State) (h : Hdr),
    let c := cmdOf h 0x1001 s.epoch
    let u := s.bodyState h 0x1001
    s.serves h 0x1001 = true ∧
    c.inst ≤ 7 ∧
    u.tripLevel c.inst = false ∧
    bit (u.reg P.pwmTripStat 0) c.inst = false :=
  ⟨mail, hdr, by decide +kernel⟩
theorem witness_TripClearAsksItsInput_3 : ∃ (s : State) (h : Hdr) (pl : List Byte),
    let c := cmdOf h 0x1001 s.epoch
    let u := s.bodyState h 0x1001
    s.serves h 0x1001 = true ∧
    7 < c.inst :=
  ⟨mail, { hdr with inst := 8 }, [], by decide +kernel⟩
theorem witness_TripClearAsksItsInput_4 : ∃ (s : State) (h : Hdr) (pl : List Byte),
    let c := cmdOf h 0x1001 s.epoch
    let u := s.bodyState h 0x1001
    s.serves h 0x1001 = true ∧
    c.inst ≤ 7 ∧
    pl.length ≠ 0 :=
  ⟨mail, { hdr with inst := 7 }, [0], by decide +kernel⟩
theorem witness_UrgentConversionsWaitForNobody_1 : ∃ (s : State) (h : Hdr),
    let c := cmdOf h 0x1101 s.epoch
    let u := s.bodyState h 0x1101
    s.serves h 0x1101 = true ∧
    c.inst ≤ 31 ∧
    ((u.hk.conv.isSome = true ∨ u.hk.round = true ∨ u.hk.due ≤ u.epoch + u.hkTicks)) :=
  ⟨{ mail with hk := { mail.hk with due := 0 } }, { hdr with inst := 31 }, by decide +kernel⟩
theorem witness_UrgentConversionsWaitForNobody_2 : ∃ (s : State) (h : Hdr) (pl : List Byte),
    let c := cmdOf h 0x1101 s.epoch
    let u := s.bodyState h 0x1101
    s.serves h 0x1101 = true ∧
    31 < c.inst :=
  ⟨mail, { hdr with inst := 32 }, [], by decide +kernel⟩
theorem witness_StartsAreRefused_1 : ∃ (s : State) (h : Hdr) (pl : List Byte),
    let c := cmdOf h 0x1401 s.epoch
    let u := s.bodyState h 0x1401
    s.serves h 0x1401 = true ∧
    c.inst ≤ 3 ∧
    pl.length = 1 ∧
    ((u.pwr.mode ≠ .full ∨ u.computes c.inst = false ∨ u.reg P.pwmTestEn c.inst = 1 ∨ ¬ ((u.drv c.inst).phase = .stopped ∨ (u.drv c.inst).phase = .mwHold) ∨ u.hasReaction c.inst = true ∨ u.anyForced c.inst = true)) :=
  ⟨mail, hdr, [0], by decide +kernel⟩
theorem witness_StartsAreRefused_2 : ∃ (s : State) (h : Hdr) (pl : List Byte),
    let c := cmdOf h 0x1401 s.epoch
    let u := s.bodyState h 0x1401
    s.serves h 0x1401 = true ∧
    c.inst ≤ 3 ∧
    pl.length = 1 ∧
    (¬ (u.pwr.mode ≠ .full ∨ u.computes c.inst = false ∨ u.reg P.pwmTestEn c.inst = 1 ∨ ¬ ((u.drv c.inst).phase = .stopped ∨ (u.drv c.inst).phase = .mwHold) ∨ u.hasReaction c.inst = true ∨ u.anyForced c.inst = true)) ∧
    u.anyUvlo = true :=
  ⟨(drive0 mail |> fun s => { s with pwr := { s.pwr with mode := .full } }), hdr, [0], by decide +kernel⟩
theorem witness_StartsAreRefused_3 : ∃ (s : State) (h : Hdr) (pl : List Byte),
    let c := cmdOf h 0x1401 s.epoch
    let u := s.bodyState h 0x1401
    s.serves h 0x1401 = true ∧
    3 < c.inst :=
  ⟨mail, { hdr with inst := 4 }, [0], by decide +kernel⟩
theorem witness_StartsAreRefused_4 : ∃ (s : State) (h : Hdr) (pl : List Byte),
    let c := cmdOf h 0x1401 s.epoch
    let u := s.bodyState h 0x1401
    s.serves h 0x1401 = true ∧
    c.inst ≤ 3 ∧
    pl.length ≠ 1 :=
  ⟨mail, hdr, [], by decide +kernel⟩
theorem witness_OneTransactionPerInterface_1 : ∃ (s : State) (h : Hdr),
    let c := cmdOf h 0x0501 s.epoch
    let u := s.bodyState h 0x0501
    s.serves h 0x0501 = true ∧
    (u.txnOf c.iface).isOpen = true :=
  ⟨mail.setTxn 0 { isOpen := true }, hdr, by decide +kernel⟩
theorem witness_OneTransactionPerInterface_2 : ∃ (s : State) (h : Hdr) (pl : List Byte),
    let c := cmdOf h 0x0502 s.epoch
    let u := s.bodyState h 0x0502
    s.serves h 0x0502 = true ∧
    pl.length = 1 ∧
    (u.txnOf c.iface).isOpen = false :=
  ⟨mail, hdr, [0], by decide +kernel⟩
theorem witness_OneTransactionPerInterface_3 : ∃ (s : State) (h : Hdr),
    let c := cmdOf h 0x0503 s.epoch
    let u := s.bodyState h 0x0503
    s.serves h 0x0503 = true ∧
    (u.txnOf c.iface).isOpen = false :=
  ⟨mail, hdr, by decide +kernel⟩
theorem witness_ScansAreRefused_1 : ∃ (s : State) (h : Hdr) (pl : List Byte),
    let c := cmdOf h 0x1A01 s.epoch
    let u := s.bodyState h 0x1A01
    s.serves h 0x1A01 = true ∧
    2 < c.inst :=
  ⟨mail, { hdr with inst := 3 }, [], by decide +kernel⟩
theorem witness_ScansAreRefused_2 : ∃ (s : State) (h : Hdr) (pl : List Byte),
    let c := cmdOf h 0x1A01 s.epoch
    let u := s.bodyState h 0x1A01
    s.serves h 0x1A01 = true ∧
    c.inst ≤ 2 ∧
    pl.length = 16 ∧
    ((u.chkState c.inst = 1 ∨ u.chkState c.inst = 2)) :=
  ⟨mail.setReg P.chkStat 0 2, hdr, zeros 16, by decide +kernel⟩
theorem witness_ScansAreRefused_3 : ∃ (s : State) (h : Hdr) (pl : List Byte),
    let c := cmdOf h 0x1A01 s.epoch
    let u := s.bodyState h 0x1A01
    s.serves h 0x1A01 = true ∧
    c.inst ≤ 2 ∧
    pl.length = 16 ∧
    (¬ (u.chkState c.inst = 1 ∨ u.chkState c.inst = 2)) ∧
    ((4 < fieldAt pl 0 1 ∨ fieldAt pl 8 4 = 0 ∨ 0x400000 < fieldAt pl 8 4 ∨ inOneMemory (fieldAt pl 4 4) (fieldAt pl 8 4) = false)) :=
  ⟨mail, hdr, zeros 16, by decide +kernel⟩
theorem witness_JournalReadsAreRefused_1 : ∃ (s : State) (h : Hdr) (pl : List Byte),
    let c := cmdOf h 0x1903 s.epoch
    let u := s.bodyState h 0x1903
    s.serves h 0x1903 = true ∧
    pl.length = 4 ∧
    ((1 < fieldAt pl 0 1 ∨ fieldAt pl 2 1 = 0 ∨ (if fieldAt pl 0 1 = 0 then 31 else 27) < fieldAt pl 2 1 ∨ 63 < fieldAt pl 3 1 ∨ (fieldAt pl 0 1 = 0 ∧ fieldAt pl 3 1 ≠ 0) ∨ (fieldAt pl 0 1 = 1 ∧ bit (fieldAt pl 1 1) 0 = true))) :=
  ⟨mail, hdr, [1, 1, 27, 0], by decide +kernel⟩
theorem witness_JournalReadsAreRefused_2 : ∃ (s : State) (h : Hdr) (pl : List Byte),
    let c := cmdOf h 0x1903 s.epoch
    let u := s.bodyState h 0x1903
    s.serves h 0x1903 = true ∧
    pl.length = 4 ∧
    (¬ (1 < fieldAt pl 0 1 ∨ fieldAt pl 2 1 = 0 ∨ (if fieldAt pl 0 1 = 0 then 31 else 27) < fieldAt pl 2 1 ∨ 63 < fieldAt pl 3 1 ∨ (fieldAt pl 0 1 = 0 ∧ fieldAt pl 3 1 ≠ 0) ∨ (fieldAt pl 0 1 = 1 ∧ bit (fieldAt pl 1 1) 0 = true))) ∧
    (bit (fieldAt pl 1 1) 0 = true ∧ u.reg P.fltStream 0 = 1) :=
  ⟨mail.setReg P.fltStream 0 1, hdr, [0, 1, 31, 0], by decide +kernel⟩
theorem witness_ClearsFollowTheTable_1 : ∃ (s : State) (h : Hdr) (k i : Byte), s.serves h 0x1901 = true ∧ k ≠ 0xFF#8 ∧ i ≠ 0xFF#8 ∧ (sourceRow k.toNat = none ∨ (sourceRow k.toNat).map (·.n) ≠ none ∧ ((sourceRow k.toNat).map (·.n)).getD 0 ≤ i.toNat) :=
  ⟨mail, hdr, 0xFE#8, 0#8, by decide +kernel⟩
theorem witness_ClearsFollowTheTable_2 : ∃ (s : State) (h : Hdr) (k i : Byte), s.serves h 0x1901 = true ∧ k ≠ 0xFF#8 ∧ i ≠ 0xFF#8 ∧ (sourceRow k.toNat).map (·.n) ≠ none ∧ i.toNat < ((sourceRow k.toNat).map (·.n)).getD 0 ∧ ((s.bodyState h 0x1901).frec (selector k.toNat i.toNat)).cause = false :=
  ⟨mail, hdr, BitVec.ofNat 8 K.trip, 7#8, by decide +kernel⟩
theorem witness_ClearsFollowTheTable_3 : ∃ (s : State) (h : Hdr) (k i : Byte), s.serves h 0x1901 = true ∧ k ≠ 0xFF#8 ∧ i ≠ 0xFF#8 ∧ (sourceRow k.toNat).map (·.n) ≠ none ∧ i.toNat < ((sourceRow k.toNat).map (·.n)).getD 0 ∧ ((s.bodyState h 0x1901).frec (selector k.toNat i.toNat)).cause = true :=
  ⟨mail.setRec (selector K.stoAct 0) { cause := true }, hdr, BitVec.ofNat 8 K.stoAct, 0#8, by decide +kernel⟩
theorem witness_ClearsFollowTheTable_4 : ∃ (s : State) (h : Hdr) (k i : Byte), s.serves h 0x1901 = true ∧ k ≠ 0xFF#8 ∧ i ≠ 0xFF#8 ∧ (sourceRow k.toNat).map (·.n) ≠ none ∧ i.toNat < ((sourceRow k.toNat).map (·.n)).getD 0 ∧ ((s.bodyState h 0x1901).frec (selector k.toNat i.toNat)).cause = true ∧ ((sourceRow k.toNat).map (·.cls) = some .a ∨ (sourceRow k.toNat).map (·.cls) = some .b) :=
  ⟨mail.setRec (selector K.xcmdDie 0) { cause := true }, hdr, BitVec.ofNat 8 K.xcmdDie, 0#8, by decide +kernel⟩
theorem witness_ClearsFollowTheTable_5 : ∃ (s : State) (h : Hdr) (k i : Byte), s.serves h 0x1901 = true ∧ k ≠ 0xFF#8 ∧ i ≠ 0xFF#8 ∧ (sourceRow k.toNat).map (·.n) ≠ none ∧ i.toNat < ((sourceRow k.toNat).map (·.n)).getD 0 ∧ ((s.bodyState h 0x1901).frec (selector k.toNat i.toNat)).cause = true ∧ (sourceRow k.toNat).map (·.cls) = some .c ∧ (s.bodyState h 0x1901).causePresent k.toNat i.toNat = true :=
  ⟨(mail.setReg P.pwmTripStat 0 0x100).setRec (selector K.trip 0) { cause := true }, hdr, BitVec.ofNat 8 K.trip, 0#8, by decide +kernel⟩
theorem witness_ClearsFollowTheTable_6 : ∃ (s : State) (h : Hdr) (k i : Byte), s.serves h 0x1901 = true ∧ k ≠ 0xFF#8 ∧ i ≠ 0xFF#8 ∧ (sourceRow k.toNat).map (·.n) ≠ none ∧ i.toNat < ((sourceRow k.toNat).map (·.n)).getD 0 ∧ ((s.bodyState h 0x1901).frec (selector k.toNat i.toNat)).cause = true ∧ ((sourceRow k.toNat).map (·.cls) = some .d ∨ (sourceRow k.toNat).map (·.cls) = some .c ∧ (s.bodyState h 0x1901).causePresent k.toNat i.toNat = false) ∧ ((s.bodyState h 0x1901).frec (selector k.toNat i.toNat)).setAt ≠ some (s.bodyState h 0x1901).epoch :=
  ⟨mail.setRec (selector K.trip 0) { cause := true }, hdr, BitVec.ofNat 8 K.trip, 0#8, by decide +kernel⟩
theorem witness_ClearsFollowTheTable_7 : ∃ (s : State) (h : Hdr) (k i : Byte), s.serves h 0x1901 = true ∧ k ≠ 0xFF#8 ∧ i ≠ 0xFF#8 ∧ (sourceRow k.toNat).map (·.n) ≠ none ∧ i.toNat < ((sourceRow k.toNat).map (·.n)).getD 0 ∧ ((s.bodyState h 0x1901).frec (selector k.toNat i.toNat)).cause = true ∧ ((sourceRow k.toNat).map (·.cls) = some .d ∨ (sourceRow k.toNat).map (·.cls) = some .c ∧ (s.bodyState h 0x1901).causePresent k.toNat i.toNat = false) ∧ ((s.bodyState h 0x1901).frec (selector k.toNat i.toNat)).setAt = some (s.bodyState h 0x1901).epoch :=
  ⟨mail.setRec (selector K.trip 0) { cause := true, setAt := some mail.epoch }, hdr, BitVec.ofNat 8 K.trip, 0#8, by decide +kernel⟩

end Sys2Proof.Tests
end

/-! PROOFS. The commands of supply, reset, boot, wake and motion watch, and those of the generators, the sync chain, the
trip inputs and the debug halt: each answers a next state with the effect of its rules. -/

namespace Sys2Proof.Proofs
open Sys2Proof Sys2Proof.Machine Sys2Proof.Laws

variable {s : State}

/-! How a guarded command ends. A command is a chain of tests, each with a state to settle in either branch. -/

/-- A command whose test holds ends in the first branch. -/
theorem fin_if_pos {c : Prop} [Decidable c] {t u : State} (h : c) : fin (if c then t else u) = .next t.settle :=
  congrArg fin (if_pos h)

/-- A command whose test fails ends in the other branch, which may hold further tests. -/
theorem fin_if_neg {c : Prop} [Decidable c] {t u : State} (h : ¬ c) : fin (if c then t else u) = .next u.settle :=
  congrArg fin (if_neg h)

/-! The supply (R49). -/

/-- What the loss of the supply makes of a state `w` that has been rebuilt: no records, no reset and wake sources, and
of the generators and the driver dies only the trip inputs and the dies (R334, R394). -/
def unpoweredState (w : State) (mirror : Smap MirrorSlot) : State :=
  let u := (w.setReg P.pwrWakeSrc 0 0).setReg P.sysRstSrc 0 0
  { u with pwr := { u.pwr with mode := .unpowered }, flt := { u.flt with recs := [], mirror := mirror },
           pwm := { trips := u.pwm.trips }, gate := { dies := u.gate.dies } }

theorem powerLoss_next (h : s.pwr.mode ≠ .unpowered) :
    ∃ w mirror, exec .powerLoss s = .next (unpoweredState w mirror).settle :=
  ⟨_, _, fin_if_neg h⟩

theorem unpoweredState_rstSrc (w : State) (mirror : Smap MirrorSlot) :
    (unpoweredState w mirror).reg P.sysRstSrc 0 = 0 :=
  reg_setReg (w.setReg P.pwrWakeSrc 0 0) P.sysRstSrc 0 0

/-- SYS.RST_SRC, which is written last, leaves PWR.WAKE_SRC as it was cleared. -/
theorem unpoweredState_wakeSrc (w : State) (mirror : Smap MirrorSlot) :
    (unpoweredState w mirror).reg P.pwrWakeSrc 0 = 0 :=
  (reg_setReg_ne (w.setReg P.pwrWakeSrc 0 0) 0 (by decide) (by decide) (by decide) (by decide)).trans
    (reg_setReg w P.pwrWakeSrc 0 0)

/-- Settles O12: each clause's hypotheses decide the tests of its command; a supply loss leaves `unpoweredState`. -/
theorem powerCommandsRun : Obligations.PowerCommandsRun := by
  unfold Obligations.PowerCommandsRun
  refine ⟨?powerOn, ?powerLoss, ?vcoreBrownout, ?nrstAssert, ?nrstRelease, ?chipResetStart, ?bootDone, ?bootRecovery,
    ?watchdogExpiry, ?wakePinNew, ?wakePinCrescent, ?canWake, ?wakeTimerExpiry, ?halfIdleExpiry, ?mwVdrvWaitExpiry,
    ?mwGuardStart, ?mwRelistenExpiry, ?mwQuietExpiry, ?mwSample, ?xtalLoss, ?blockResetDone, ?entryFlushDone⟩
  case powerOn => exact fun s hm => fin_if_pos hm
  case powerLoss =>
    intro s hm
    obtain ⟨w, mirror, h⟩ := powerLoss_next hm
    refine ⟨_, h, ?_, ?_, ?_, ?_, ?_, ?_⟩
    · rw [settle_pwr]; rfl
    · rw [settle_flt]; rfl
    · rw [settle_pwm]; rfl
    · rw [settle_gate]; rfl
    · rw [reg_settle, unpoweredState_rstSrc]
    · rw [reg_settle, unpoweredState_wakeSrc]
  case vcoreBrownout => exact fun s hp => fin_if_pos hp
  case nrstAssert => exact fun s hp hn => fin_if_pos (by simp [hp, hn])
  case nrstRelease => exact fun s hm hn => fin_if_pos ⟨hm, hn⟩
  case chipResetStart =>
    intro s b hb ha hr hd
    show execChipResetStart s = _
    rw [execChipResetStart, hb]
    exact fin_if_pos (by rw [ha, hr, hd]; rfl)
  case bootDone =>
    intro s k fb hm hk
    refine (fin_if_neg (by simp [hm])).trans ?_
    rw [hk]
  case bootRecovery =>
    intro s hm hk
    refine (fin_if_neg (by simp [hm])).trans ?_
    rw [hk]
  case watchdogExpiry => exact fun s ha => fin_if_pos ha
  case wakePinNew =>
    intro s high cycles hs hp
    refine (fin_if_neg (by simp [hp])).trans ?_
    rw [hs]
  case wakePinCrescent =>
    intro s high cycles hs hp he
    refine (fin_if_neg (by simp [hp])).trans ?_
    rw [hs, if_pos he]
  case canWake =>
    intro s dom rec dom2 hs hp he
    refine (fin_if_neg (by simp [hp])).trans ?_
    rw [hs, if_pos he]
  case wakeTimerExpiry => exact fun s hm he hn hc => fin_if_pos ⟨hm, he, hn, hc⟩
  case halfIdleExpiry =>
    intro s hm hs hn he hc hw
    exact (fin_if_neg (by simp [hm, hs, hn, he, hc])).trans
      (fin_if_neg (c := (s.wakeActive false).2 = true) (by simp [hw]))
  case mwVdrvWaitExpiry => exact fun s hw ha hu he => fin_if_pos ⟨hw, ha, hu, he⟩
  case mwGuardStart => exact fun s hw hm hv hu => fin_if_pos ⟨hw, hm, hv, hu⟩
  case mwRelistenExpiry => exact fun s d hm hp hl he => fin_if_pos ⟨hm, hp, hl, he⟩
  case mwQuietExpiry => exact fun s hm hf hc hd he => fin_if_pos ⟨hm, hf, hc, hd, he⟩
  case mwSample =>
    intro s p0 p1 p2 p3 x y hm
    exact fin_if_neg (by rcases hm with h | h <;> simp [h])
  case xtalLoss => exact fun s ha hx => fin_if_pos (by rw [ha, hx]; rfl)
  case blockResetDone => exact fun s u ha hb => fin_if_pos (by rw [ha, hb]; rfl)
  case entryFlushDone =>
    intro s e u p v he ha
    show execEntryFlushDone s = _
    rw [execEntryFlushDone, he]
    exact fin_if_neg (by simp [ha])

/-! Sync and trip inputs (R158, R162). -/

/-- What changes in the generators alone changes no register. -/
@[simp] theorem reg_with_pwm (x : PwmSt) (id i : Nat) : State.reg { s with pwm := x } id i = s.reg id i := rfl

@[simp] theorem tripLevel_setTrip (t k : Nat) (x : TripSt) : (s.setTrip t x).tripLevel k = s.tripLevel k := rfl

/-- An input that becomes active shows in LEVEL (R162). -/
theorem tripSample_rising {t : Nat} (h : s.tripLevel t = false) :
    s.tripSample t true = s.setBit P.pwmTripStat 0 (8 + t) true := by
  rw [State.tripSample, h, if_neg (by decide), if_pos rfl]

/-- An input that becomes inactive shows in LEVEL; its next run of active samples may trip
again, and its cause has ended (R162). -/
theorem tripSample_falling {t : Nat} (h : s.tripLevel t = true) :
    s.tripSample t false =
      ((s.setBit P.pwmTripStat 0 (8 + t) false).setTrip t { s.trip t with fired := false }).unlive K.trip t := by
  rw [State.tripSample, h, if_neg (by decide), if_neg (by decide)]
  rfl

/-- Settles O14: each clause's hypotheses decide the tests of its command; a raw edge of a trip input is sampled on its
tick as `tripSample_rising` and `tripSample_falling` say. -/
theorem pwmCommandsRun : Obligations.PwmCommandsRun := by
  unfold Obligations.PwmCommandsRun
  refine ⟨?reloadMember, ?reloadHome, ?compareEdge, ?deadTimeHigh, ?deadTimeLow, ?syncChainWrap, ?syncInRef, ?syncInStamp,
    ?syncPulse, ?syncLoss, ?tripActive, ?tripInactive, ?tripFiltered, ?haltFull, ?haltSatellite, ?resumeHalted,
    ?resumeRunning⟩
  case reloadMember =>
    intro s d hp hr
    exact (fin_if_neg (by simp [hp])).trans (fin_if_pos hr)
  case reloadHome =>
    intro s d hp hc
    have hr : s.role d.val ≠ 3 := by
      intro h
      simp [State.computes, h] at hc
    exact ((fin_if_neg (by simp [hp])).trans (fin_if_neg hr)).trans (fin_if_pos hc)
  case compareEdge =>
    intro s g f d ho hm hh hr ht hp hn hq
    show execCompareEdge g f s = _
    rw [execCompareEdge, ho]
    exact (fin_if_pos ⟨hm, hh, hr, ht, hp, hn⟩).trans (fin_if_neg hq)
  case deadTimeHigh =>
    intro s g hh hp hd
    exact (fin_if_neg (by simp [hh])).trans (fin_if_pos (by simp [hp, hd]))
  case deadTimeLow =>
    intro s g hh hH hL hd
    exact ((fin_if_neg (by simp [hh])).trans (fin_if_neg (by simp [hH]))).trans (fin_if_pos (by simp [hL, hd]))
  case syncChainWrap => exact fun s hm hh hs hc => fin_if_pos (by simp [hm, hh, hs, hc])
  case syncInRef =>
    intro s rawAgo frac rising raw hm hh hs he hr hf
    exact (fin_if_neg (by simp [State.awake, State.syncFiltered, hm, hr, hf])).trans
      (fin_if_pos (by simp [hm, hh, hs, he]))
  case syncInStamp =>
    intro s rawAgo frac rising ha hs hr hf
    exact (fin_if_neg (by simp [State.syncFiltered, ha, hr, hf])).trans
      (fin_if_neg (by rcases hs with h | h <;> simp [h]))
  case syncPulse =>
    intro s b t rest out x y hp ht hm
    show execSyncPulse b s = _
    rw [execSyncPulse, hp]
    exact fin_if_neg (by simp [hm, ht])
  case syncLoss => exact fun s d hm hc hs hl he => fin_if_pos (by simp [hm, hc, hs, hl, he])
  case tripActive =>
    intro s t level frac u ha hl hn
    refine (fin_if_neg (by simp [ha])).trans ?_
    rw [show (level != bit (s.reg P.pwmTripCfg t.val) 1) = true by simp [hl], hn,
      ← tripSample_rising (s := u) (by simp [u, hn])]
    rfl
  case tripInactive =>
    intro s t level frac u ha hl hn
    refine (fin_if_neg (by simp [ha])).trans ?_
    rw [show (level != bit (s.reg P.pwmTripCfg t.val) 1) = false by simp [hl],
      ← tripSample_falling (s := u) (by simp [u, hn])]
    rfl
  case tripFiltered =>
    intro s t edge u gs lv v ha he hl hf hd
    exact fin_if_pos (by simpa [ha, he, hl, hf] using hd)
  case haltFull => exact fun s ha hh hd => fin_if_neg (by simp [ha, hh, hd])
  case haltSatellite => exact fun s ha hd => fin_if_pos (by simp [ha, hd])
  case resumeHalted =>
    intro s t hh
    show execDebugResume s = _
    rw [execDebugResume, hh]
    rfl
  case resumeRunning =>
    intro s hh
    show execDebugResume s = _
    rw [execDebugResume, hh]
    rfl

end Sys2Proof.Proofs

/-! PROOFS. The time base: reads and writes of 64-bit values word by word (R41 to R43), register writes and random reads
by direct access, and the tick of a step on an empty queue. -/

namespace Sys2Proof.Proofs
open Sys2Proof Sys2Proof.Machine Sys2Proof.Laws

variable {s : State} {i : Iface} {id : Half} {inst : Byte} {row : ParamRow}

/-! Bits, read words and snapshots. -/

theorem bit_putBit_same (v n : Nat) : bit (putBit v n true) n = true := by
  have hlow : v % 2 ^ n < 2 ^ n := Nat.mod_lt _ (Nat.two_pow_pos n)
  have hv : putBit v n true = 2 ^ n * (2 * (v / 2 ^ (n + 1)) + 1) + v % 2 ^ n := by
    have hhigh : v / 2 ^ (n + 1) * 2 ^ (n + 1) = 2 ^ n * (2 * (v / 2 ^ (n + 1))) := by
      rw [Nat.mul_comm, Nat.pow_succ, Nat.mul_assoc]
    rw [putBit, putBits, hhigh, Nat.mul_add, Bool.toNat_true]
    omega
  rw [bit, Nat.testBit_eq_decide_div_mod_eq, hv, Nat.mul_add_div (Nat.two_pow_pos n), Nat.div_eq_of_lt hlow,
    decide_eq_true_eq]
  omega

@[simp] theorem snap_setBit (r j n : Nat) (b : Bool) (k : Nat) : (s.setBit r j n b).snap k = s.snap k := rfl
@[simp] theorem snap_setRdata (j v k : Nat) : (s.setRdata j v).snap k = s.snap k := rfl
@[simp] theorem reg_setRdata (k v r j : Nat) : (s.setRdata k v).reg r j = s.reg r j := rfl
@[simp] theorem rdata_setRdata (k v : Nat) : Smap.get (fun _ => 0) (s.setRdata k v).host.rdata k = v :=
  get_set_same _ _ _ _

@[simp] theorem reg_setBit (r j n : Nat) (b : Bool) : (s.setBit r j n b).reg r j = putBit (s.reg r j) n b :=
  reg_setReg s r j _

/-- A read takes free values and random draws at most, so the host interface stands. -/
@[simp] theorem host_readParam (k : Nat) (row : ParamRow) (j : Nat) : (s.readParam k row j).1.host = s.host := by
  unfold State.readParam
  split
  · rfl
  · split
    · rfl
    · split
      · rfl
      · split <;> rfl

@[simp] theorem snap_readParam (k : Nat) (row : ParamRow) (j q : Nat) : (s.readParam k row j).1.snap q = s.snap q := by
  simp [State.snap]

/-! The word reads (R41). -/

theorem lowRead_eq (k : Nat) (row : ParamRow) (j : Nat) : s.lowRead k row j =
    ((s.readParam k row j).1.setSnap k { (s.readParam k row j).1.snap k with
        addr := some (snapAddr row.id j), hi := (s.readParam k row j).2 / 2 ^ 32, fresh := true },
      (s.readParam k row j).2 % 2 ^ 32) := rfl

/-- A low-word read takes the snapshot and leaves those of the other interfaces alone. -/
theorem snap_lowRead (k : Nat) (row : ParamRow) (j : Nat) : (s.lowRead k row j).1.snap k =
    { s.snap k with addr := some (snapAddr row.id j), hi := (s.readParam k row j).2 / 2 ^ 32, fresh := true } := by
  rw [lowRead_eq, snap_setSnap, snap_readParam]

theorem snap_lowRead_ne {k q : Nat} (row : ParamRow) (j : Nat) (h : q ≠ k) :
    (s.lowRead k row j).1.snap q = s.snap q := by
  rw [lowRead_eq, snap_setSnap_ne _ _ h, snap_readParam]

theorem highRead_of_fresh {k j : Nat} (ha : (s.snap k).addr = some (snapAddr row.id j)) (hf : (s.snap k).fresh = true) :
    s.highRead k row j = (s.setSnap k { s.snap k with fresh := false }, (s.snap k).hi) :=
  (if_pos ha).trans (if_pos hf)

theorem highRead_of_used {k j : Nat} (ha : (s.snap k).addr = some (snapAddr row.id j)) (hf : (s.snap k).fresh = false) :
    s.highRead k row j = (s.setBit P.timeSnapStat k 0 true, (s.snap k).hi) :=
  (if_pos ha).trans (if_neg (by simp [hf]))

theorem highRead_of_elsewhere {k j : Nat} (ha : (s.snap k).addr ≠ some (snapAddr row.id j)) :
    s.highRead k row j =
      ((s.readParam k row j).1.setBit P.timeSnapStat k 0 true, (s.readParam k row j).2 / 2 ^ 32) :=
  if_neg ha

theorem lowWordRead_next (hr : directRow id.toNat inst.toNat = some row) (hs : s.serving = true)
    (h8 : paramSize row = 8) : exec (.lowWordRead i id inst) s = .next
      ((s.lowRead (ifaceNo i) row inst.toNat).1.setRdata (ifaceNo i) (s.lowRead (ifaceNo i) row inst.toNat).2).settle := by
  show execLowWordRead i id inst s = _
  rw [execLowWordRead, hr]
  exact fin_if_pos (by simp [hs, h8])

/-- A high-word read answers what `highRead` gives, whichever of its cases holds. -/
theorem highWordRead_next {t : State} {v : Nat} (hr : directRow id.toNat inst.toNat = some row)
    (hs : s.serving = true) (h8 : paramSize row = 8) (hv : s.highRead (ifaceNo i) row inst.toNat = (t, v)) :
    exec (.highWordRead i id inst) s = .next (t.setRdata (ifaceNo i) v).settle := by
  show execHighWordRead i id inst s = _
  rw [execHighWordRead, hr]
  refine (fin_if_pos (by simp [hs, h8])).trans ?_
  rw [hv]

/-- Settles O29: each read answers as `lowRead` and the cases of `highRead` say, and what follows the snapshot (the read
word, STALE_HI, nIRQ) leaves the snapshots alone. -/
theorem sixtyFourBitValuesReadWhole : Obligations.SixtyFourBitValuesReadWhole := by
  unfold Obligations.SixtyFourBitValuesReadWhole
  refine ⟨?low, ?fresh, ?used, ?elsewhere⟩
  case low =>
    intro s i id inst row hs hr h8
    refine ⟨_, lowWordRead_next hr hs h8, ?_, ?_, ?_, ?_, ?_⟩
    · rw [rdata_settle, rdata_setRdata, lowRead_eq]
    · simp [snap_lowRead]
    · simp [snap_lowRead]
    · simp [snap_lowRead]
    · intro k hk
      simp [snap_lowRead_ne row inst.toNat hk]
  case fresh =>
    intro s i id inst row hs hr h8 ha hf
    refine ⟨_, highWordRead_next hr hs h8 (highRead_of_fresh ha hf), ?_, ?_, ?_, ?_⟩
    · rw [rdata_settle, rdata_setRdata]
    · simp
    · simp
    · intro k hk
      simp [snap_setSnap_ne s _ hk]
  case used =>
    intro s i id inst row hs hr h8 ha hf
    refine ⟨_, highWordRead_next hr hs h8 (highRead_of_used ha hf), ?_, ?_, ?_⟩
    · rw [rdata_settle, rdata_setRdata]
    · rw [reg_settle, reg_setRdata, reg_setBit]
    · simp
  case elsewhere =>
    intro s i id inst row hs hr h8 ha
    refine ⟨_, highWordRead_next hr hs h8 (highRead_of_elsewhere ha), ?_, ?_, ?_⟩
    · rw [rdata_settle, rdata_setRdata]
    · rw [reg_settle, reg_setRdata, reg_setBit, bit_putBit_same]
    · simp

/-! The word writes (R43). -/

theorem lowWordWrite_next (v : Word) (hr : directRow id.toNat inst.toNat = some row)
    (hw : s.wordWritable row inst.toNat = true) : exec (.lowWordWrite i id inst v) s = .next (s.setSnap (ifaceNo i)
      { s.snap (ifaceNo i) with heldAddr := some (snapAddr id.toNat inst.toNat), heldLow := v.toNat }).settle := by
  show execLowWordWrite i id inst v s = _
  rw [execLowWordWrite, hr]
  exact fin_if_pos hw

theorem highWordWrite_of_held (v : Word) (hr : directRow id.toNat inst.toNat = some row)
    (hw : s.wordWritable row inst.toNat = true)
    (hh : (s.snap (ifaceNo i)).heldAddr = some (snapAddr id.toNat inst.toNat)) :
    exec (.highWordWrite i id inst v) s = .next ((s.setSnap (ifaceNo i)
      { s.snap (ifaceNo i) with heldAddr := none, heldLow := 0 }).directWrite (ifaceNo i) row inst.toNat
        ((s.snap (ifaceNo i)).heldLow + v.toNat * 2 ^ 32)).settle := by
  show execHighWordWrite i id inst v s = _
  rw [execHighWordWrite, hr]
  exact (fin_if_pos hw).trans (fin_if_pos hh)

theorem highWordWrite_of_unheld (v : Word) (hr : directRow id.toNat inst.toNat = some row)
    (hw : s.wordWritable row inst.toNat = true)
    (hh : (s.snap (ifaceNo i)).heldAddr ≠ some (snapAddr id.toNat inst.toNat)) :
    exec (.highWordWrite i id inst v) s = .next ((s.setBit P.timeSnapStat (ifaceNo i) 1 true).directWrite
      (ifaceNo i) row inst.toNat (s.view (ifaceNo i) row.id inst.toNat % 2 ^ 32 + v.toNat * 2 ^ 32)).settle := by
  show execHighWordWrite i id inst v s = _
  rw [execHighWordWrite, hr]
  exact (fin_if_pos hw).trans (fin_if_neg hh)

/-- Settles O30: `lowWordWrite_next` holds the low word, and the high word finds it held or not. -/
theorem sixtyFourBitValuesAreWrittenWhole : Obligations.SixtyFourBitValuesAreWrittenWhole := by
  unfold Obligations.SixtyFourBitValuesAreWrittenWhole
  exact ⟨fun s i id inst row v hr hw => lowWordWrite_next v hr hw,
    fun s i id inst row v hr hw hh => highWordWrite_of_held v hr hw hh,
    fun s i id inst row v hr hw hh => highWordWrite_of_unheld v hr hw hh⟩

/-! Register writes and random reads (R524, R484). -/

/-- A direct write that passes the checks of R524 is applied at once. -/
theorem directWrite_of_checks {k j v : Nat} (hw : writable row j = true) (hv : itemRange row v = true)
    (hc : s.stateCheck row j (s.rcPage k) = St.ok) :
    s.directWrite k row j v = s.applyStaged (.write row.id j (s.rcPage k) v) :=
  if_neg (by simp [hw, hv, hc])

theorem registerWrite_next (v : DWord) (hr : directRow id.toNat inst.toNat = some row) (hs : s.serving = true)
    (he : row.effect = .immediate) (hp : row.id / 256 = 4 ∨ row.id = P.timeSnapStat ∨
      s.validate [.write row.id inst.toNat (s.rcPage (ifaceNo i)) v.toNat] = none) :
    exec (.registerWrite i id inst v) s = .next (s.directWrite (ifaceNo i) row inst.toNat v.toNat).settle := by
  show execRegisterWrite i id inst v s = _
  rw [execRegisterWrite, hr]
  refine fin_if_pos ?_
  rcases hp with h | h | h <;> simp [hs, he, h]

theorem rngRead_next (hs : s.serving = true) (hl : s.isLive K.trngFail 0 = false) :
    exec (.rngRead i) s = .next (s.draw.2.setRdata (ifaceNo i) s.draw.1.toNat).settle :=
  fin_if_neg (by simp [hs, hl])

/-- Settles O7: a passed register write is `applyStaged` by `directWrite_of_checks`; the word accesses are those of R41
and R43 above, a high-word read in the two cases that the obligation names. -/
theorem directAccessRuns : Obligations.DirectAccessRuns := by
  unfold Obligations.DirectAccessRuns
  refine ⟨?registerWrite, ?lowRead, ?highFresh, ?highElsewhere, ?lowWrite, ?highHeld, ?highUnheld, ?rng⟩
  case registerWrite =>
    intro s i id inst v row hr hs he hw hv hc hp
    rw [registerWrite_next v hr hs he hp, directWrite_of_checks hw hv hc]
  case lowRead => exact fun s i id inst row hr hs h8 => lowWordRead_next hr hs h8
  case highFresh => exact fun s i id inst row hr hs h8 ha hf => highWordRead_next hr hs h8 (highRead_of_fresh ha hf)
  case highElsewhere => exact fun s i id inst row hr hs h8 ha => highWordRead_next hr hs h8 (highRead_of_elsewhere ha)
  case lowWrite => exact fun s i id inst v row hr hw => lowWordWrite_next v hr hw
  case highHeld => exact fun s i id inst v row hr hw hh => highWordWrite_of_held v hr hw hh
  case highUnheld => exact fun s i id inst v row hr hw hh => highWordWrite_of_unheld v hr hw hh
  case rng => exact fun s i hs hl => rngRead_next hs hl

/-! The tick of a step on an empty queue (R35 to R37). -/

/-- The frames that the last tick sent have left the pins. -/
def sentGone (s : State) : State :=
  { s with host := { s.host with canTx := [] }, link := { s.link with tx := [] } }

theorem step_of_empty (h : s.pending = []) : step s = .next s.tick := by
  rw [step, h]

/-- In boot and in a reset no end-of-tick work runs and the epoch alone advances. -/
theorem passTick_of_starting (h : s.pwr.mode = .boot ∨ s.pwr.mode = .reset) :
    s.passTick = { sentGone s with epoch := s.epoch + 1 } := by
  rcases h with h | h <;> simp [State.passTick, State.awake, sentGone, h]

/-- Without supply no time is counted. -/
theorem passTick_of_unpowered (h : s.pwr.mode = .unpowered) : s.passTick = sentGone s := by
  simp [State.passTick, State.awake, sentGone, h]

/-- Settles O25: the tick is `passTick` with nIRQ settled, and settling leaves the epoch, the registers and the memories
alone. -/
theorem stepOnAnEmptyQueueIsATick : Obligations.StepOnAnEmptyQueueIsATick := by
  unfold Obligations.StepOnAnEmptyQueueIsATick
  refine ⟨fun s h => step_of_empty h, ?starting, ?unpowered⟩
  case starting =>
    intro s h hm
    refine ⟨_, step_of_empty h, ?_⟩
    rw [State.tick, passTick_of_starting hm]
    simp [sentGone]
  case unpowered =>
    intro s h hm
    refine ⟨_, step_of_empty h, ?_⟩
    rw [State.tick, passTick_of_unpowered hm]
    simp [sentGone]

end Sys2Proof.Proofs

/-! PROOFS. The commands of the power state, of the chip reset, of the trip latches and of the self-test: what the body
of each does in the states and for the payloads that its rules do not refuse (R17, R49, R167, R349). -/

namespace Sys2Proof.Proofs
open Sys2Proof Sys2Proof.Machine Sys2Proof.Laws

variable {s t : State} {r : Reply} {c : Cmd} {pl : List Byte}

/-- A served command ends with the state and the reply that its body gives. -/
theorem runCommand_of_body {h : Hdr} {op : Nat} {body : State → Cmd → List Byte → State × Reply}
    (hs : s.serves h op = true) (hb : body (s.bodyState h op) (cmdOf h op s.epoch) pl = (t, r)) :
    runCommand h op pl s body = .next (t.reply (cmdOf h op s.epoch) r).settle := by
  rw [serve_of_serves s h op pl body hs, hb]

/-! PWR_SET (R49). The payload is one byte: 0 NEW, 1 CRESCENT, 2 HALF, 3 FULL. -/

/-- In FULL, FULL is where the device is already. -/
theorem bodyPwrSet_full_in_full (hl : pl.length = 1) (hm : s.pwr.mode = .full) (hv : fieldAt pl 0 1 = 3) :
    bodyPwrSet s c pl = (s, .ok []) := by
  simp [bodyPwrSet, hl, hm, hv]

theorem bodyPwrSet_half_in_full (hl : pl.length = 1) (hm : s.pwr.mode = .full) (hv : fieldAt pl 0 1 = 2)
    (hd : (List.range 4).all s.stopped = true) : bodyPwrSet s c pl = (s.leaveFull, .ok []) := by
  simp only [bodyPwrSet, hl, hm, hv, hd]
  rfl

/-- Outside FULL, HALF is where the device is already. -/
theorem bodyPwrSet_half_outside_full (hl : pl.length = 1) (hm : s.pwr.mode ≠ .full) (hv : fieldAt pl 0 1 = 2) :
    bodyPwrSet s c pl = (s, .ok []) := by
  simp [bodyPwrSet, hl, hm, hv]

/-- On the way into FULL a motion-wake sequence ends, and what is left to do hangs on the self-tests: FULL is entered at
once where they have passed, and else they start. -/
theorem bodyPwrSet_full_outside_full (hl : pl.length = 1) (hm : s.pwr.mode ≠ .full) (hv : fieldAt pl 0 1 = 3)
    (hu : s.anyUvlo = false) (ht : s.towardsFull = false) :
    bodyPwrSet s c pl =
      (if s.testsPassed then State.enterFull { s with pwr := { s.pwr with mwStage := .none } } false
       else State.startTest { s with pwr := { s.pwr with mwStage := .none } } none [0, 1, 2], .ok []) := by
  have ht' : State.towardsFull { s with pwr := { s.pwr with mwStage := .none } } = false := ht
  simp only [bodyPwrSet, hl, hm, hv, hu, ht']
  rfl

/-- The entry into CRESCENT or NEW begins once the armed WAKE pin has been read as inactive. -/
theorem bodyPwrSet_low_outside_full (hl : pl.length = 1) (hm : s.pwr.mode ≠ .full) (hv : fieldAt pl 0 1 ≤ 1)
    (ha : s.classACause = false) (hw : (s.wakeActive (fieldAt pl 0 1 == 0)).2 = false) :
    bodyPwrSet s c pl =
      ((s.wakeActive (fieldAt pl 0 1 == 0)).1.beginEntry (if fieldAt pl 0 1 = 0 then .new else .crescent), .ok []) := by
  have h3 : ¬ 3 < fieldAt pl 0 1 := by omega
  have hne3 : fieldAt pl 0 1 ≠ 3 := by omega
  have hne2 : fieldAt pl 0 1 ≠ 2 := by omega
  simp [bodyPwrSet, hl, hm, h3, hne3, hne2, ha, hw]

/-! SYS_RESET (R17). -/

theorem bodySysReset_nil :
    bodySysReset s c [] = ((s.requestChip 3).each (List.range 4) (fun s d => s.resetHold d), .ok []) := rfl

/-! TRIP_CLEAR (R167). -/

/-- The latch of an inactive input is cleared where it is set. -/
theorem bodyTripClear_of_inactive (hi : c.inst ≤ 7) (hn : s.tripLevel c.inst = false) :
    bodyTripClear s c [] =
      if bit (s.reg P.pwmTripStat 0) c.inst then
        ((s.setBit P.pwmTripStat 0 c.inst false).unforce c.inst (List.range 12), .ok [])
      else (s, .ok []) := by
  simp [bodyTripClear, Nat.not_lt.mpr hi, hn]

/-! SELFTEST (R349). -/

/-- The dies that instance `i` names are powered, unused and not under test: their self-test starts. -/
theorem bodySelftest_of_idle {dies : List Nat} (hdies : dies = if c.inst = 3 then [0, 1, 2] else [c.inst])
    (hi : c.inst ≤ 3) (ha : s.awake = true) (hpowered : dies.any (fun i => i != 0 && s.uvlo (i - 1)) = false)
    (hunused : dies.any (fun i =>
      if i = 0 then (List.range 4).any (fun d => !s.stopped d)
      else (s.ownersOf (dieBridges (i - 1))).any (fun d => !s.stopped d)) = false)
    (hidle : dies.any s.testing = false) :
    bodySelftest s c [] = (s.startTest (some c) dies, .deferred) := by
  subst hdies
  simp only [bodySelftest, Nat.not_lt.mpr hi, ha, hpowered, hunused, hidle]
  rfl

/-- Settles O3: each command is served, and its clause's hypotheses decide the branch that its body takes. -/
theorem powerAndTestCommandsRun : Obligations.PowerAndTestCommandsRun := by
  unfold Obligations.PowerAndTestCommandsRun
  refine ⟨?fullInFull, ?halfInFull, ?halfOutsideFull, ?fullAtOnce, ?fullByTest, ?low, ?sysReset, ?clearSet, ?clearUnset,
    ?selftest⟩
  case fullInFull => exact fun s h pl hs hl hm hv => runCommand_of_body hs (bodyPwrSet_full_in_full hl hm hv)
  case halfInFull => exact fun s h pl hs hl hm hv hd => runCommand_of_body hs (bodyPwrSet_half_in_full hl hm hv hd)
  case halfOutsideFull =>
    exact fun s h pl hs hl hm hv => runCommand_of_body hs (bodyPwrSet_half_outside_full hl hm hv)
  case fullAtOnce =>
    intro s h pl c u hs hl hm hv hu ht hp
    refine runCommand_of_body hs ?_
    rw [bodyPwrSet_full_outside_full hl hm hv hu ht, if_pos hp]
  case fullByTest =>
    intro s h pl c u hs hl hm hv hu ht hp
    refine runCommand_of_body hs ?_
    rw [bodyPwrSet_full_outside_full hl hm hv hu ht, if_neg (Bool.eq_false_iff.mp hp)]
  case low =>
    exact fun s h pl hs hl hm hv ha hw => runCommand_of_body hs (bodyPwrSet_low_outside_full hl hm hv ha hw)
  case sysReset => exact fun s h hs => runCommand_of_body hs bodySysReset_nil
  case clearSet =>
    exact fun s h hs hi hn hb => runCommand_of_body hs ((bodyTripClear_of_inactive hi hn).trans (if_pos hb))
  case clearUnset =>
    exact fun s h hs hi hn hb =>
      runCommand_of_body hs ((bodyTripClear_of_inactive hi hn).trans (if_neg (Bool.eq_false_iff.mp hb)))
  case selftest =>
    exact fun s h hs hi ha hp hm ht => runCommand_of_body hs (bodySelftest_of_idle rfl hi ha hp hm ht)

end Sys2Proof.Proofs

/-! PROOFS. The step and the queries of the host interface: every command ends in a state in which nIRQ is settled, the
state after reset, the check values of the CRCs, and the commands that read. -/

namespace Sys2Proof.Proofs
open Sys2Proof Sys2Proof.Machine Sys2Proof.Laws

variable {s : State} {c : Cmd} {pl : List Byte}

/-! The step (R72, R98). -/

/-- Whatever a command does, it ends by settling nIRQ: no command faults and none is refused. -/
theorem exec_eq_fin (i : Instr) (s : State) : ∃ u, exec i s = fin u := by
  cases i <;> exact ⟨_, rfl⟩

/-- Settles O26: a tick and every command (`exec_eq_fin`) end by settling nIRQ, which leaves it honest. -/
theorem everyStepAnswersAndKeepsNirqHonest : Obligations.EveryStepAnswersAndKeepsNirqHonest := by
  unfold Obligations.EveryStepAnswersAndKeepsNirqHonest
  intro s
  cases hq : s.pending with
  | nil => exact ⟨s.tick, step_of_empty hq, settle_honest s.passTick⟩
  | cons i rest =>
    obtain ⟨u, hu⟩ := exec_eq_fin i { s with pending := rest }
    exact ⟨u.settle, by rw [step, hq]; exact hu, settle_honest u⟩

/-- Settles O24: the second case of `step`. -/
theorem stepRunsTheFrontCommand : Obligations.StepRunsTheFrontCommand := by
  unfold Obligations.StepRunsTheFrontCommand
  intro s i rest hq
  rw [step, hq]

/-! Reset and check values (R74, R84, R86). -/

/-- nIRQ is honest at reset: the pin is high and no source is pending, enabled or not. -/
theorem reset_irqHonest : State.reset.irqHonest := by
  refine ⟨fun _ => rfl, fun h => ?_⟩
  exact absurd h (by decide)

/-- Settles O27: closed facts of the reset state, `reset_irqHonest` among them. -/
theorem resetState : Obligations.ResetState := by
  unfold Obligations.ResetState
  exact ⟨rfl, rfl, rfl, rfl, ⟨rfl, rfl⟩, reset_irqHonest, rfl, by decide, by decide⟩

/-- Settles O28: both CRCs computed over the nine bytes. -/
theorem checkValues : Obligations.CheckValues := by
  unfold Obligations.CheckValues
  exact ⟨by decide +kernel, by decide +kernel⟩

/-! The queries (R92 to R95, R202, R416, R506). -/

theorem bodyPing_nil : bodyPing s c [] = (s, .ok (leBytes 8 s.epoch)) := rfl

theorem bodyParamRead_of_checked (hl : pl.length % 4 = 0) (hr : s.readCheck 0 4 pl = none) :
    bodyParamRead s c pl = ((s.readItems c.iface [] pl).1, .ok (s.readItems c.iface [] pl).2) := by
  rw [bodyParamRead, if_neg (by simp [hl]), hr]

theorem bodyPerfDump_of_core (hc : c.inst < 2) :
    bodyPerfDump s c [] = (s, .ok (s.coreRecord c.inst true (s.perfSeq c.inst) false)) := by
  rw [bodyPerfDump, if_neg (by omega), if_neg (by simp), if_pos hc]

theorem bodyPerfDump_of_engine (hc : c.inst = 2) :
    bodyPerfDump s c [] = (s, .ok (leBytes 1 s.engDrives.length ++ zeros 3
      ++ (s.engDrives.map (fun d => s.engRecord d (s.perfSeq 2) false)).flatten)) := by
  rw [bodyPerfDump, if_neg (by omega), if_neg (by simp), if_neg (by omega)]

/-- A read of the journal takes its oldest entries, and with CONSUME they leave it. -/
theorem bodyJournalRead_of_journal (hl : pl.length = 4) (hsrc : fieldAt pl 0 1 = 0) (hpos : 1 ≤ fieldAt pl 2 1)
    (hmax : fieldAt pl 2 1 ≤ 31) (hstart : fieldAt pl 3 1 = 0)
    (hcons : bit (fieldAt pl 1 1) 0 = false ∨ s.reg P.fltStream 0 ≠ 1) :
    bodyJournalRead s c pl =
      (if bit (fieldAt pl 1 1) 0 then { s with flt := { s.flt with journal := s.flt.journal.drop (fieldAt pl 2 1) } } else s,
        .ok (leBytes 1 (s.flt.journal.take (fieldAt pl 2 1)).length
          ++ leBytes 1 (Nat.min 255 (s.flt.journal.length - (s.flt.journal.take (fieldAt pl 2 1)).length)) ++ zeros 2
          ++ ((s.flt.journal.take (fieldAt pl 2 1)).map jbytes).flatten)) := by
  have hstate : ¬ (bit (fieldAt pl 1 1) 0 = true ∧ s.reg P.fltStream 0 = 1) := by
    rintro ⟨hb, hf⟩
    rcases hcons with h | h
    · rw [hb] at h; cases h
    · exact h hf
  rw [bodyJournalRead, if_neg (by simp [hl]), if_neg (by simp only [hsrc, hstart, if_true]; omega), if_neg hstate,
    if_pos hsrc]

/-- A read of the mirror takes its good slots from START on, and never consumes. -/
theorem bodyJournalRead_of_mirror (hl : pl.length = 4) (hsrc : fieldAt pl 0 1 = 1) (hpos : 1 ≤ fieldAt pl 2 1)
    (hmax : fieldAt pl 2 1 ≤ 27) (hstart : fieldAt pl 3 1 ≤ 63) (hcons : bit (fieldAt pl 1 1) 0 = false) :
    bodyJournalRead s c pl =
      (s, .ok (leBytes 1 (takeGood (fieldAt pl 2 1) (s.mirrorSlots.drop (fieldAt pl 3 1))).1.length
        ++ leBytes 1 (Nat.min 255 (takeGood (fieldAt pl 2 1) (s.mirrorSlots.drop (fieldAt pl 3 1))).2.2.length)
        ++ leBytes 1 (takeGood (fieldAt pl 2 1) (s.mirrorSlots.drop (fieldAt pl 3 1))).2.1 ++ zeros 1
        ++ ((takeGood (fieldAt pl 2 1) (s.mirrorSlots.drop (fieldAt pl 3 1))).1.map (fun x => x.bytes.take 36)).flatten)) := by
  rw [bodyJournalRead, if_neg (by simp [hl]), if_neg (by simp [hsrc, hcons]; omega), if_neg (by simp [hcons]),
    if_neg (by simp [hsrc])]

/-- With no conversion and no round under way, and time before the next round, the urgent conversion starts. -/
theorem bodyAdcUrgent_of_idle (hi : c.inst ≤ 31) (hc : s.hk.conv = none) (hr : s.hk.round = false)
    (hd : s.epoch + s.hkTicks < s.hk.due) : bodyAdcUrgent s c [] = (s.hkStart c.inst (some c), .later) := by
  rw [bodyAdcUrgent, if_neg (by omega), if_neg (by simp), if_neg (by simp [hc, hr, hd])]

/-- Settles O1: each command is served, and its clause's hypotheses decide the branch that its body takes. -/
theorem hostQueriesAnswer : Obligations.HostQueriesAnswer := by
  unfold Obligations.HostQueriesAnswer
  refine ⟨?ping, ?paramRead, ?coreDump, ?engineDump, ?journal, ?mirror, ?adcUrgent⟩
  case ping => exact fun s h hs => runCommand_of_body hs bodyPing_nil
  case paramRead => exact fun s h pl hs hl hr => runCommand_of_body hs (bodyParamRead_of_checked hl hr)
  case coreDump => exact fun s h hs hc => runCommand_of_body hs (bodyPerfDump_of_core hc)
  case engineDump =>
    exact fun s h hs hc => runCommand_of_body hs (bodyPerfDump_of_engine (congrArg BitVec.toNat hc))
  case journal =>
    exact fun s h pl hs hl hsrc hpos hmax hstart hcons =>
      runCommand_of_body hs (bodyJournalRead_of_journal hl hsrc hpos hmax hstart hcons)
  case mirror =>
    exact fun s h pl hs hl hsrc hpos hmax hstart hcons =>
      runCommand_of_body hs (bodyJournalRead_of_mirror hl hsrc hpos hmax hstart hcons)
  case adcUrgent => exact fun s h hs hi hc hr hd => runCommand_of_body hs (bodyAdcUrgent_of_idle hi hc hr hd)

end Sys2Proof.Proofs

/-! PROOFS. Registers written one after the other, doorbells and ring descriptors (R79 to R85), and CAN FD (R100 to
R103). -/

namespace Sys2Proof.Proofs
open Sys2Proof Sys2Proof.Machine Sys2Proof.Laws

variable {s t : State} {id i : Nat}

/-! Registers. -/

theorem reg_of_r (h : t.r = s.r) (id i : Nat) : t.reg id i = s.reg id i := by
  rw [State.reg, h, State.reg]

/-- A write leaves the other parameters alone. -/
theorem reg_setReg_of_id_ne {id' i' : Nat} (v : Nat) (hi : i < 256) (hi' : i' < 256) (hb : id' ≠ P.engBank) (h : id ≠ id') :
    (s.setReg id' i' v).reg id i = s.reg id i :=
  reg_setReg_ne s v hi hi' hb (fun e => h e.1)

theorem reg_bump (id i top : Nat) : (s.bump id i top).reg id i = satInc top (s.reg id i) :=
  reg_setReg s id i _

theorem reg_bump_ne {id' i' : Nat} (top : Nat) (hi : i < 256) (hi' : i' < 256) (hb : id' ≠ P.engBank) (h : id ≠ id') :
    (s.bump id' i' top).reg id i = s.reg id i :=
  reg_setReg_of_id_ne _ hi hi' hb h

theorem reg_flagGstat (n : Nat) : (s.flagGstat n).reg P.hostGstat 0 = putBit (s.reg P.hostGstat 0) n true :=
  reg_setReg s P.hostGstat 0 _

theorem reg_flagGstat_ne (n : Nat) (hi : i < 256) (h : id ≠ P.hostGstat) : (s.flagGstat n).reg id i = s.reg id i :=
  reg_setReg_of_id_ne (id' := P.hostGstat) (i' := 0) (putBit (s.reg P.hostGstat 0) n true) hi (by decide) (by decide) h

/-! Frames. -/

/-- At most the register file and the host interface differ. -/
def RegsAndHostOnly (s t : State) : Prop := t = { s with r := t.r, host := t.host }

theorem RegsAndHostOnly.trans {u : State} (h : RegsAndHostOnly s t) (k : RegsAndHostOnly t u) : RegsAndHostOnly s u := by
  unfold RegsAndHostOnly at *
  rw [k, h]

theorem setReg_regsAndHostOnly (s : State) (id i v : Nat) : RegsAndHostOnly s (s.setReg id i v) := rfl
theorem flagGstat_regsAndHostOnly (s : State) (n : Nat) : RegsAndHostOnly s (s.flagGstat n) := rfl

theorem setRing_regsAndHostOnly (s : State) (r : Nat) (x : RingSt) : RegsAndHostOnly s (s.setRing r x) := rfl
theorem setIdx_regsAndHostOnly (s : State) (r head tail : Nat) : RegsAndHostOnly s (s.setIdx r head tail) :=
  (setReg_regsAndHostOnly s _ _ _).trans (setReg_regsAndHostOnly _ _ _ _)

theorem settle_regsAndHostOnly (s : State) : RegsAndHostOnly s s.settle := by
  unfold RegsAndHostOnly State.settle
  repeat' split
  all_goals rfl

/-! The indices of a ring (R79, R80). -/

theorem ringHead_lt (r : Nat) : s.ringHead r < 2 ^ 16 := Nat.mod_lt _ (by decide)
theorem ringTail_lt (r : Nat) : s.ringTail r < 2 ^ 16 := Nat.mod_lt _ (by decide)

/-- A movement leaves every register but the ring's indices and its stamp alone. -/
theorem reg_setIdx_ne {r : Nat} (head tail : Nat) (hi : i < 256) (hr : r < 256)
    (h : id ≠ P.hostRingIdx ∧ id ≠ P.hostRingStamp ∨ i ≠ r) : (s.setIdx r head tail).reg id i = s.reg id i := by
  unfold State.setIdx
  rw [reg_setReg_ne _ (id' := P.hostRingStamp) _ hi hr (by decide) (by omega),
    reg_setReg_ne _ (id' := P.hostRingIdx) _ hi hr (by decide) (by omega)]

theorem reg_setIdx_stamp (r head tail : Nat) : (s.setIdx r head tail).reg P.hostRingStamp r = s.epoch :=
  reg_setReg _ _ _ _

theorem reg_setIdx_idx {r : Nat} (head tail : Nat) (hr : r < 256) :
    (s.setIdx r head tail).reg P.hostRingIdx r = head % 2 ^ 16 + (tail % 2 ^ 16) * 2 ^ 16 :=
  (reg_setReg_of_id_ne (id' := P.hostRingStamp) _ hr hr (by decide) (by decide)).trans (reg_setReg _ _ _ _)

theorem ringHead_setIdx {r : Nat} (head tail : Nat) (hr : r < 256) :
    (s.setIdx r head tail).ringHead r = head % 2 ^ 16 := by
  rw [State.ringHead, reg_setIdx_idx head tail hr, bits, Nat.shiftRight_zero]
  omega

theorem ringTail_setIdx {r : Nat} (head tail : Nat) (hr : r < 256) :
    (s.setIdx r head tail).ringTail r = tail % 2 ^ 16 := by
  rw [State.ringTail, reg_setIdx_idx head tail hr, bits, Nat.shiftRight_eq_div_pow]
  omega

theorem ringEntries_setIdx {r : Nat} (head tail : Nat) (hr : r < 256) :
    (s.setIdx r head tail).ringEntries r = s.ringEntries r := by
  rw [State.ringEntries, State.ringCfg, reg_setIdx_ne head tail hr hr (Or.inl (by decide))]
  rfl

/-! Doorbells (R80, R81). -/

/-- A doorbell that the device ignores: it is counted, and RING_CFG.ERR and GSTAT.DB_ERR are set (R81). -/
def doorbellIgnored (s : State) (r : Nat) : State :=
  ((s.bump P.hostDbErr 0 top32).setReg P.hostRingCfg r (putBit (s.ringCfg r) 30 true)).flagGstat 7

/-- A doorbell in step: the consumer's index of a `to_host` ring moves, or the producer's of a `to_device` ring. -/
def doorbellMoved (s : State) (r v : Nat) : State :=
  if cfgDir (s.ringCfg r) then s.setIdx r (s.ringHead r) v else s.advanceHead r v

/-- Neither ring index can take the value v: the ring is not there, or v lies outside what it holds or has free. -/
def OutOfStep (s : State) (r v : Nat) : Prop :=
  31 < r ∨ s.ringOn r = false ∨
    (cfgDir (s.ringCfg r) = true ∧ s.ringFilled r < (v + 2 ^ 16 - s.ringTail r) % 2 ^ 16) ∨
    (cfgDir (s.ringCfg r) = false ∧ s.ringFree r < (v + 2 ^ 16 - s.ringHead r) % 2 ^ 16)

theorem doorbell_of_outOfStep {r v : Nat} (h : OutOfStep s r v) : s.doorbell r v = doorbellIgnored s r := by
  unfold State.doorbell
  by_cases hoff : 31 < r ∨ s.ringOn r = false
  · exact if_pos hoff
  · refine (if_neg hoff).trans ?_
    rcases h with h | h | ⟨hd, h⟩ | ⟨hd, h⟩
    · exact absurd (Or.inl h) hoff
    · exact absurd (Or.inr h) hoff
    · exact (if_pos hd).trans (if_pos h)
    · exact (if_neg (by simp [hd])).trans (if_pos h)

theorem doorbell_of_inStep {r v : Nat} (h : ¬ OutOfStep s r v) :
    s.doorbell r v =
      if cfgDir (s.ringCfg r) then (doorbellMoved s r v).flushResponses else doorbellMoved s r v := by
  unfold OutOfStep at h
  simp only [not_or] at h
  obtain ⟨hlow, hon, hout, hin⟩ := h
  unfold State.doorbell doorbellMoved
  refine (if_neg (not_or.mpr ⟨hlow, hon⟩)).trans ?_
  by_cases hd : cfgDir (s.ringCfg r) = true
  · rw [if_pos hd, if_pos hd, if_pos hd, if_neg (fun h => hout ⟨hd, h⟩)]
  · rw [if_neg hd, if_neg hd, if_neg hd, if_neg (fun h => hin ⟨Bool.eq_false_iff.mpr hd, h⟩)]

theorem doorbellWrite_next (r : Fin 64) (v : Half) (ha : s.awake = true) :
    exec (.doorbellWrite r v) s = .next (s.doorbell r.val v.toNat).settle :=
  fin_if_pos ha

theorem doorbellIgnored_regsAndHostOnly (s : State) (r : Nat) : RegsAndHostOnly s (doorbellIgnored s r) :=
  ((setReg_regsAndHostOnly s _ _ _).trans (setReg_regsAndHostOnly _ _ _ _)).trans (flagGstat_regsAndHostOnly _ 7)

section
variable {r : Nat} (hr : r < 256)
include hr

/-- An ignored doorbell moves no index. -/
theorem reg_doorbellIgnored_idx : (doorbellIgnored s r).reg P.hostRingIdx r = s.reg P.hostRingIdx r := by
  rw [doorbellIgnored, reg_flagGstat_ne _ hr (by decide),
    reg_setReg_of_id_ne _ hr hr (by decide) (by decide),
    reg_bump_ne _ hr (by decide) (by decide) (by decide)]

theorem reg_doorbellIgnored_count :
    (doorbellIgnored s r).reg P.hostDbErr 0 = satInc top32 (s.reg P.hostDbErr 0) := by
  rw [doorbellIgnored, reg_flagGstat_ne _ (by decide) (by decide),
    reg_setReg_of_id_ne _ (by decide) hr (by decide) (by decide), reg_bump]

theorem reg_doorbellIgnored_cfg :
    (doorbellIgnored s r).reg P.hostRingCfg r = putBit (s.reg P.hostRingCfg r) 30 true := by
  rw [doorbellIgnored, reg_flagGstat_ne _ hr (by decide), reg_setReg, State.ringCfg]

theorem reg_doorbellIgnored_gstat :
    (doorbellIgnored s r).reg P.hostGstat 0 = putBit (s.reg P.hostGstat 0) 7 true := by
  rw [doorbellIgnored, reg_flagGstat, reg_setReg_of_id_ne _ (by decide) hr (by decide) (by decide),
    reg_bump_ne _ (by decide) (by decide) (by decide) (by decide)]

end

/-- Settles O34: `doorbellIgnored` is three writes, to HOST.DB_ERR, RING_CFG and HOST.GSTAT. -/
theorem doorbellOutOfStepIsIgnored : Obligations.DoorbellOutOfStepIsIgnored := by
  unfold Obligations.DoorbellOutOfStepIsIgnored
  intro s r v ha h
  have hr : r.val < 256 := by omega
  refine ⟨(doorbellIgnored s r.val).settle, ?_,
    (doorbellIgnored_regsAndHostOnly s r.val).trans (settle_regsAndHostOnly _), ?_, ?_, ?_, ?_⟩
  · rw [doorbellWrite_next r v ha, doorbell_of_outOfStep h]
  · rw [reg_settle, reg_doorbellIgnored_idx hr]
  · rw [reg_settle, reg_doorbellIgnored_count hr]
  · rw [reg_settle, reg_doorbellIgnored_cfg hr]
  · rw [reg_settle, reg_doorbellIgnored_gstat hr]

/-- Of the registers, a doorbell in step writes the indices and the stamp. -/
theorem doorbellMoved_r (r v : Nat) : (doorbellMoved s r v).r =
    (s.setIdx r (if cfgDir (s.ringCfg r) then s.ringHead r else v)
      (if cfgDir (s.ringCfg r) then v else s.ringTail r)).r := by
  unfold doorbellMoved
  split <;> rfl

theorem doorbellMoved_regsAndHostOnly (r v : Nat) : RegsAndHostOnly s (doorbellMoved s r v) := by
  unfold doorbellMoved
  split
  · exact setIdx_regsAndHostOnly _ _ _ _
  · exact (setIdx_regsAndHostOnly _ _ _ _).trans (setRing_regsAndHostOnly _ _ _)

theorem ringHead_doorbellMoved {r v : Nat} (hr : r < 256) (hv : v < 2 ^ 16) :
    (doorbellMoved s r v).ringHead r = if cfgDir (s.ringCfg r) then s.ringHead r else v := by
  rw [State.ringHead, reg_of_r (doorbellMoved_r r v), ← State.ringHead, ringHead_setIdx _ _ hr]
  split
  · exact Nat.mod_eq_of_lt (ringHead_lt r)
  · exact Nat.mod_eq_of_lt hv

theorem ringTail_doorbellMoved {r v : Nat} (hr : r < 256) (hv : v < 2 ^ 16) :
    (doorbellMoved s r v).ringTail r = if cfgDir (s.ringCfg r) then v else s.ringTail r := by
  rw [State.ringTail, reg_of_r (doorbellMoved_r r v), ← State.ringTail, ringTail_setIdx _ _ hr]
  split
  · exact Nat.mod_eq_of_lt hv
  · exact Nat.mod_eq_of_lt (ringTail_lt r)

theorem ringEntries_doorbellMoved {r : Nat} (v : Nat) (hr : r < 256) :
    (doorbellMoved s r v).ringEntries r = s.ringEntries r := by
  rw [State.ringEntries, State.ringCfg, reg_of_r (doorbellMoved_r r v), ← State.ringCfg, ← State.ringEntries,
    ringEntries_setIdx _ _ hr]

/-- A ring that held at most its entries still does: TAIL moves towards HEAD, and HEAD into what is free. -/
theorem ringFilled_doorbellMoved {r v : Nat} (hr : r < 256) (hv : v < 2 ^ 16) (hon : ¬ OutOfStep s r v)
    (hf : s.ringFilled r ≤ s.ringEntries r) :
    (doorbellMoved s r v).ringFilled r ≤ (doorbellMoved s r v).ringEntries r := by
  have hh := ringHead_lt (s := s) r
  have ht := ringTail_lt (s := s) r
  unfold OutOfStep State.ringFree at hon
  rw [ringEntries_doorbellMoved v hr]
  unfold State.ringFilled at hon hf ⊢
  rw [ringHead_doorbellMoved hr hv, ringTail_doorbellMoved hr hv]
  generalize s.ringHead r = head at *
  generalize s.ringTail r = tail at *
  generalize s.ringEntries r = entries at *
  cases hd : cfgDir (s.ringCfg r) with
  | true =>
    have hstep : (v + 2 ^ 16 - tail) % 2 ^ 16 ≤ (head + 2 ^ 16 - tail) % 2 ^ 16 :=
      Nat.le_of_not_lt (fun h => hon (Or.inr (Or.inr (Or.inl ⟨hd, h⟩))))
    simp only [if_true]
    omega
  | false =>
    have hstep : (v + 2 ^ 16 - head) % 2 ^ 16 ≤ entries - (head + 2 ^ 16 - tail) % 2 ^ 16 :=
      Nat.le_of_not_lt (fun h => hon (Or.inr (Or.inr (Or.inr ⟨hd, h⟩))))
    simp only [Bool.false_eq_true, if_false]
    omega

/-- Settles O35: a doorbell in step leads to `doorbellMoved`, whose registers are those of one `setIdx`. -/
theorem doorbellInStepMovesItsIndex : Obligations.DoorbellInStepMovesItsIndex := by
  unfold Obligations.DoorbellInStepMovesItsIndex
  intro s r v ha hlow hon hfill htail hhead
  have hr : r.val < 256 := by omega
  have hstep : ¬ OutOfStep s r.val v.toNat := by
    rintro (h | h | ⟨hd, h⟩ | ⟨hd, h⟩)
    · omega
    · rw [hon] at h; cases h
    · exact absurd (htail hd) (Nat.not_le.mpr h)
    · exact absurd (hhead hd) (Nat.not_le.mpr h)
  refine ⟨doorbellMoved s r.val v.toNat, ?_, flush_none _, doorbellMoved_regsAndHostOnly _ _,
    ringHead_doorbellMoved hr v.isLt, ringTail_doorbellMoved hr v.isLt, ?stamp, ringFilled_doorbellMoved hr v.isLt hstep hfill, ?others⟩
  · rw [doorbellWrite_next r v ha, doorbell_of_inStep hstep]
  case stamp => rw [reg_of_r (doorbellMoved_r _ _), reg_setIdx_stamp]
  case others =>
    intro id i hi h
    rw [reg_of_r (doorbellMoved_r _ _), reg_setIdx_ne _ _ hi hr h]

/-! Frames, messages and timers of the rings (R74, R75, R82, R83, R85, R89, R98). -/

/-- The state after an SPI frame, with what the device sent on SDO. -/
def spiAnswered (x : State × List Byte) (n : Nat) : State :=
  { x.1 with host := { x.1.host with sdo := sdoOf n x.2 } }

theorem spiFrame_of_read {sdi : List Byte} (hl : 4 ≤ sdi.length) (hop : fieldAt sdi 0 1 = 0x0B) :
    s.spiFrame sdi = spiAnswered (s.spiRead sdi) sdi.length := by
  rw [State.spiFrame, if_neg (Nat.not_lt.mpr hl), if_pos hop]
  rfl

theorem spiFrame_of_write {sdi : List Byte} (hl : 4 ≤ sdi.length) (hop : fieldAt sdi 0 1 = 0x02) :
    s.spiFrame sdi = spiAnswered (s.spiWrite sdi) sdi.length := by
  rw [State.spiFrame, if_neg (Nat.not_lt.mpr hl), if_neg (by rw [hop]; decide), if_pos hop]
  rfl

theorem spiReadFrame_next {sdi : List Byte} (hu : s.spiUp = true) (hl : 4 ≤ sdi.length) (hop : fieldAt sdi 0 1 = 0x0B) :
    exec (.spiReadFrame sdi) s = .next (spiAnswered (s.spiRead sdi) sdi.length).settle :=
  (fin_if_pos hu).trans (by rw [spiFrame_of_read hl hop])

theorem spiWriteFrame_next {sdi : List Byte} (hu : s.spiUp = true) (hl : 4 ≤ sdi.length) (hop : fieldAt sdi 0 1 = 0x02) :
    exec (.spiWriteFrame sdi) s = .next (spiAnswered (s.spiWrite sdi) sdi.length).settle :=
  (fin_if_pos hu).trans (by rw [spiFrame_of_write hl hop])

theorem takesFrom_ne_34 {r : Nat} (h : s.takesFrom r = true) : r ≠ 34 := by
  rintro rfl
  simp [State.takesFrom, ringIface] at h

/-- A ring whose turn it is and that holds commands has its message taken. -/
theorem mailboxMessageTaken_next {r : Fin 64} (hf : s.takesFrom r.val = true) (ht : s.inTurn r.val = true) :
    exec (.mailboxMessageTaken r) s = .next ((s.takeTurn r.val).takeMessage r.val).settle :=
  ((fin_if_neg (by simp [ht])).trans (fin_if_neg (takesFrom_ne_34 hf))).trans (fin_if_pos hf)

/-- Settles O9: each clause's hypotheses decide the tests of its command. -/
theorem ringCommandsRun : Obligations.RingCommandsRun := by
  unfold Obligations.RingCommandsRun
  refine ⟨?doorbell, ?enable, ?disable, ?spiRead, ?spiWrite, ?taken, ?satellite, ?timeout, ?lost, ?holdoff⟩
  case doorbell => exact fun s r v ha => doorbellWrite_next r v ha
  case enable => exact fun s r cfg hs hr => fin_if_pos (by simp [hs, hr])
  case disable => exact fun s r hs hr => fin_if_pos (by simp [hs, hr])
  case spiRead => exact fun s sdi hu hl hop => spiReadFrame_next hu hl hop
  case spiWrite => exact fun s sdi hu hl hop => spiWriteFrame_next hu hl hop
  case taken => exact fun s r _ hf ht => mailboxMessageTaken_next hf ht
  case satellite =>
    intro s r hr hw ht
    exact ((fin_if_neg (by simp [ht])).trans (fin_if_pos hr)).trans (fin_if_pos hw)
  case timeout =>
    intro s r n t l he hs hc hon hf ht
    show execMsgTmoExpiry r s = _
    rw [execMsgTmoExpiry, he]
    exact fin_if_pos (by simp only [hs, hc, hon, hf, ht, decide_true, Bool.and_self])
  case lost =>
    intro s r ha hr hl ho hf
    exact fin_if_pos (by simp [ha, hr, hl, ho, hf])
  case holdoff => exact fun s _ => rfl

/-! CAN FD (R100 to R103). -/

section
variable {fr : CanFrame} {c : Byte} {body : List Byte} {m : Reasm}

/-- The message that the segments so far make up enters ring 6 (R103). -/
def canDone (s : State) (bs : List Byte) : State :=
  State.pushCommand { s with host := { s.host with canIn := none } } 6 (trimMessage bs)

/-- The segments so far are kept, and the one after `seg` is awaited (R102). -/
def canKept (s : State) (seg : Nat) (bs : List Byte) : State :=
  { s with host := { s.host with canIn := some { bytes := bs, next := (seg + 1) % 64, stamp := s.epoch } } }

/-- What a segment does to the partial message, by the FIRST, LAST and SEGNO of its control byte (R102). -/
def canSegment (s : State) (c : Byte) (body : List Byte) : State :=
  if bit c.toNat 7 then
    let s := if s.host.canIn.isSome then s.canReasmErr else s
    if c.toNat % 64 ≠ 0 then s.canReasmErr
    else if bit c.toNat 6 then canDone s body else canKept s (c.toNat % 64) body
  else match s.host.canIn with
    | none => s.canReasmErr
    | some m =>
      if m.next ≠ c.toNat % 64 then s.canReasmErr
      else if bit c.toNat 6 then canDone s (m.bytes ++ body) else canKept s (c.toNat % 64) (m.bytes ++ body)

/-- A data frame of CAN FD with a command for this node reaches the reassembler while the controller runs. -/
theorem canFrameReceived_next (ha : s.awake = true) (he : s.reg P.hostCanEn 0 = 1) (hf : fr.fd = true)
    (hr : fr.remote = false) (hu : s.canForUs fr.ident.toNat = true) (hd : fr.data = c :: body) :
    exec (.canFrameReceived fr) s = .next (canSegment s c body).settle := by
  refine (fin_if_neg (by simp [ha, he, hf, hr, hu])).trans ?_
  rw [hd]
  rfl

/-- A first segment that finds no partial message, alone or with more to come. -/
theorem canSegment_of_first (hfirst : bit c.toNat 7 = true) (hseg : c.toNat % 64 = 0) (hin : s.host.canIn = none) :
    canSegment s c body = if bit c.toNat 6 then canDone s body else canKept s 0 body := by
  rw [canSegment, if_pos hfirst, hin]
  exact (if_neg (not_not_intro hseg)).trans (by rw [hseg]; rfl)

/-- A further segment in order. -/
theorem canSegment_of_next (hfirst : bit c.toNat 7 = false) (hin : s.host.canIn = some m) (hseg : m.next = c.toNat % 64) :
    canSegment s c body =
      if bit c.toNat 6 then canDone s (m.bytes ++ body) else canKept s (c.toNat % 64) (m.bytes ++ body) := by
  rw [canSegment, if_neg (by simp [hfirst]), hin]
  exact if_neg (not_not_intro hseg)

/-- A further segment that nothing awaits. -/
theorem canSegment_of_outOfOrder (hfirst : bit c.toNat 7 = false)
    (hord : ∀ m : Reasm, s.host.canIn = some m → m.next ≠ c.toNat % 64) : canSegment s c body = s.canReasmErr := by
  rw [canSegment, if_neg (by simp [hfirst])]
  cases hin : s.host.canIn with
  | none => rfl
  | some m => exact if_pos (hord m hin)

/-- A message of one segment finds no partial message to end. -/
theorem canDone_of_none (hin : s.host.canIn = none) : canDone s body = s.pushCommand 6 (trimMessage body) := by
  have hs : ({ s with host := { s.host with canIn := none } } : State) = s := by rw [← hin]
  rw [canDone, hs]

end

/-- Settles O10: past the guard of `canFrameReceived_next`, the cases of `canSegment`. -/
theorem canCommandsRun : Obligations.CanCommandsRun := by
  unfold Obligations.CanCommandsRun
  refine ⟨?whole, ?first, ?next, ?last, ?outOfOrder, ?timeout, ?busOff, ?passive⟩
  case whole =>
    intro s fr c body ha he hf hr hu hd hfirst hlast hseg hin
    rw [canFrameReceived_next ha he hf hr hu hd, canSegment_of_first hfirst hseg hin, if_pos hlast, canDone_of_none hin]
  case first =>
    intro s fr c body ha he hf hr hu hd hfirst hlast hseg hin
    rw [canFrameReceived_next ha he hf hr hu hd, canSegment_of_first hfirst hseg hin, if_neg (by simp [hlast])]
    rfl
  case next =>
    intro s fr c body m ha he hf hr hu hd hfirst hlast hin hseg
    rw [canFrameReceived_next ha he hf hr hu hd, canSegment_of_next hfirst hin hseg, if_neg (by simp [hlast])]
    rfl
  case last =>
    intro s fr c body m ha he hf hr hu hd hfirst hlast hin hseg
    rw [canFrameReceived_next ha he hf hr hu hd, canSegment_of_next hfirst hin hseg, if_pos hlast]
    rfl
  case outOfOrder =>
    intro s fr c body ha he hf hr hu hd hfirst hord
    rw [canFrameReceived_next ha he hf hr hu hd, canSegment_of_outOfOrder hfirst hord]
  case timeout =>
    intro s m hin ha he
    show execCanSegTmoExpiry s = _
    rw [execCanSegTmoExpiry, hin]
    exact fin_if_pos (by simp [ha, he])
  case busOff => exact fun s ha he => fin_if_pos (by simp [ha, he])
  case passive => exact fun s ha he => fin_if_pos (by simp [ha, he])

/-- KIND is bit 16 of the identifier and the reserved bits stand below it: in a command all of them are 0 (R101). -/
theorem bits_kind_reserved_ne_zero {v : Nat} (h : bit v 16 = true ∨ bits v 0 16 ≠ 0) : bits v 0 17 ≠ 0 := by
  simp only [bit, bits, Nat.testBit_eq_decide_div_mod_eq, decide_eq_true_eq, Nat.shiftRight_zero] at *
  omega

theorem canForUs_of_foreign {v : Nat} (h : bit v 25 = true ∨ bits v 17 8 ≠ s.reg P.hostCanNode 0 ∨ bits v 0 17 ≠ 0) :
    s.canForUs v = false := by
  rw [State.canForUs]
  rcases h with h | h | h <;> simp [h]

/-- Settles O39: each form fails the test that precedes the reassembler. -/
theorem canFramesOfOthersAreIgnored : Obligations.CanFramesOfOthersAreIgnored := by
  unfold Obligations.CanFramesOfOthersAreIgnored
  intro s fr h
  have hrefused : s.canForUs fr.ident.toNat = false ∨ fr.fd = false ∨ fr.remote = true := by
    rcases h with h | h | h | h | h | h
    · exact Or.inl (canForUs_of_foreign (Or.inl h))
    · exact Or.inl (canForUs_of_foreign (Or.inr (Or.inl h)))
    · exact Or.inl (canForUs_of_foreign (Or.inr (Or.inr (bits_kind_reserved_ne_zero (Or.inl h)))))
    · exact Or.inl (canForUs_of_foreign (Or.inr (Or.inr (bits_kind_reserved_ne_zero (Or.inr h)))))
    · exact Or.inr (Or.inl h)
    · exact Or.inr (Or.inr h)
  exact fin_if_pos (by rcases hrefused with h | h | h <;> simp [h])

end Sys2Proof.Proofs

/-! PROOFS. The mailbox: a RETRY and a late command are answered without their body (R87, R88), and a message at TAIL is
the command that its bytes spell (R86, R89, R96). -/

namespace Sys2Proof.Proofs
open Sys2Proof Sys2Proof.Machine Sys2Proof.Laws

variable {s : State} {c : Cmd} {dl : Nat} {pl : List Byte} {body : State → Cmd → List Byte → State × Reply}

/-! Taking a command (R87, R88, R90). -/

/-- Vioskik takes a command from this ring now: it carries commands, it is served, also in a recovery, and its response
ring has room. -/
def HearsRing (s : State) (r : Nat) : Prop :=
  (ringIface r).isSome = true ∧ s.serving = true ∧ (s.recovery && r != 0) = false ∧ s.hasRoom (r + 1) 1004 = true

/-- What a RETRY of the command executed last does: the stored response, where there is one, is written again (R87). -/
def answeredAgain (s : State) (r : Nat) : State :=
  match (s.ring r).executing, (s.ring r).resp with
  | false, some (op, tag, inst, low, rp) => s.writeResponse r op tag inst low rp
  | _, _ => s

theorem answeredAgain_of_executing {r : Nat} (he : (s.ring r).executing = true) : answeredAgain s r = s := by
  rw [answeredAgain, he]

theorem answeredAgain_of_stored {r op tag inst low : Nat} {rp : List Byte} (he : (s.ring r).executing = false)
    (hr : (s.ring r).resp = some (op, tag, inst, low, rp)) :
    answeredAgain s r = s.writeResponse r op tag inst low rp := by
  rw [answeredAgain, he, hr]

theorem answeredAgain_heard (s : State) (r : Nat) : HeardOnly s (answeredAgain s r) := by
  unfold answeredAgain
  split
  · exact (writeResponse_hostOnly _ _ _ _ _ _ _).heard
  · rfl

/-- A RETRY of the command executed last on its ring reaches neither its SEQUENCE nor its body. -/
theorem serve_of_retry (hh : HearsRing s c.ring) (ha : (s.hear c).asksAgain c = true) :
    s.serve c dl pl body = answeredAgain (s.hear c) c.ring := by
  obtain ⟨hi, hs, hrec, hroom⟩ := hh
  obtain ⟨k, hk⟩ := Option.isSome_iff_exists.mp hi
  unfold State.serve
  simp only [hk, hs, hrec, hroom, ha, Bool.not_true, Bool.or_self, Bool.false_eq_true, if_false, if_true]
  rfl

/-- The answer to a command that comes after its deadline: it is counted, and refused with `late` (R88). -/
def answeredLate (s : State) (c : Cmd) : State :=
  (s.bump P.hostLateCnt 0 top32).writeResponse c.ring c.opcode c.tag c.inst (c.arrival % 2 ^ 32)
    (leBytes 2 St.late ++ leBytes 2 0xFFFF)

theorem answeredLate_heard (s : State) (c : Cmd) : HeardOnly s (answeredLate s c) :=
  (setReg_heard s _ _ _).trans (writeResponse_hostOnly _ _ _ _ _ _ _).heard

theorem answeredLate_resp (s : State) (c : Cmd) (r : Nat) : ((answeredLate s c).ring r).resp = (s.ring r).resp :=
  writeResponse_resp (s.bump P.hostLateCnt 0 top32) _ _ _ _ _ _ r

/-- A late command takes its SEQUENCE, and its body is not reached. -/
theorem serve_of_late (hh : HearsRing s c.ring) (ha : (s.hear c).asksAgain c = false) (hl : tooLate c dl = true) :
    s.serve c dl pl body = answeredLate ((s.hear c).noteSeq c) c := by
  obtain ⟨hi, hs, hrec, hroom⟩ := hh
  obtain ⟨k, hk⟩ := Option.isSome_iff_exists.mp hi
  unfold State.serve
  simp only [hk, hs, hrec, hroom, ha, hl, Bool.not_true, Bool.or_self, Bool.false_eq_true, if_false, if_true]
  rfl

/-- Settles O31: `serve_of_retry`, with the two cases of `answeredAgain` that the obligation names. -/
theorem retryIsNotExecutedAgain : Obligations.RetryIsNotExecutedAgain := by
  unfold Obligations.RetryIsNotExecutedAgain
  intro s op h pl i hi hring hs hrec hroom ha
  have hserve : exec i s = .next (answeredAgain (s.hear (cmdOf h op s.epoch)) h.ring.val).settle :=
    (exec_mailbox s hi).trans (congrArg fin (serve_of_retry (c := cmdOf h op s.epoch) ⟨hring, hs, hrec, hroom⟩ ha))
  refine ⟨_, hserve, ?frame, ?executing, ?stored⟩
  case frame =>
    exact ((hear_heard s _).trans (answeredAgain_heard _ _)).trans (settle_hostOnly _).heard
  case executing => exact fun he => by rw [answeredAgain_of_executing he]
  case stored => exact fun o tag inst low rp he hr => by rw [answeredAgain_of_stored he hr]

/-- Settles O32: `serve_of_late`, and writing a response leaves the stored ones alone. -/
theorem lateCommandsAreRefused : Obligations.LateCommandsAreRefused := by
  unfold Obligations.LateCommandsAreRefused
  intro s op h pl i hi hring hs hrec hroom ha hl u
  have hserve : exec i s = .next (answeredLate u (cmdOf h op s.epoch)).settle :=
    (exec_mailbox s hi).trans
      (congrArg fin (serve_of_late (c := cmdOf h op s.epoch) ⟨hring, hs, hrec, hroom⟩ ha hl))
  refine ⟨_, hserve, ?frame, rfl, ?stored⟩
  case frame =>
    exact (((hear_heard s _).trans (noteSeq_hostOnly _ _).heard).trans (answeredLate_heard _ _)).trans
      (settle_hostOnly _).heard
  case stored => exact fun r => by rw [ring_settle, answeredLate_resp]

/-! The message at TAIL (R86, R89, R96). -/

/-- The opcodes of R96 have 16 bits. -/
theorem opcode_lt_of_mailboxInstr {op : Nat} {h : Hdr} {i : Instr} (hi : mailboxInstr op h pl = some i) :
    op < 2 ^ 16 := by
  unfold mailboxInstr at hi
  split at hi
  all_goals cases hi
  all_goals decide

/-- Taking its turn changes nothing of a ring's contents. -/
theorem takeTurn_eq (s : State) (r : Nat) : ∃ l, s.takeTurn r = { s with host := { s.host with turn := l } } := by
  unfold State.takeTurn
  split
  · exact ⟨_, rfl⟩
  · exact ⟨s.host.turn, rfl⟩

theorem ringEsize_ge (s : State) (r : Nat) : 16 ≤ s.ringEsize r :=
  Nat.le_mul_of_pos_right 16 (Nat.two_pow_pos _)

theorem entriesFor_pos (s : State) (r n : Nat) : 0 < s.entriesFor r n := by
  have he := ringEsize_ge s r
  exact Nat.div_pos (by omega) (by omega)

/-- LENGTH stands in the first entry, whatever its size. -/
theorem msgLength_of_entries {r n : Nat} {k : Nat} (hr : r ≠ 34) (hn : 0 < n) (hk : 8 ≤ k) :
    s.msgLength r = fieldAt ((s.readEntries r (s.ringTail r) n).take k) 6 2 := by
  have he := ringEsize_ge s r
  obtain ⟨n, rfl⟩ : ∃ m, n = m + 1 := ⟨n - 1, by omega⟩
  rw [State.msgLength, msgLead, if_neg hr, Nat.add_zero, readBytes_within _ _ 6 2 (s.ringEsize r) (by omega), fieldAt,
    readEntries_succ]
  congr 1
  rw [List.drop_take, List.take_take, List.drop_append_of_le_length (by simp; omega),
    List.take_append_of_le_length (by simp; omega)]
  congr 1
  omega

/-- The header of a message reads back as the command that it spells. -/
theorem cmdOfBytes_messageBytes {op : Nat} (h : Hdr) (now : Nat) (hop : op < 2 ^ 16) (hl : pl.length < 2 ^ 16) :
    cmdOfBytes h.ring.val now (messageBytes op h.tag.toNat h.inst.toNat h.flags.toNat h.deadline.toNat h.seq.toNat pl) =
      cmdOf h op now := by
  obtain ⟨ho, ht, hi, hf, _, _, hs⟩ := message_fields op h.tag.toNat h.inst.toNat h.flags.toNat h.deadline.toNat
    h.seq.toNat pl hop h.tag.isLt h.inst.isLt h.flags.isLt h.deadline.isLt h.seq.isLt hl
  rw [cmdOfBytes, ho, ht, hi, hf, hs]
  rfl

theorem consumeMsg_hostOnly (s : State) (r n : Nat) : HostOnly s (s.consumeMsg r n) :=
  (consume_hostOnly s r n).trans (setRing_hostOnly _ _ _)

theorem consumeMsg_epoch (s : State) (r n : Nat) : (s.consumeMsg r n).epoch = s.epoch := by
  rw [consumeMsg_hostOnly s r n]

/-- A whole message at TAIL is consumed and then served as the command that it spells. -/
theorem takeMessage_of_messageBytes {op : Nat} (h : Hdr) (hop : op < 2 ^ 16) (hr : h.ring.val ≠ 34)
    (hroom : s.hasRoom (h.ring.val + 1) 1004 = true) (hl : pl.length ≤ 1004)
    (hfill : s.entriesFor h.ring.val pl.length ≤ s.ringFilled h.ring.val)
    (hbytes : (s.readEntries h.ring.val (s.ringTail h.ring.val) (s.entriesFor h.ring.val pl.length)).take (20 + pl.length) =
      messageBytes op h.tag.toNat h.inst.toNat h.flags.toNat h.deadline.toNat h.seq.toNat pl) :
    s.takeMessage h.ring.val =
      (s.consumeMsg h.ring.val (s.entriesFor h.ring.val pl.length)).serve (cmdOf h op s.epoch) h.deadline.toNat pl
        (bodyOf op) := by
  obtain ⟨_, _, _, _, hlen, hdl, _⟩ := message_fields op h.tag.toNat h.inst.toNat h.flags.toNat h.deadline.toNat
    h.seq.toNat pl hop h.tag.isLt h.inst.isLt h.flags.isLt h.deadline.isLt h.seq.isLt (by omega)
  obtain ⟨_, hpl, hcrc⟩ := message_payload op h.tag.toNat h.inst.toNat h.flags.toNat h.deadline.toNat h.seq.toNat pl
  have hlength : s.msgLength h.ring.val = pl.length := by
    rw [msgLength_of_entries hr (entriesFor_pos s _ pl.length) (k := 20 + pl.length) (by omega), hbytes, hlen]
  have hentries : s.msgEntries h.ring.val = s.entriesFor h.ring.val pl.length := by
    rw [State.msgEntries, hlength, msgLead, if_neg hr, Nat.add_zero]
  unfold State.takeMessage
  dsimp only
  rw [hroom, hentries, hlength, hbytes, if_neg (by decide), if_neg (Nat.not_lt.mpr hl),
    if_neg (Nat.not_lt.mpr hfill), if_neg (not_not_intro hcrc), hpl, hdl,
    consumeMsg_epoch, cmdOfBytes_messageBytes h s.epoch hop (by omega)]
  rfl

/-- Settles O33: the turn leaves the ring as it is, and the message is served as its command (`exec_mailbox`). -/
theorem mailboxRunsTheSpelledCommand : Obligations.MailboxRunsTheSpelledCommand := by
  unfold Obligations.MailboxRunsTheSpelledCommand
  intro s op h pl i hi hf ht hroom hl hfill hbytes
  obtain ⟨l, hl'⟩ := takeTurn_eq s h.ring.val
  rw [mailboxMessageTaken_next hf ht, exec_mailbox _ hi, hl', runCommand, consumeMsg_epoch]
  have hsame := readEntries_pool (s := s) (t := { s with host := { s.host with turn := l } }) rfl rfl h.ring.val
    (s.entriesFor h.ring.val pl.length) (s.ringTail h.ring.val)
  exact congrArg fin (takeMessage_of_messageBytes (s := { s with host := { s.host with turn := l } }) h
    (opcode_lt_of_mailboxInstr hi) (takesFrom_ne_34 hf) hroom hl hfill ((congrArg (List.take _) hsame).trans hbytes))

end Sys2Proof.Proofs

/-! PROOFS. Write frames of the SPI port (R74, R75, R77, R78), and direct writes of HOST.IRQ_PEND (R98). -/

namespace Sys2Proof.Proofs
open Sys2Proof Sys2Proof.Machine Sys2Proof.Laws

variable {s : State} {sdi : List Byte}

/-! Runs of bytes in memory. -/

/-- Bytes are those of the number that they hold. -/
theorem leBytes_leNat (bs : List Byte) : leBytes bs.length (leNat bs) = bs := by
  induction bs with
  | nil => rfl
  | cons b bs ih =>
    have hb := b.isLt
    have hlow : BitVec.ofNat 8 (b.toNat + 256 * leNat bs) = b := by
      apply BitVec.eq_of_toNat_eq
      rw [BitVec.toNat_ofNat]
      omega
    have hhigh : (b.toNat + 256 * leNat bs) / 256 = leNat bs := by omega
    rw [List.length_cons, leNat, leBytes, hlow, hhigh, ih]

/-- A word of a run is its first four bytes. -/
theorem leBytes_word {bs : List Byte} (h : 4 ≤ bs.length) : leBytes 4 (fieldAt bs 0 4) = bs.take 4 := by
  have hl : (bs.take 4).length = 4 := by simp [h]
  have hb := leBytes_leNat (bs.take 4)
  rwa [hl] at hb

/-- Two runs written one behind the other are one run. -/
theorem writeBytes_append (m : Memory) (a : Nat) (x y : List Byte) :
    m.writeBytes a (x ++ y) = (m.writeBytes a x).writeBytes (a + x.length) y := by
  induction x generalizing m a with
  | nil => rfl
  | cons b x ih =>
    rw [List.cons_append, Memory.writeBytes, ih, Memory.writeBytes, List.length_cons, Nat.add_assoc, Nat.add_comm 1]

/-! The aperture (R78). -/

theorem poolAddr_add_four {o : Nat} (h : 0x8000 ≤ o) : s.poolAddr (o + 4) = s.poolAddr o + 4 := by
  unfold State.poolAddr
  omega

/-- Words written to the aperture are one run of bytes in the ring pool. -/
theorem winWrites_of_aperture {o n : Nat} {bs : List Byte} (ho : 0x8000 ≤ o) (hb : 4 * n ≤ bs.length) :
    s.winWrites o n bs = { s with pool := s.pool.writeBytes (s.poolAddr o) (bs.take (4 * n)) } := by
  induction n generalizing s o bs with
  | zero => rfl
  | succ n ih =>
    have hword : s.winWrite o (fieldAt bs 0 4) =
        { s with pool := s.pool.writeBytes (s.poolAddr o) (bs.take 4) } := by
      rw [State.winWrite, if_pos ho, leBytes_word (by omega)]
    have haddr : State.poolAddr { s with pool := s.pool.writeBytes (s.poolAddr o) (bs.take 4) } (o + 4) =
        s.poolAddr o + (bs.take 4).length := by
      rw [List.length_take_of_le (by omega)]
      exact poolAddr_add_four ho
    rw [State.winWrites, hword, ih (by omega) (by simp; omega), haddr, Nat.mul_succ, Nat.add_comm (4 * n) 4, List.take_add,
      writeBytes_append]

/-! Write frames (R74, R75, R77). -/

/-- What the device sends during a write frame of `len` words: GSTAT, padding, and the write status (R75). -/
def spiWriteSdo (s : State) (len status : Nat) : List Byte :=
  beBytes 4 s.gstat ++ zeros (4 * len + 2) ++ beBytes 2 status

/-- The write status stands behind the CRC of the frame. -/
theorem sdoOf_spiWriteSdo {n len : Nat} (status : Nat) (h : 4 * len + 8 ≤ n) :
    ((sdoOf n (spiWriteSdo s len status)).drop (4 * len + 6)).take 2 = beBytes 2 status := by
  have hhead : (beBytes 4 s.gstat ++ zeros (4 * len + 2)).length = 4 * len + 6 := by simp [beBytes, zeros]; omega
  have hstat : (beBytes 2 status).length = 2 := by simp [beBytes]
  rw [sdoOf, spiWriteSdo, List.drop_take, List.take_take, List.append_assoc, ← hhead, List.drop_left, hhead,
    Nat.min_eq_left (by omega)]
  exact List.take_left' hstat

/-- The CRC of a write frame passes: it covers the header and the data (R74). -/
def spiWriteCrcOk (sdi : List Byte) : Bool :=
  (sdi.drop (4 * fieldAt sdi 3 1 + 8)).take 2 == spiCrc (sdi.take (4 * fieldAt sdi 3 1 + 8))

theorem spiWriteCrcOk_iff : spiWriteCrcOk sdi = true ↔
    (sdi.drop (4 * fieldAt sdi 3 1 + 8)).take 2 = spiCrc (sdi.take (4 * fieldAt sdi 3 1 + 8)) :=
  beq_iff_eq

/-- The window address of a frame. -/
def spiAddr (sdi : List Byte) : Nat := fieldAt sdi 1 1 * 256 + fieldAt sdi 2 1

/-- A frame that ends before its write status. -/
theorem spiWrite_of_short (h : sdi.length < 4 * fieldAt sdi 3 1 + 12) :
    s.spiWrite sdi = (s.spiErr P.hostSpiFrameErr, spiWriteSdo s (fieldAt sdi 3 1 + 1) 0) :=
  if_pos (by omega)

/-- A whole frame is judged by its CRC, then by its address. -/
theorem spiWrite_of_whole (h : 4 * fieldAt sdi 3 1 + 12 ≤ sdi.length) :
    s.spiWrite sdi =
      if !spiWriteCrcOk sdi then (s.spiErr P.hostSpiCrcErr, spiWriteSdo s (fieldAt sdi 3 1 + 1) 0xC33C)
      else if !spiAddrOk (spiAddr sdi) (fieldAt sdi 3 1 + 1) then
        (s.spiErr P.hostSpiFrameErr, spiWriteSdo s (fieldAt sdi 3 1 + 1) 0x3CC3)
      else (s.winWrites (spiAddr sdi) (fieldAt sdi 3 1 + 1) ((sdi.take (4 * fieldAt sdi 3 1 + 8)).drop 4),
        spiWriteSdo s (fieldAt sdi 3 1 + 1) 0x5AA5) := by
  have hbody : 4 + 4 * (fieldAt sdi 3 1 + 1) = 4 * fieldAt sdi 3 1 + 8 := by omega
  unfold State.spiWrite
  dsimp only
  rw [if_neg (by omega), hbody]
  rfl

section
variable {id : Nat} (hg : id ≠ P.hostGstat) (hb : id ≠ P.engBank)
include hg hb

/-- A refused frame: its counter and GSTAT.SPI_ERR, and SDO in the host interface (R77). -/
theorem spiErr_answered (sdo : List Byte) (n : Nat) :
    let t := (spiAnswered (s.spiErr id, sdo) n).settle
    RegsAndHostOnly s t ∧ t.reg id 0 = satInc top32 (s.reg id 0) ∧
      t.reg P.hostGstat 0 = putBit (s.reg P.hostGstat 0) 6 true ∧
      ∀ id' i, i < 256 → id' ≠ id → id' ≠ P.hostGstat → t.reg id' i = s.reg id' i := by
  intro t
  have hr : ∀ id' i, t.reg id' i = (s.spiErr id).reg id' i := fun id' i => (reg_settle _ id' i).trans (reg_of_r rfl id' i)
  refine ⟨?frame, ?count, ?gstat, ?others⟩
  case frame =>
    exact ((setReg_regsAndHostOnly s _ _ _).trans (flagGstat_regsAndHostOnly _ 6)).trans
      (RegsAndHostOnly.trans (t := spiAnswered (s.spiErr id, sdo) n) rfl (settle_regsAndHostOnly _))
  case count => rw [hr, State.spiErr, reg_flagGstat_ne _ (by decide) hg, reg_bump]
  case gstat => rw [hr, State.spiErr, reg_flagGstat, reg_bump_ne _ (by decide) (by decide) hb hg.symm]
  case others =>
    intro id' i hi h1 h2
    rw [hr, State.spiErr, reg_flagGstat_ne _ hi h2, reg_bump_ne _ hi (by decide) hb h1]

end

theorem sdo_spiAnswered (x : State × List Byte) (n : Nat) : (spiAnswered x n).settle.host.sdo = sdoOf n x.2 :=
  sdo_settle _

/-- The write status of a frame whose last word is word `f`. -/
theorem status_spiAnswered {t : State} {f n : Nat} (status : Nat) (h : 4 * f + 12 ≤ n) :
    ((spiAnswered (t, spiWriteSdo s (f + 1) status) n).settle.host.sdo.drop (4 * f + 10)).take 2 = beBytes 2 status := by
  rw [sdo_spiAnswered]
  exact sdoOf_spiWriteSdo (len := f + 1) status (by omega)

/-- Settles O42: the refused cases of `spiWrite`, each a `spiErr` with its counter. -/
theorem refusedSpiWritesChangeNothing : Obligations.RefusedSpiWritesChangeNothing := by
  unfold Obligations.RefusedSpiWritesChangeNothing
  refine ⟨?crc, ?addr, ?short⟩
  case crc =>
    intro s sdi hu hop hl hwhole hcrc
    obtain ⟨hframe, hcount, hgstat, hothers⟩ := spiErr_answered (s := s) (id := P.hostSpiCrcErr) (by decide) (by decide)
      (spiWriteSdo s (fieldAt sdi 3 1 + 1) 0xC33C) sdi.length
    refine ⟨_, ?_, hframe, hcount, hgstat, hothers, status_spiAnswered 0xC33C hwhole⟩
    rw [spiWriteFrame_next hu hl hop, spiWrite_of_whole hwhole, if_pos (by simpa [spiWriteCrcOk] using hcrc)]
  case addr =>
    intro s sdi hu hop hl hwhole hcrc haddr
    obtain ⟨hframe, hcount, hgstat, hothers⟩ := spiErr_answered (s := s) (id := P.hostSpiFrameErr) (by decide) (by decide)
      (spiWriteSdo s (fieldAt sdi 3 1 + 1) 0x3CC3) sdi.length
    refine ⟨_, ?_, hframe, hcount, hgstat, hothers, status_spiAnswered 0x3CC3 hwhole⟩
    have hbad : spiAddrOk (spiAddr sdi) (fieldAt sdi 3 1 + 1) = false := haddr
    rw [spiWriteFrame_next hu hl hop, spiWrite_of_whole hwhole, if_neg (by simp [spiWriteCrcOk_iff.mpr hcrc]),
      if_pos (by simp [hbad])]
  case short =>
    intro s sdi hu hop hl hshort
    obtain ⟨hframe, hcount, hgstat, hothers⟩ := spiErr_answered (s := s) (id := P.hostSpiFrameErr) (by decide) (by decide)
      (spiWriteSdo s (fieldAt sdi 3 1 + 1) 0) sdi.length
    refine ⟨_, ?_, hframe, hcount, hgstat, hothers⟩
    rw [spiWriteFrame_next hu hl hop, spiWrite_of_short hshort]

theorem HostOnly.with_r {t : State} (h : HostOnly s t) (hr : t.r = s.r) : t = { s with pool := t.pool, host := t.host } := by
  unfold HostOnly at h
  rwa [hr] at h

/-- The state after a write of the data of a frame to the aperture. -/
def apertureWritten (s : State) (sdi : List Byte) : State :=
  { s with pool := s.pool.writeBytes (s.poolAddr (spiAddr sdi)) ((sdi.drop 4).take (4 * fieldAt sdi 3 1 + 4)) }

theorem apertureWritten_hostOnly (s : State) (sdi : List Byte) : HostOnly s (apertureWritten s sdi) := rfl
theorem spiAnswered_hostOnly (x : State × List Byte) (n : Nat) : HostOnly x.1 (spiAnswered x n) := rfl

theorem spiWrite_of_aperture (hwhole : 4 * fieldAt sdi 3 1 + 12 ≤ sdi.length) (hcrc : spiWriteCrcOk sdi = true)
    (haddr : spiAddrOk (spiAddr sdi) (fieldAt sdi 3 1 + 1) = true) (hap : 0x8000 ≤ spiAddr sdi) :
    s.spiWrite sdi = (apertureWritten s sdi, spiWriteSdo s (fieldAt sdi 3 1 + 1) 0x5AA5) := by
  have hdata : ((sdi.take (4 * fieldAt sdi 3 1 + 8)).drop 4).take (4 * (fieldAt sdi 3 1 + 1)) =
      (sdi.drop 4).take (4 * fieldAt sdi 3 1 + 4) := by
    rw [List.drop_take, List.take_take]
    congr 1
    omega
  rw [spiWrite_of_whole hwhole, if_neg (by simp [hcrc]), if_neg (by simp [haddr]),
    winWrites_of_aperture hap (by simp; omega), hdata, apertureWritten]

/-- Settles O43: `apertureWritten` is one run of bytes in the pool, which reads back and leaves the others alone. -/
theorem spiWritesReachTheAperture : Obligations.SpiWritesReachTheAperture := by
  unfold Obligations.SpiWritesReachTheAperture
  intro s sdi hu hop hwhole hcrc haddr hap
  have hlen : ((sdi.drop 4).take (4 * fieldAt sdi 3 1 + 4)).length = 4 * fieldAt sdi 3 1 + 4 := by simp; omega
  have hpool : (spiAnswered (apertureWritten s sdi, spiWriteSdo s (fieldAt sdi 3 1 + 1) 0x5AA5) sdi.length).settle.pool =
      s.pool.writeBytes (s.poolAddr (spiAddr sdi)) ((sdi.drop 4).take (4 * fieldAt sdi 3 1 + 4)) := settle_pool _
  refine ⟨(spiAnswered (apertureWritten s sdi, spiWriteSdo s (fieldAt sdi 3 1 + 1) 0x5AA5) sdi.length).settle, ?_,
    ?written, ?others, ?frame, status_spiAnswered 0x5AA5 hwhole⟩
  · rw [spiWriteFrame_next hu (by omega) hop, spiWrite_of_aperture hwhole (spiWriteCrcOk_iff.mpr hcrc) haddr hap]
  case written =>
    have hread := memory_readBytes_writeBytes s.pool (s.poolAddr (spiAddr sdi)) ((sdi.drop 4).take (4 * fieldAt sdi 3 1 + 4))
    rw [hlen] at hread
    rw [hpool]
    exact hread
  case others =>
    intro a ha
    rw [hpool]
    exact memory_read_writeBytes_outside _ _ _ _ (by rw [hlen, ← Nat.add_assoc]; exact ha)
  case frame =>
    exact HostOnly.with_r (((apertureWritten_hostOnly s sdi).trans (spiAnswered_hostOnly _ _)).trans (settle_hostOnly _))
      (settle_r _)

/-! Direct writes of HOST.IRQ_PEND (R98). -/

/-- Taking away bits that a number has clears them. -/
theorem bit_sub_and (x y n : Nat) : bit (x - (x &&& y)) n = (bit x n && !bit y n) := by
  unfold bit
  induction n generalizing x y with
  | zero =>
    have hle : x &&& y ≤ x := Nat.and_le_left
    have hodd := Nat.and_mod_two_eq_one (a := x) (b := y)
    rw [Bool.eq_iff_iff]
    simp only [Nat.testBit_zero, Bool.and_eq_true, Bool.not_eq_true', decide_eq_true_eq, decide_eq_false_iff_not]
    omega
  | succ n ih =>
    have hle : x &&& y ≤ x := Nat.and_le_left
    have hodd := Nat.and_mod_two_eq_one (a := x) (b := y)
    have hhalf : (x - (x &&& y)) / 2 = x / 2 - (x / 2 &&& y / 2) := by
      rw [← Nat.and_div_two]
      omega
    rw [Nat.testBit_succ, Nat.testBit_succ, Nat.testBit_succ, hhalf, ih]

/-- A write-1-to-clear register `x` after a write of `v`, where the bits of `keep` were set on the same tick (R98). -/
def clearedBy (x v keep : Nat) : Nat := x - ((x &&& v) - (x &&& v &&& keep))

theorem bit_clearedBy (x v keep n : Nat) :
    bit (clearedBy x v keep) n = (bit x n && (!bit v n || bit keep n)) := by
  have hgone : ∀ k, bit ((x &&& v) - (x &&& v &&& keep)) k = (bit x k && bit v k && !bit keep k) := by
    intro k
    rw [bit_sub_and, bit, Nat.testBit_and]
    rfl
  have hwithin : x &&& ((x &&& v) - (x &&& v &&& keep)) = (x &&& v) - (x &&& v &&& keep) := by
    apply Nat.eq_of_testBit_eq
    intro k
    have hk := hgone k
    unfold bit at hk
    rw [Nat.testBit_and, hk]
    cases x.testBit k <;> rfl
  rw [clearedBy, ← hwithin, bit_sub_and, hgone]
  cases bit x n <;> cases bit v n <;> cases bit keep n <;> rfl

/-- The row of HOST.IRQ_PEND. -/
def irqPendRow : ParamRow :=
  ⟨P.hostIrqPend, 64, 0xFFFFFFFFFFFFFFFF, .one, .none, .w1c, .immediate, .any, .val 0x0, .none, false⟩

theorem directRow_irqPend : directRow (BitVec.ofNat 16 P.hostIrqPend).toNat (0 : Byte).toNat = some irqPendRow := by
  decide

/-- A write of a write-1-to-clear register clears the bits written, but for those of this tick. -/
theorem govern_of_w1c {id i page v : Nat} {row : ParamRow} (hrow : paramRow id = some row) (hw : row.access = .w1c) :
    s.govern id i page v = s.setReg id i (clearedBy (s.reg id i) (v &&& row.mask) (s.setNow id)) := by
  rw [State.govern, hrow]
  exact if_pos hw

theorem applyStaged_irqPend (page : Nat) (v : DWord) : s.applyStaged (.write P.hostIrqPend 0 page v.toNat) =
    s.setReg P.hostIrqPend 0 (clearedBy (s.reg P.hostIrqPend 0) v.toNat (s.setNow P.hostIrqPend)) := by
  have hrow : paramRow P.hostIrqPend = some irqPendRow := by decide
  have hmask : v.toNat &&& irqPendRow.mask = v.toNat :=
    (Nat.and_two_pow_sub_one_eq_mod v.toNat 64).trans (Nat.mod_eq_of_lt v.isLt)
  have hgov : s.applyStaged (.write P.hostIrqPend 0 page v.toNat) = s.govern P.hostIrqPend 0 page v.toNat := by
    rw [State.applyStaged, hrow]
    rfl
  rw [hgov, govern_of_w1c hrow rfl, hmask]

/-- Only the bits set on this tick survive a clear of this tick. -/
theorem bit_setNow_irqPend (n : Nat) :
    bit (s.setNow P.hostIrqPend) n = (decide (s.host.setAt = s.epoch) && bit s.host.setPend n) := by
  unfold State.setNow
  by_cases h : s.host.setAt = s.epoch
  · simp [h]
  · simp [h, bit]

theorem registerWrite_irqPend_next (i : Iface) (v : DWord) (hs : s.serving = true) :
    exec (.registerWrite i (BitVec.ofNat 16 P.hostIrqPend) 0 v) s = .next (s.setReg P.hostIrqPend 0
      (clearedBy (s.reg P.hostIrqPend 0) v.toNat (s.setNow P.hostIrqPend))).settle := by
  have hrange : itemRange irqPendRow v.toNat = true := by
    have hbits : v.toNat < 2 ^ irqPendRow.bits := v.isLt
    rw [itemRange, valueOk, decide_eq_true hbits]
    rfl
  rw [registerWrite_next v directRow_irqPend hs rfl (Or.inl rfl), directWrite_of_checks rfl hrange rfl,
    ← applyStaged_irqPend]
  rfl

/-- Settles O41: the write is one `clearedBy` of the register. -/
theorem flagsSetOnTheTickOfAClearStay : Obligations.FlagsSetOnTheTickOfAClearStay := by
  unfold Obligations.FlagsSetOnTheTickOfAClearStay
  intro s i v hs
  refine ⟨_, registerWrite_irqPend_next i v hs, ?bits, ?others, ?frame⟩
  case bits =>
    intro n
    rw [reg_settle, reg_setReg, bit_clearedBy, bit_setNow_irqPend]
  case others =>
    intro id j hj hid
    rw [reg_settle, reg_setReg_of_id_ne _ hj (by decide) (by decide) hid]
  case frame => exact (setReg_regsAndHostOnly s _ _ _).trans (settle_regsAndHostOnly _)

end Sys2Proof.Proofs

/-! PROOFS. Transactions: their commands and bank swaps (R104 to R117, R304), a commit that fails (R112), and the timers
of transactions, of the saved record, of the background tasks and of the host-fed temperatures. -/

namespace Sys2Proof.Proofs
open Sys2Proof Sys2Proof.Machine Sys2Proof.Laws

variable {s t : State} {c : Cmd} {pl : List Byte} {l : List Staged} {v : Viol}

/-! TXN_BEGIN, TXN_COMMIT and TXN_ROLLBACK (R104, R110 to R117). -/

theorem bodyTxnBegin_of_closed (ho : (s.txnOf c.iface).isOpen = false) :
    bodyTxnBegin s c [] = (s.setTxn c.iface { isOpen := true, pairs := [], idle := s.epoch }, .ok []) := by
  simp [bodyTxnBegin, ho]

theorem bodyTxnBegin_of_open (ho : (s.txnOf c.iface).isOpen = true) :
    bodyTxnBegin s c [] = (s, .refuse St.txnOpen) := by
  simp [bodyTxnBegin, ho]

theorem bodyTxnRollback_of_open (ho : (s.txnOf c.iface).isOpen = true) :
    bodyTxnRollback s c [] = (s.setTxn c.iface {}, .ok (leBytes 2 (s.txnOf c.iface).pairs.length)) := by
  simp [bodyTxnRollback, ho]

theorem bodyTxnRollback_of_closed (ho : (s.txnOf c.iface).isOpen = false) :
    bodyTxnRollback s c [] = (s, .refuse St.noTxn) := by
  simp [bodyTxnRollback, ho]

theorem bodyTxnCommit_of_closed (hl : pl.length = 1) (ho : (s.txnOf c.iface).isOpen = false) :
    bodyTxnCommit s c pl = (s, .refuse St.noTxn) := by
  simp [bodyTxnCommit, hl, ho]

section
variable (hl : pl.length = 1) (ho : (s.txnOf c.iface).isOpen = true)
  (hsave : bit (fieldAt pl 0 1) 0 = false ∨ s.txn.saving = none)
include hl ho hsave

theorem bodyTxnCommit_of_valid (hv : s.validate (s.txnOf c.iface).pairs = none) :
    bodyTxnCommit s c pl =
      (s.setTxn c.iface {}).accept c (s.txnOf c.iface).pairs (bit (fieldAt pl 0 1) 0) := by
  rcases hsave with h | h <;> simp [bodyTxnCommit, hl, ho, h, hv]

theorem bodyTxnCommit_of_failing (hv : s.validate (s.txnOf c.iface).pairs = some v) :
    bodyTxnCommit s c pl = ((s.commitFails v).restartIdle c.iface,
      .now v.status (stagedAt (s.txnOf c.iface).pairs v) (failData v)) := by
  rcases hsave with h | h <;> simp [bodyTxnCommit, hl, ho, h, hv]

end

/-- Settles O53: the tests of the transaction's state come before all others but that of the length. -/
theorem oneTransactionPerInterface : Obligations.OneTransactionPerInterface := by
  unfold Obligations.OneTransactionPerInterface
  exact ⟨fun s h hs ho => runCommand_of_body hs (bodyTxnBegin_of_open ho),
    fun s h pl hs hl ho => runCommand_of_body hs (bodyTxnCommit_of_closed hl ho),
    fun s h hs ho => runCommand_of_body hs (bodyTxnRollback_of_closed ho)⟩

/-! A commit that fails (R112). -/

theorem commitFails_regsAndHostOnly (s : State) (v : Viol) : RegsAndHostOnly s (s.commitFails v) := by
  unfold State.commitFails
  dsimp only
  split
  · exact ((setReg_regsAndHostOnly s _ _ _).trans (setReg_regsAndHostOnly _ _ _ _)).trans (flagGstat_regsAndHostOnly _ 8)
  · exact setReg_regsAndHostOnly s _ _ _

/-- A failed commit is counted, and a refused ring descriptor shows it in RING_CFG.ERR and GSTAT; no other register
changes. -/
theorem reg_commitFails_ne {id i : Nat} (hi : i < 256) (hv : v.inst < 256) (hcnt : id ≠ P.txnFailCnt)
    (hcfg : id ≠ P.hostRingCfg) (hgstat : id ≠ P.hostGstat) : (s.commitFails v).reg id i = s.reg id i := by
  have hbump : (s.bump P.txnFailCnt 0 top32).reg id i = s.reg id i :=
    reg_bump_ne top32 hi (by decide) (by decide) hcnt
  unfold State.commitFails
  dsimp only
  split
  · rw [reg_flagGstat_ne _ hi hgstat]
    exact (reg_setReg_of_id_ne (id' := P.hostRingCfg) _ hi hv (by decide) hcfg).trans hbump
  · exact hbump

/-- Beside the idle timer the transaction stays as it is. -/
theorem txnOf_restartIdle (s : State) (k : Nat) : (s.restartIdle k).txnOf k = { s.txnOf k with idle := s.epoch } :=
  txnOf_setTxn s k _

theorem txnOf_restartIdle_ne {k j : Nat} (h : j ≠ k) : (s.restartIdle k).txnOf j = s.txnOf j :=
  txnOf_setTxn_ne s _ h

theorem txn_of_regsAndHostOnly (h : RegsAndHostOnly s t) : t.txn = s.txn := by rw [h]

theorem txnOf_commitFails (s : State) (v : Viol) (k : Nat) : (s.commitFails v).txnOf k = s.txnOf k := by
  rw [State.txnOf, txn_of_regsAndHostOnly (commitFails_regsAndHostOnly s v), State.txnOf]

/-- The state after a commit that fails, but for its answer. -/
def failedCommit (s : State) (k : Nat) (v : Viol) : State := (s.commitFails v).restartIdle k

theorem txnOf_failedCommit (s : State) (k : Nat) (v : Viol) :
    (failedCommit s k v).txnOf k = { s.txnOf k with idle := (s.commitFails v).epoch } := by
  rw [failedCommit, txnOf_restartIdle, txnOf_commitFails]

theorem txnOf_failedCommit_ne {k j : Nat} (v : Viol) (h : j ≠ k) : (failedCommit s k v).txnOf j = s.txnOf j := by
  rw [failedCommit, txnOf_restartIdle_ne h, txnOf_commitFails]

/-- No pair comes to wait for its boundary, and no commit for its response. -/
theorem failedCommit_waits (s : State) (k : Nat) (v : Viol) :
    (failedCommit s k v).txn.waiting = s.txn.waiting ∧ (failedCommit s k v).txn.commits = s.txn.commits := by
  have htxn := txn_of_regsAndHostOnly (commitFails_regsAndHostOnly s v)
  have hwaiting : (failedCommit s k v).txn.waiting = (s.commitFails v).txn.waiting := rfl
  have hcommits : (failedCommit s k v).txn.commits = (s.commitFails v).txn.commits := rfl
  exact ⟨by rw [hwaiting, htxn], by rw [hcommits, htxn]⟩

theorem failedCommit_frame (s : State) (k : Nat) (v : Viol) :
    failedCommit s k v = { s with r := (failedCommit s k v).r, host := (failedCommit s k v).host,
                                  txn := (failedCommit s k v).txn } := by
  have hfails := commitFails_regsAndHostOnly s v
  unfold RegsAndHostOnly at hfails
  rw [failedCommit, State.restartIdle, hfails]
  rfl

/-! What the answer to a command leaves alone. -/

theorem settled_reply_hostOnly (s : State) (c : Cmd) (r : Reply) : HostOnly s (s.reply c r).settle :=
  (reply_hostOnly s c r).trans (settle_hostOnly _)

theorem settled_reply_keepsRegs (s : State) (r : Reply) (hr : c.ring < 64) : KeepsRegs s (s.reply c r).settle :=
  (reply_keepsRegs s c r hr).trans (settle_keepsRegs _)

theorem txn_settled_reply (s : State) (c : Cmd) (r : Reply) : (s.reply c r).settle.txn = s.txn := by
  rw [settled_reply_hostOnly s c r]

theorem txnOf_settled_reply (s : State) (c : Cmd) (r : Reply) (k : Nat) : (s.reply c r).settle.txnOf k = s.txnOf k := by
  rw [State.txnOf, txn_settled_reply, State.txnOf]

/-- Settles O44: the body ends in `failedCommit`, and its answer leaves the transactions and all registers but the
interface's own alone. -/
theorem failedCommitAppliesNothing : Obligations.FailedCommitAppliesNothing := by
  unfold Obligations.FailedCommitAppliesNothing
  intro s h pl v hs c u hl ho hsave hv hinst
  have hbody : bodyTxnCommit u c pl = (failedCommit u c.iface v,
      .now v.status (stagedAt (u.txnOf c.iface).pairs v) (failData v)) := bodyTxnCommit_of_failing hl ho hsave hv
  obtain ⟨hwaiting, hcommits⟩ := failedCommit_waits u c.iface v
  refine ⟨_, runCommand_of_body hs hbody, rfl, ?stillOpen, ?pairs, ?others, ?waiting, ?commits, ?frame, ?regs⟩
  case stillOpen => rw [txnOf_settled_reply, txnOf_failedCommit, ho]
  case pairs => rw [txnOf_settled_reply, txnOf_failedCommit]
  case others => exact fun k hk => by rw [txnOf_settled_reply, txnOf_failedCommit_ne v hk]
  case waiting => rw [txn_settled_reply, hwaiting]
  case commits => rw [txn_settled_reply, hcommits]
  case frame =>
    have hhost := settled_reply_hostOnly (failedCommit u c.iface v) c
      (.now v.status (stagedAt (u.txnOf c.iface).pairs v) (failData v))
    unfold HostOnly at hhost
    rw [hhost, failedCommit_frame]
  case regs =>
    intro id i hi hown hcnt hcfg
    have hgstat : id ≠ P.hostGstat := fun e => hown (e ▸ by decide)
    rw [settled_reply_keepsRegs _ _ h.ring.isLt id i hi hown]
    exact reg_commitFails_ne hi hinst hcnt hcfg hgstat

/-! PARAM_WRITE (R105, R109). -/

theorem bodyParamWrite_of_open (ho : (s.txnOf c.iface).isOpen = true)
    (hstage : s.stageItems c.iface (s.txnOf c.iface).pairs 0 (pl.length + 1) pl = (none, l)) :
    bodyParamWrite s c pl = (s.setTxn c.iface { s.txnOf c.iface with pairs := l, idle := s.epoch }, .ok []) := by
  simp [bodyParamWrite, ho, hstage]

theorem bodyParamWrite_of_closed (ho : (s.txnOf c.iface).isOpen = false)
    (hstage : s.stageItems c.iface [] 0 (pl.length + 1) pl = (none, l)) (hv : s.validate l = none) :
    bodyParamWrite s c pl = s.accept c l false := by
  simp [bodyParamWrite, ho, hstage, hv]

/-! ENG_SWAP (R108, R304). -/

/-- In an open transaction the swap is staged, and the transaction's idle timer restarts. -/
theorem bodyEngSwap_of_open (hd : c.inst ≤ 3) (hl : pl.length = 1) (ho : (s.txnOf c.iface).isOpen = true)
    (hc : s.computes c.inst = true) (hp : (s.restartIdle c.iface).swapPending c.inst = false)
    (hnew : (s.txnOf c.iface).pairs.any (samePair (.swap c.inst (bit (fieldAt pl 0 1) 0))) = false)
    (hstage : stagePair (s.txnOf c.iface).pairs (.swap c.inst (bit (fieldAt pl 0 1) 0)) = some l) :
    bodyEngSwap s c pl =
      ((s.restartIdle c.iface).setTxn c.iface { (s.restartIdle c.iface).txnOf c.iface with pairs := l }, .ok []) := by
  have hc' : (s.restartIdle c.iface).computes c.inst = true := hc
  simp [bodyEngSwap, ho, Nat.not_lt.mpr hd, hl, hc', hp, hnew, hstage]

/-- Outside a transaction the swap takes effect at the drive's next boundary, or at once where the drive has none. -/
theorem bodyEngSwap_of_closed (hd : c.inst ≤ 3) (hl : pl.length = 1) (ho : (s.txnOf c.iface).isOpen = false)
    (hc : s.computes c.inst = true) (hp : s.swapPending c.inst = false) :
    bodyEngSwap s c pl =
      if s.takesLater c.inst then
        (s.modDrv c.inst (fun y => { y with foc := { y.foc with swap := some (bit (fieldAt pl 0 1) 0, some c) } }), .later)
      else
        (s.swapBanks c.inst (bit (fieldAt pl 0 1) 0), .ok (leBytes 8 (s.swapBanks c.inst (bit (fieldAt pl 0 1) 0)).epoch
          ++ leBytes 1 ((s.swapBanks c.inst (bit (fieldAt pl 0 1) 0)).reg P.engBank c.inst % 2))) := by
  simp [bodyEngSwap, ho, Nat.not_lt.mpr hd, hl, hc, hp]

/-- Settles O2: each command is served, and its clause's hypotheses decide the branch that its body takes. -/
theorem transactionCommandsRun : Obligations.TransactionCommandsRun := by
  unfold Obligations.TransactionCommandsRun
  refine ⟨?txnBegin, ?commit, ?rollback, ?writeStaged, ?writeAlone, ?swapStaged, ?swapNow, ?swapLater⟩
  case txnBegin => exact fun s h hs ho => runCommand_of_body hs (bodyTxnBegin_of_closed ho)
  case commit =>
    exact fun s h pl hs hl ho hsave hv => runCommand_of_body hs (bodyTxnCommit_of_valid hl ho hsave hv)
  case rollback => exact fun s h hs ho => runCommand_of_body hs (bodyTxnRollback_of_open ho)
  case writeStaged => exact fun s h pl l hs ho hst => runCommand_of_body hs (bodyParamWrite_of_open ho hst)
  case writeAlone =>
    exact fun s h pl l hs ho hst hv => runCommand_of_body hs (bodyParamWrite_of_closed ho hst hv)
  case swapStaged =>
    exact fun s h pl l hs hd hl ho hc hp hn hst =>
      runCommand_of_body hs (bodyEngSwap_of_open hd hl ho hc hp hn hst)
  case swapNow =>
    exact fun s h pl hs hd hl ho hc hp ht =>
      runCommand_of_body hs ((bodyEngSwap_of_closed hd hl ho hc hp).trans (if_neg (Bool.eq_false_iff.mp ht)))
  case swapLater =>
    exact fun s h pl hs hd hl ho hc hp ht =>
      runCommand_of_body hs ((bodyEngSwap_of_closed hd hl ho hc hp).trans (if_pos ht))

/-! The timers (R70, R71, R114, R116, R117, R131). -/

/-- Settles O11: each clause's hypotheses decide the tests of its command. -/
theorem timersOfCommandsRun : Obligations.TimersOfCommandsRun := by
  unfold Obligations.TimersOfCommandsRun
  refine ⟨?idleExpiry, ?saveDone, ?commitResponse, ?chunkStart, ?chunkEnd, ?waitExpiry, ?pauseEnd, ?slowExpiry⟩
  case idleExpiry => exact fun s i hs ho he => fin_if_pos (by simp [hs, ho, he])
  case saveDone =>
    intro s r t hr hs
    show execConfigSaveDone s = _
    rw [execConfigSaveDone, hr]
    exact fin_if_pos hs
  case commitResponse => exact fun s i hs => fin_if_neg (by simp [hs])
  case chunkStart =>
    intro s t p hf hch
    refine (fin_if_neg (by simp [hf])).trans ?_
    rw [hch]
  case chunkEnd =>
    intro s p t hc ha hover
    show execBgChunkEnd s = _
    rw [execBgChunkEnd, hc]
    exact fin_if_neg (by rcases hover with h | h <;> simp [ha, h])
  case waitExpiry =>
    intro s p t ha hr hawake hlate he
    show execBgWaitExpiry p s = _
    simp only [execBgWaitExpiry, ha, if_true, hr]
    exact fin_if_pos (by simp [hawake, hlate, he])
  case pauseEnd =>
    intro s t hp ht
    show execThrottlePauseEnd s = _
    rw [execThrottlePauseEnd, hp]
    exact fin_if_pos ht
  case slowExpiry =>
    intro s g d t u ho ha hw hm he
    show execSlowTmoExpiry g s = _
    simp only [execSlowTmoExpiry, ho, ha]
    exact fin_if_pos (by simp [hw, hm, he])

end Sys2Proof.Proofs

/-! PROOFS. The gates of the generators: STO turns every gate of its die off whatever else forces it (R160 to R165, R345,
R346), a compare edge, the end of a dead time, a trip and STO short no leg (R140, R142, R163), and the refusals of
TRIP_CLEAR (R167). -/

namespace Sys2Proof.Proofs
open Sys2Proof Sys2Proof.Machine Sys2Proof.Laws

variable {s t : State} {i : Instr} {c : Cmd} {pl : List Byte}

/-! Safe torque off (R345, R346). -/

/-- The generators of a driver die. -/
def dieGens (j : Nat) : List Nat := ((dieBridges j).map gensOfBridge).flatten

/-- Driver die 0 carries G0 to G5 and driver die 1 carries G6 to G11. -/
theorem mem_dieGens {j g : Nat} (hj : j < 2) : g ∈ dieGens j ↔ 6 * j ≤ g ∧ g < 6 * j + 6 := by
  have hcases : j = 0 ∨ j = 1 := by omega
  rcases hcases with rfl | rfl <;> simp [dieGens, dieBridges, gensOfBridge] <;> omega

/-- The state in which an activation on die `j` has latched and forced its generators. -/
def stoForced (s : State) (j : Nat) : State :=
  (s.setDie j { s.die j with latch := true }).force 10 1 s.nowF (dieGens j)

/-- What follows the forcing, the count and the reports of an activation, leaves the generators alone. -/
theorem stoForced_calm_stoTake {j : Nat} (hj : j < 2) (stob : Bool) : Calm (stoForced s j) (s.stoTake j stob) := by
  unfold State.stoTake
  extract_lets die latched forced counted reported
  have hcount : Calm forced counted :=
    bump_calm forced (id := P.gateStoCnt) (i := j + 1) top32 (by decide) (by decide) (by omega)
  have hreport : Calm forced reported := hcount.trans (report_calm _ _ _ _ _ _ _ _)
  split
  · exact hreport.trans (unlive_calm _ _ _)
  · exact hreport

/-- A generator in its own interlock group is off and latched once STO has acted on its die. -/
theorem stoTake_off {j g : Nat} (hj : j < 2) (stob : Bool)
    (hm : ∀ g, 6 * j ≤ g → g < 6 * j + 6 → bit (s.reg P.pwmIlMap g) g = true) (hlow : 6 * j ≤ g) (hhigh : g < 6 * j + 6) :
    ((s.stoTake j stob).gen g).gh = false ∧ ((s.stoTake j stob).gen g).gl = false ∧
      bit ((s.stoTake j stob).gen g).fOff 10 = true := by
  have hgroup : ∀ k ∈ dieGens j, k < 12 ∧ bit (s.reg P.pwmIlMap k) k = true := by
    intro k hk
    obtain ⟨h1, h2⟩ := (mem_dieGens hj).mp hk
    exact ⟨by omega, hm k h1 h2⟩
  obtain ⟨hgh, hgl, hlatch, -⟩ :=
    forceSto_off (s.setDie j { s.die j with latch := true }) s.nowF (dieGens j) hgroup g ((mem_dieGens hj).mpr ⟨hlow, hhigh⟩)
  rw [(stoForced_calm_stoTake hj stob).gen g]
  exact ⟨hgh, hgl, hlatch⟩

/-- In HALF and FULL an input that was high acts on its die, whose levels the activation has brought up to date. -/
theorem stoActive_next {j : Fin 2} {stob : Bool} (ha : s.awake = true)
    (hl : (if stob then (s.die j.val).lowB else (s.die j.val).lowA) = false) :
    ∃ x, exec (.stoActive j stob) s = .next ((s.setDie j.val x).stoTake j.val stob).settle :=
  ⟨_, (fin_if_neg (by simp [hl])).trans (fin_if_pos ha)⟩

/-- Settles O47: the activation is a `stoTake`, and source 10 governs every generator that it forces (`forceSto_off`). -/
theorem stoTurnsEveryGateOff : Obligations.StoTurnsEveryGateOff := by
  unfold Obligations.StoTurnsEveryGateOff
  intro s j stob ha hl hm
  obtain ⟨x, hx⟩ := stoActive_next ha hl
  refine ⟨_, hx, fun g hlow hhigh => ?_⟩
  rw [gen_settle]
  exact stoTake_off (s := s.setDie j.val x) j.isLt stob hm hlow hhigh

/-! Legs (R140, R142, R163). -/

/-- A command that ends in a state with its legs kept answers one: nIRQ is settled last. -/
theorem exec_legsKept (he : exec i s = fin t) (hk : LegsKept s t) (hs : ∀ k, (s.gen k).legSafe) :
    ∃ u, exec i s = .next u ∧ ∀ k, (u.gen k).legSafe :=
  ⟨_, he, (hk.trans (settle_calm t).legs) hs⟩

theorem compareEdge_legs (g : Fin 12) (frac : Fin 32) : ∃ u, exec (.compareEdge g frac) s = fin u ∧ LegsKept s u := by
  refine ⟨_, rfl, ?_⟩
  split
  case h_1 => exact LegsKept.refl s
  case h_2 d _ =>
    extract_lets c p a b x r
    split
    · split
      · exact LegsKept.refl s
      · have hreq : LegsKept s (s.setGen g.val { x with req := r }) := setGen_legs s _ _ (Or.inr ⟨rfl, rfl⟩)
        exact hreq.trans (applyGens_keeps _ _ _ _).2
    · exact LegsKept.refl s

theorem deadTimeEnd_legs (g : Fin 12) : ∃ u, exec (.deadTimeEnd g) s = fin u ∧ LegsKept s u := by
  refine ⟨_, rfl, ?_⟩
  extract_lets x l dueH dueL
  split
  · exact LegsKept.refl s
  · split
    · exact (applyGens_keeps _ _ _ _).2
    · split
      · exact (applyGens_keeps _ _ _ _).2
      · exact LegsKept.refl s

/-- A trip latch forces its generators to `off` and then to `asc`; a latch that is set does nothing (R163). -/
theorem tripLatch_legs (n : Nat) : LegsKept s (s.tripLatch n) := by
  unfold State.tripLatch
  extract_lets gs lv off asc
  split
  · exact LegsKept.refl s
  · have hset : LegsKept s (s.setBit P.pwmTripStat 0 n true) :=
      (setBit_calm s n true (by decide) (by decide) (by decide)).legs
    exact (hset.trans (force_legs _ n 1 _ off)).trans (force_legs _ n 2 _ asc)

theorem tripFilteredEdge_legs (n : Fin 8) : ∃ u, exec (.tripFilteredEdge n) s = fin u ∧ LegsKept s u := by
  refine ⟨_, rfl, ?_⟩
  extract_lets cfg x edge
  split
  · have hlatch := (setTrip_legs s n.val { x with fired := true }).trans (tripLatch_legs n.val)
    exact hlatch.trans (report_calm _ _ _ _ _ _ _ _).legs
  · exact LegsKept.refl s

theorem stoTake_legs {j : Nat} (hj : j < 2) (stob : Bool) : LegsKept s (s.stoTake j stob) :=
  ((setDie_calm s j _).legs.trans (force_legs _ 10 1 _ _)).trans (stoForced_calm_stoTake hj stob).legs

theorem stoActive_legs (j : Fin 2) (stob : Bool) : ∃ u, exec (.stoActive j stob) s = fin u ∧ LegsKept s u := by
  refine ⟨_, rfl, ?_⟩
  extract_lets x y
  by_cases hlow : (if stob then x.lowB else x.lowA) = true
  · rw [if_pos hlow]
    exact LegsKept.refl s
  · rw [if_neg hlow]
    split
    · exact (setDie_calm s j.val y).legs.trans (stoTake_legs j.isLt stob)
    · exact (setDie_calm s j.val _).legs

/-- Settles O48: each command ends in a state that keeps the legs. -/
theorem driveGatesKeepTheirLegs : Obligations.DriveGatesKeepTheirLegs := by
  unfold Obligations.DriveGatesKeepTheirLegs
  refine ⟨?compare, ?deadTime, ?trip, ?sto⟩
  case compare =>
    intro s g frac hs
    obtain ⟨u, he, hk⟩ := compareEdge_legs (s := s) g frac
    exact exec_legsKept he hk hs
  case deadTime =>
    intro s g hs
    obtain ⟨u, he, hk⟩ := deadTimeEnd_legs (s := s) g
    exact exec_legsKept he hk hs
  case trip =>
    intro s n hs
    obtain ⟨u, he, hk⟩ := tripFilteredEdge_legs (s := s) n
    exact exec_legsKept he hk hs
  case sto =>
    intro s j stob hs
    obtain ⟨u, he, hk⟩ := stoActive_legs (s := s) j stob
    exact exec_legsKept he hk hs

/-! The refusals of TRIP_CLEAR (R167): INST is tested before the length, and the length before the input. -/

theorem bodyTripClear_of_badInst (hi : 7 < c.inst) : bodyTripClear s c pl = (s, .refuse St.badInst) :=
  if_pos hi

theorem bodyTripClear_of_payload (hi : c.inst ≤ 7) (hl : pl.length ≠ 0) :
    bodyTripClear s c pl = (s, .refuse St.length) :=
  (if_neg (Nat.not_lt.mpr hi)).trans (if_pos hl)

theorem bodyTripClear_of_active (hi : c.inst ≤ 7) (hn : s.tripLevel c.inst = true) :
    bodyTripClear s c [] = (s.bump P.pwmClearRefused c.inst top16, .refuse St.causeActive) :=
  ((if_neg (Nat.not_lt.mpr hi)).trans (if_neg (by simp))).trans (if_pos hn)

/-- Settles O50: the refusals in the order of the body's tests, and the inactive input whose latch is not set. -/
theorem tripClearAsksItsInput : Obligations.TripClearAsksItsInput := by
  unfold Obligations.TripClearAsksItsInput
  refine ⟨?active, ?unset, ?badInst, ?payload⟩
  case active => exact fun s h hs hi hn => runCommand_of_body hs (bodyTripClear_of_active hi hn)
  case unset =>
    exact fun s h hs hi hn hb =>
      runCommand_of_body hs ((bodyTripClear_of_inactive hi hn).trans (if_neg (Bool.eq_false_iff.mp hb)))
  case badInst => exact fun s h pl hs hi => runCommand_of_body hs (bodyTripClear_of_badInst hi)
  case payload => exact fun s h pl hs hi hl => runCommand_of_body hs (bodyTripClear_of_payload hi hl)

end Sys2Proof.Proofs

/-! PROOFS. The converters and housekeeping: samples, delivered windows, VBUS ages, rounds and conversions (R26, R178,
R194, R198, R200), and the refusals of ADC_URGENT (R202). -/

namespace Sys2Proof.Proofs
open Sys2Proof Sys2Proof.Machine Sys2Proof.Laws

variable {s : State} {c : Cmd} {pl : List Byte}

/-! The refusals of ADC_URGENT (R202): INST is tested first, and the converter last. -/

theorem bodyAdcUrgent_of_badInst (hi : 31 < c.inst) : bodyAdcUrgent s c pl = (s, .refuse St.badInst) :=
  if_pos hi

/-- A conversion or a round under way, or a round due before the conversion would end, drops the command. -/
theorem bodyAdcUrgent_of_busy (hi : c.inst ≤ 31)
    (hbusy : s.hk.conv.isSome = true ∨ s.hk.round = true ∨ s.hk.due ≤ s.epoch + s.hkTicks) :
    bodyAdcUrgent s c [] = (s.bump P.adcUrgDrop 0 top32, .refuse St.dropped) :=
  have htest : (s.hk.conv.isSome || s.hk.round || decide (s.hk.due ≤ s.epoch + s.hkTicks)) = true := by
    simpa [or_assoc] using hbusy
  ((if_neg (Nat.not_lt.mpr hi)).trans (if_neg (by simp))).trans (if_pos htest)

/-- Settles O51: the refusals in the order of the body's tests. -/
theorem urgentConversionsWaitForNobody : Obligations.UrgentConversionsWaitForNobody := by
  unfold Obligations.UrgentConversionsWaitForNobody
  refine ⟨?busy, ?badInst⟩
  case busy => exact fun s h hs hi hbusy => runCommand_of_body hs (bodyAdcUrgent_of_busy hi hbusy)
  case badInst => exact fun s h pl hs hi => runCommand_of_body hs (bodyAdcUrgent_of_badInst hi)

/-! Windows (R26, R195, R317). -/

/-- What the delivery of a window makes of a state that has it no longer among its closed ones: its plausibility
is checked, it is captured, and the engine finds it unless it came too late. -/
def windowDelivery (s : State) (b : Nat) (w : Window) : State :=
  let p := s.plausCheck b w
  let u := p.1.captureWindow b p.2
  if p.2.tooLate then u else u.setPicker b { u.picker b with delivered := (u.picker b).delivered ++ [p.2] }

/-- 200 ns after it closed, the oldest closed window is delivered. -/
theorem deliverOne_of_due {b : Nat} {w : Window} {rest : List Window} (hclosed : (s.picker b).closed = w :: rest)
    (hdue : w.close + 40 * 32 ≤ s.epoch * 32) :
    s.deliverOne b = windowDelivery (s.setPicker b { s.picker b with closed := rest }) b w := by
  simp only [State.deliverOne, hclosed]
  exact if_neg (Nat.not_lt.mpr hdue)

/-! Housekeeping rounds (R200). -/

/-- The state in which the next round is due at `due`. -/
def withRoundDue (s : State) (due : Nat) : State := { s with hk := { s.hk with due := due } }

/-- The round whose time has come waits for the round or the conversion under way, and begins on a free converter. -/
def roundComesDue (s : State) : State :=
  if s.hk.round then State.report { s with hk := { s.hk with late := true } } K.hkLate 0 s.epoch
  else if s.hk.conv.isSome then { s with hk := { s.hk with late := true } }
  else s.hkBegin.hkAdvance

/-- Where the next round lies ahead, it is due one period after this one. -/
theorem hkRoundStart_of_due (ha : s.awake = true) (hdue : s.hk.due ≤ s.epoch) (hblk : s.flt.blk.contains .hk = false)
    (hnext : s.hk.due + msTicks (s.reg P.adcHkPeriod 0) > s.epoch) :
    exec .hkRoundStart s =
      fin (roundComesDue (withRoundDue s (s.hk.due + msTicks (s.reg P.adcHkPeriod 0)))) :=
  (fin_if_neg (by rw [ha, hblk]; simp [hdue])).trans
    (congrArg (fun due => fin (roundComesDue (withRoundDue s due))) (if_neg (Nat.not_le.mpr hnext)))

theorem roundComesDue_of_free (hround : s.hk.round = false) (hconv : s.hk.conv = none) :
    roundComesDue s = s.hkBegin.hkAdvance :=
  (if_neg (by simp [hround])).trans (if_neg (by simp [hconv]))

theorem roundComesDue_of_round (hround : s.hk.round = true) :
    roundComesDue s = State.report { s with hk := { s.hk with late := true } } K.hkLate 0 s.epoch :=
  if_pos hround

/-- Settles O15: each clause's hypotheses decide the tests of its command; a window is delivered as `deliverOne_of_due`
says, and a round that comes due finds the converter free or a round under way (`roundComesDue`). -/
theorem converterCommandsRun : Obligations.ConverterCommandsRun := by
  unfold Obligations.ConverterCommandsRun
  refine ⟨?sample, ?window, ?vbusAge, ?roundFree, ?roundLate, ?conversion⟩
  case sample => exact fun s k code orng ha hphase hlast => fin_if_neg (by simp [ha, hphase, hlast])
  case window =>
    intro s b w l ha hclosed hdue
    refine (fin_if_pos ha).trans ?_
    rw [deliverOne_of_due hclosed hdue]
    rfl
  case vbusAge => exact fun s b ha he => fin_if_pos (by rw [ha, he]; rfl)
  case roundFree =>
    exact fun s ha hdue hblk hround hconv hnext =>
      (hkRoundStart_of_due ha hdue hblk hnext).trans (congrArg fin (roundComesDue_of_free hround hconv))
  case roundLate =>
    exact fun s ha hdue hblk hround hnext =>
      (hkRoundStart_of_due ha hdue hblk hnext).trans (congrArg fin (roundComesDue_of_round hround))
  case conversion =>
    intro s code ch t cmd hconv ha hend hblk
    show execHkConversionDone code s = _
    rw [execHkConversionDone, hconv]
    exact fin_if_neg (by rw [ha, hblk]; simp [hend])

end Sys2Proof.Proofs

/-! PROOFS. Drives and positions: the commands of a start, a stop, a capture and an injection (R252, R253, R282, R283,
R313, R316), and the position inputs, the zero crossings and the timers of a start and a stop (R229, R235, R248 to R256,
R283, R286). -/

namespace Sys2Proof.Proofs
open Sys2Proof Sys2Proof.Machine Sys2Proof.Laws

variable {s t : State} {c : Cmd} {pl : List Byte} {d : Nat}

/-! The refusals of DRV_START (R252): INST is tested first, then the length, then the state, and the rails last. -/

/-- The device or the drive is in no state to start (R252). -/
def StartBlocked (s : State) (d : Nat) : Prop :=
  s.pwr.mode ≠ .full ∨ s.computes d = false ∨ s.reg P.pwmTestEn d = 1 ∨
    ¬ ((s.drv d).phase = .stopped ∨ (s.drv d).phase = .mwHold) ∨ s.hasReaction d = true ∨ s.anyForced d = true

/-- `StartBlocked` is what the body of DRV_START tests. -/
theorem startBlocked_iff : StartBlocked s d ↔
    s.pwr.mode ≠ .full ∨ (!s.computes d) = true ∨ s.reg P.pwmTestEn d = 1 ∨
      ¬ ((s.drv d).phase = .stopped ∨ (s.drv d).phase = .mwHold) ∨ s.hasReaction d = true ∨ s.anyForced d = true := by
  rw [StartBlocked, Bool.not_eq_true']

theorem bodyDrvStart_of_badInst (hi : 3 < c.inst) : bodyDrvStart s c pl = (s, .refuse St.badInst) :=
  if_pos hi

theorem bodyDrvStart_of_payload (hi : c.inst ≤ 3) (hl : pl.length ≠ 1) :
    bodyDrvStart s c pl = (s, .refuse St.length) :=
  (if_neg (Nat.not_lt.mpr hi)).trans (if_pos hl)

theorem bodyDrvStart_of_blocked (hi : c.inst ≤ 3) (hl : pl.length = 1) (hb : StartBlocked s c.inst) :
    bodyDrvStart s c pl = (s, .refuse St.badState) :=
  ((if_neg (Nat.not_lt.mpr hi)).trans (if_neg (not_not_intro hl))).trans (if_pos (startBlocked_iff.mp hb))

theorem bodyDrvStart_of_uvlo (hi : c.inst ≤ 3) (hl : pl.length = 1) (hb : ¬ StartBlocked s c.inst)
    (hu : s.anyUvlo = true) : bodyDrvStart s c pl = (s, .refuse St.uvlo) :=
  (((if_neg (Nat.not_lt.mpr hi)).trans (if_neg (not_not_intro hl))).trans
    (if_neg (mt startBlocked_iff.mpr hb))).trans (if_pos hu)

/-- Settles O52: the refusals in the order of the body's tests. -/
theorem startsAreRefused : Obligations.StartsAreRefused := by
  unfold Obligations.StartsAreRefused
  refine ⟨?blocked, ?uvlo, ?badInst, ?payload⟩
  case blocked => exact fun s h pl hs hi hl hb => runCommand_of_body hs (bodyDrvStart_of_blocked hi hl hb)
  case uvlo => exact fun s h pl hs hi hl hb hu => runCommand_of_body hs (bodyDrvStart_of_uvlo hi hl hb hu)
  case badInst => exact fun s h pl hs hi => runCommand_of_body hs (bodyDrvStart_of_badInst hi)
  case payload => exact fun s h pl hs hi hl => runCommand_of_body hs (bodyDrvStart_of_payload hi hl)

/-! Drive states (R253, R283, R458). -/

@[simp] theorem phase_setPhase (d : Nat) (p : DPhase) : ((s.setPhase d p).drv d).phase = p := by
  simp [State.setPhase]

/-- The members of a home drive are told to stop by frames alone; the drive notes that it has told them. -/
theorem drv_gangStop (s : State) (d : Nat) :
    ∃ b, (s.gangStop d).drv d = { s.drv d with start := { (s.drv d).start with gangOn := b } } := by
  unfold State.gangStop
  split
  · rw [(LinkOnly.each _ _ fun _ _ => sendGang_linkOnly _ _ _ _ _ _ _ _).drv, forgetReports_drv, drv_modDrv]
    exact ⟨false, rfl⟩
  · exact ⟨_, rfl⟩

@[simp] theorem phase_gangStop (s : State) (d : Nat) : ((s.gangStop d).drv d).phase = (s.drv d).phase := by
  obtain ⟨b, hb⟩ := drv_gangStop s d
  rw [hb]

@[simp] theorem stop_gangStop (s : State) (d : Nat) : ((s.gangStop d).drv d).stop = (s.drv d).stop := by
  obtain ⟨b, hb⟩ := drv_gangStop s d
  rw [hb]

theorem phase_enterShort (s : State) (d : Nat) : ((s.enterShort d).drv d).phase = .stopping := by
  simp [State.enterShort]

theorem stopPh_enterShort (s : State) (d : Nat) : ((s.enterShort d).drv d).stop.ph = .short := by
  simp [State.enterShort]

theorem phase_toStopped (s : State) (d : Nat) : ((s.toStopped d).drv d).phase = .stopped := by
  simp [State.toStopped]

/-- A stop that does not ramp holds its drive in the short or leaves it stopped. -/
theorem drv_shortOrOff (s : State) (d : Nat) :
    ((s.shortOrOff d).drv d).phase = .stopping ∧ ((s.shortOrOff d).drv d).stop.ph = .short ∨
      ((s.shortOrOff d).drv d).phase = .stopped := by
  unfold State.shortOrOff
  split
  · exact Or.inl ⟨phase_enterShort s d, stopPh_enterShort s d⟩
  · exact Or.inr (phase_toStopped s d)

/-! DRV_START (R252, R253). -/

/-- A DRV_START that nothing refuses is accepted. -/
theorem bodyDrvStart_reply_of_free (hi : c.inst ≤ 3) (hl : pl.length = 1) (hb : ¬ StartBlocked s c.inst)
    (hu : s.anyUvlo = false) : (bodyDrvStart s c pl).2 = .deferred := by
  have htest := mt startBlocked_iff.mpr hb
  simp only [bodyDrvStart, if_neg (Nat.not_lt.mpr hi), if_neg (not_not_intro hl), if_neg htest, hu,
    if_neg Bool.false_ne_true]

/-- From `stopped` the drive goes into the precharge, whose end the command waits for: the frames to its members
leave the drive alone, and only `mw_hold` skips the precharge. -/
theorem drv_bodyDrvStart_of_stopped (hi : c.inst ≤ 3) (hl : pl.length = 1) (hb : ¬ StartBlocked s c.inst)
    (hu : s.anyUvlo = false) (hp : (s.drv c.inst).phase = .stopped) :
    ((bodyDrvStart s c pl).1.drv c.inst).phase = .precharge ∧
      ((bodyDrvStart s c pl).1.drv c.inst).start.cmd = some c := by
  have htest := mt startBlocked_iff.mpr hb
  have hskip : ((s.drv c.inst).phase == DPhase.mwHold) = false := by rw [hp]; rfl
  simp only [bodyDrvStart, if_neg (Nat.not_lt.mpr hi), if_neg (not_not_intro hl), if_neg htest, hu,
    if_neg Bool.false_ne_true, hskip, Bool.false_and]
  rw [(LinkOnly.each _ _ fun _ _ => sendGang_linkOnly _ _ _ _ _ _ _ _).drv, drv_modDrv]
  exact ⟨phase_setPhase _ _, rfl⟩

/-! DRV_STOP (R282, R283). The response `accepted` is written before the stop acts. -/

/-- A served command that answers later ends with the state that its body gives. -/
theorem runCommand_of_later {h : Hdr} {op : Nat} {body : State → Cmd → List Byte → State × Reply}
    (hs : s.serves h op = true) (hb : body (s.bodyState h op) (cmdOf h op s.epoch) pl = (t, .later)) :
    runCommand h op pl s body = .next t.settle :=
  runCommand_of_body hs hb

/-- The state in which an accepted DRV_STOP acts. -/
def stopAccepted (s : State) (c : Cmd) : State := (s.startDeferred c).respond c St.accepted 0xFFFF []

@[simp] theorem drv_stopAccepted (s : State) (c : Cmd) (d : Nat) : (stopAccepted s c).drv d = s.drv d :=
  (respond_hostOnly (s.startDeferred c) c _ _ _).drv d

/-- The stop has been entered: the start that it ends is completed, and the drive is in `stopping`. -/
def stopEntered (s : State) (c : Cmd) : State :=
  let v := stopAccepted s c
  let w := v.endStart c.inst St.badState 0 0
  (w.setPhase c.inst .stopping).modDrv c.inst (fun x =>
    { x with mwPre := false, mwListen := false, mwLow := false,
             stop := { cmd := some c, omega0 := (v.drv c.inst).trk.omega, entry := w.epoch } })

/-- An entered stop goes into its ramp. -/
def stopRamped (s : State) (c : Cmd) : State :=
  (stopEntered s c).modDrv c.inst (fun x => { x with stop := { x.stop with ph := .ramp, ramped := true } })

theorem bodyDrvStop_of_stopped (hi : c.inst ≤ 3) (hl : pl.length = 1) (hc : s.computes c.inst = true)
    (hst : s.stopped c.inst = true) : bodyDrvStop s c pl = (s, .ok []) :=
  (if_neg (Nat.not_lt.mpr hi)).trans <| (if_neg (not_not_intro hl)).trans <| (if_neg (by simp [hc])).trans
    (if_pos hst)

/-- The command's part of a stop beside a drive action: its RAMP is taken from `running` alone. -/
def stopBesideAction (v : State) (c : Cmd) (ramp : Bool) : StopSt :=
  { (v.drv c.inst).stop with
    cmd := some c, omega0 := (v.drv c.inst).trk.omega, entry := v.epoch,
    ph := if ramp then .ramp else (v.drv c.inst).stop.ph, ramped := ramp }

/-- A drive action under way goes on, with the stop beside it (R287). -/
theorem bodyDrvStop_of_action (hi : c.inst ≤ 3) (hl : pl.length = 1) (hc : s.computes c.inst = true)
    (hst : s.stopped c.inst = false) (ha : (s.drv c.inst).stop.byAction = true) :
    bodyDrvStop s c pl =
      (let v := stopAccepted s c
       let w := if (v.drv c.inst).phase = .stopping then v else v.setPhase c.inst .stopping
       w.modDrv c.inst (fun x => { x with
         stop := stopBesideAction v c (bit (fieldAt pl 0 1) 0 && (v.drv c.inst).phase == .running) }), .later) := by
  have ha' : ((stopAccepted s c).drv c.inst).stop.byAction = true := by rw [drv_stopAccepted, ha]
  exact (if_neg (Nat.not_lt.mpr hi)).trans <| (if_neg (not_not_intro hl)).trans <| (if_neg (by simp [hc])).trans <|
    (if_neg (by simp [hst])).trans (if_pos ha')

/-- With no drive action under way the stop ramps where RAMP asks a running drive to, and else is in its short or
over (R283). -/
theorem bodyDrvStop_of_moving (hi : c.inst ≤ 3) (hl : pl.length = 1) (hc : s.computes c.inst = true)
    (hst : s.stopped c.inst = false) (ha : (s.drv c.inst).stop.byAction = false) :
    bodyDrvStop s c pl =
      ((if bit (fieldAt pl 0 1) 0 && (s.drv c.inst).phase == .running then stopRamped s c
        else (stopEntered s c).shortOrOff c.inst).gangStop c.inst, .later) := by
  have ha' : ((stopAccepted s c).drv c.inst).stop.byAction = false := by rw [drv_stopAccepted, ha]
  rw [← drv_stopAccepted s c c.inst]
  exact (if_neg (Nat.not_lt.mpr hi)).trans <| (if_neg (not_not_intro hl)).trans <| (if_neg (by simp [hc])).trans <|
    (if_neg (by simp [hst])).trans (if_neg (Bool.eq_false_iff.mp ha'))

/-- A stop that has something to end answers later. -/
theorem bodyDrvStop_reply_of_moving (hi : c.inst ≤ 3) (hl : pl.length = 1) (hc : s.computes c.inst = true)
    (hst : s.stopped c.inst = false) (ha : (s.drv c.inst).stop.byAction = false) :
    (bodyDrvStop s c pl).2 = .later := by
  rw [bodyDrvStop_of_moving hi hl hc hst ha]

theorem stopped_of_running (hp : (s.drv d).phase = .running) : s.stopped d = false := by
  rw [State.stopped, hp]
  rfl

theorem drv_bodyDrvStop_of_ramp (hi : c.inst ≤ 3) (hl : pl.length = 1) (hc : s.computes c.inst = true)
    (hp : (s.drv c.inst).phase = .running) (ha : (s.drv c.inst).stop.byAction = false)
    (hr : bit (fieldAt pl 0 1) 0 = true) :
    ((bodyDrvStop s c pl).1.drv c.inst).phase = .stopping ∧ ((bodyDrvStop s c pl).1.drv c.inst).stop.ph = .ramp ∧
      ((bodyDrvStop s c pl).1.drv c.inst).stop.cmd = some c := by
  rw [bodyDrvStop_of_moving hi hl hc (stopped_of_running hp) ha, if_pos (by rw [hr, hp]; rfl)]
  simp [stopRamped, stopEntered]

theorem drv_bodyDrvStop_of_short (hi : c.inst ≤ 3) (hl : pl.length = 1) (hc : s.computes c.inst = true)
    (hst : s.stopped c.inst = false) (ha : (s.drv c.inst).stop.byAction = false)
    (hr : (bit (fieldAt pl 0 1) 0 && (s.drv c.inst).phase == .running) = false) :
    ((bodyDrvStop s c pl).1.drv c.inst).phase = .stopping ∧ ((bodyDrvStop s c pl).1.drv c.inst).stop.ph = .short ∨
      ((bodyDrvStop s c pl).1.drv c.inst).phase = .stopped := by
  rw [bodyDrvStop_of_moving hi hl hc hst ha, if_neg (Bool.eq_false_iff.mp hr), phase_gangStop, stop_gangStop]
  exact drv_shortOrOff (stopEntered s c) c.inst

/-! CAPTURE_ARM (R316) and INJECT_SET (R313). -/

/-- What a CAPTURE_ARM arms. -/
def captureOf (c : Cmd) (pl : List Byte) : Capture :=
  { cmd := c, kind := fieldAt pl 0 1, trig := fieldAt pl 1 1, decim := fieldAt pl 2 1, set := fieldAt pl 3 1,
    sigs := [4, 5, 6, 7].map (fun i => fieldAt pl i 1), count := fieldAt pl 8 2, start := fieldAt pl 12 4 }

/-- The capture's ring can hold it, and its fields lie within their limits. -/
theorem bodyCaptureArm_of_valid (hi : c.inst ≤ 3) (hl : pl.length = 16) (hc : s.computes c.inst = true)
    (hout : s.ringOut (18 + c.inst) = true) (hsize : s.ringEsize (18 + c.inst) ≠ 16) (hkind : fieldAt pl 0 1 ≤ 1)
    (htrig : fieldAt pl 1 1 ≤ 2) (hcount : fieldAt pl 8 2 ≠ 0)
    (hsigs : ([4, 5, 6, 7].map (fun i => fieldAt pl i 1)).any
      (fun v => v != 0xFF && (decide (19 < v % 64) || decide (s.r.nSets c.inst ≤ v / 64))) = false)
    (hdecim : ¬ (fieldAt pl 0 1 = 0 ∧ fieldAt pl 2 1 = 0))
    (hset : ¬ (fieldAt pl 0 1 = 1 ∧ s.r.nSets c.inst ≤ fieldAt pl 3 1)) :
    bodyCaptureArm s c pl =
      (s.modDrv c.inst (fun x => { x with foc := { x.foc with cap := some (captureOf c pl) } }), .deferred) := by
  refine (if_neg (Nat.not_lt.mpr hi)).trans <| (if_neg (not_not_intro hl)).trans <| (if_neg ?_).trans (if_neg ?_)
  · simp [hc, hout, hsize]
  · rintro (h | h | h | h | h | h)
    · exact Nat.not_lt.mpr hkind h
    · exact Nat.not_lt.mpr htrig h
    · exact hcount h
    · exact Bool.false_ne_true (hsigs.symm.trans h)
    · exact hdecim h
    · exact hset h

/-- What an INJECT_SET sets. -/
def injectionOf (pl : List Byte) : InjSet :=
  { point := fieldAt pl 0 1, wave := fieldAt pl 1 1, at_ := bit (fieldAt pl 2 1) 0, prbsN := fieldAt pl 4 1,
    prbsDiv := fieldAt pl 5 1, amp := BitVec.ofNat 32 (fieldAt pl 8 4), f0 := BitVec.ofNat 32 (fieldAt pl 12 4),
    f1 := BitVec.ofNat 32 (fieldAt pl 16 4), dur := fieldAt pl 20 4, start := fieldAt pl 24 4 }

/-- A running drive takes an injection whose fields lie within their limits. -/
theorem bodyInjectSet_of_valid (hi : c.inst ≤ 3) (hl : pl.length = 28) (hp : (s.drv c.inst).phase = .running)
    (hctrl : ¬ (fieldAt pl 0 1 = 5 ∧ s.reg P.focCtrl c.inst = 0)) (hpoint : fieldAt pl 0 1 ≤ 5)
    (hwave : fieldAt pl 1 1 ≤ 2)
    (hamp : fieldAt pl 0 1 = 0 ∨
      F32.le (F32.abs (BitVec.ofNat 32 (fieldAt pl 8 4))) (s.injLimit c.inst (fieldAt pl 0 1)) = true)
    (hf0 : s.injFreqOk c.inst (BitVec.ofNat 32 (fieldAt pl 12 4)) = true)
    (hf1 : s.injFreqOk c.inst (BitVec.ofNat 32 (fieldAt pl 16 4)) = true)
    (hn : 7 ≤ fieldAt pl 4 1) (hn' : fieldAt pl 4 1 ≤ 15) (hdiv : fieldAt pl 5 1 ≠ 0)
    (hdur : ¬ (fieldAt pl 1 1 = 1 ∧ fieldAt pl 20 4 = 0)) :
    bodyInjectSet s c pl =
      (s.modDrv c.inst (fun x =>
        { x with foc := { x.foc with inj := { x.foc.inj with pend := some (injectionOf pl) } } }), .ok []) := by
  refine (if_neg (Nat.not_lt.mpr hi)).trans <| (if_neg (not_not_intro hl)).trans <| (if_neg ?_).trans (if_neg ?_)
  · rintro (h | h)
    · exact h hp
    · exact hctrl h
  · rintro (h | h | ⟨hne, hover⟩ | h | h | h | h | h | h)
    · exact Nat.not_lt.mpr hpoint h
    · exact Nat.not_lt.mpr hwave h
    · exact hamp.elim hne fun hle => Bool.false_ne_true (hover.symm.trans hle)
    · exact Bool.false_ne_true (h.symm.trans hf0)
    · exact Bool.false_ne_true (h.symm.trans hf1)
    · exact Nat.not_lt.mpr hn h
    · exact Nat.not_lt.mpr hn' h
    · exact hdiv h
    · exact hdur h

/-- Settles O4: each command is served, and its clause's hypotheses decide the branch that its body takes. -/
theorem driveCommandsRun : Obligations.DriveCommandsRun := by
  unfold Obligations.DriveCommandsRun
  refine ⟨?start, ?stopStopped, ?stopBeside, ?stopRamp, ?stopShort, ?capture, ?inject⟩
  case start =>
    intro s h pl c u hs hi hl hm hc ht hp hr hf hu
    have hb : ¬ StartBlocked u c.inst := by
      rintro (h | h | h | h | h | h)
      · exact h hm
      · exact Bool.false_ne_true (h.symm.trans hc)
      · exact ht h
      · exact h hp
      · exact Bool.false_ne_true (hr.symm.trans h)
      · exact Bool.false_ne_true (hf.symm.trans h)
    exact ⟨runCommand_of_body hs (Prod.ext rfl (bodyDrvStart_reply_of_free hi hl hb hu)),
      fun hst => drv_bodyDrvStart_of_stopped hi hl hb hu hst⟩
  case stopStopped =>
    exact fun s h pl hs hi hl hc hst => runCommand_of_body hs (bodyDrvStop_of_stopped hi hl hc hst)
  case stopBeside =>
    exact fun s h pl hs hi hl hc hst ha => runCommand_of_later hs (bodyDrvStop_of_action hi hl hc hst ha)
  case stopRamp =>
    exact fun s h pl hs hi hl hc hp ha hr =>
      ⟨runCommand_of_later hs (Prod.ext rfl (bodyDrvStop_reply_of_moving hi hl hc (stopped_of_running hp) ha)),
        drv_bodyDrvStop_of_ramp hi hl hc hp ha hr⟩
  case stopShort =>
    exact fun s h pl hs hi hl hc hst ha hr =>
      ⟨runCommand_of_later hs (Prod.ext rfl (bodyDrvStop_reply_of_moving hi hl hc hst ha)),
        drv_bodyDrvStop_of_short hi hl hc hst ha hr⟩
  case capture =>
    exact fun s h pl hs hi hl hc hout hsize hkind htrig hcount hsigs hdecim hset =>
      runCommand_of_body hs (bodyCaptureArm_of_valid hi hl hc hout hsize hkind htrig hcount hsigs hdecim hset)
  case inject =>
    exact fun s h pl hs hi hl hp hctrl hpoint hwave hamp hf0 hf1 hn hn' hdiv hdur =>
      runCommand_of_body hs
        (bodyInjectSet_of_valid hi hl hp hctrl hpoint hwave hamp hf0 hf1 hn hn' hdiv hdur)

/-! Position inputs (R229, R231, R235). -/

/-- Input `k` of bridge `b` reads `v`; a valid Hall state of the bridge has then been seen. -/
def posInputSet (s : State) (b k : Nat) (v : Bool) : State :=
  let x : State := { s with posIn := Smap.set (fun _ => false) s.posIn (3 * b + k) v }
  if (hallIndex (x.hallState b)).isSome then { x with posSeen := x.posSeen ||| 2 ^ b } else x

@[simp] theorem posInputSet_r (s : State) (b k : Nat) (v : Bool) : (posInputSet s b k v).r = s.r := by
  unfold posInputSet
  extract_lets x
  split <;> rfl

/-- A change of an input that neither the encoder nor the host has a part in is decoded as one (R226). -/
theorem posDecode_of_hall {b k te : Nat} {v a0 b0 : Bool} (ho : s.ownerOf b = some d) (hb : s.lowBridge d = b)
    (he : s.reg P.posSrc d ≠ 1) (hh : s.reg P.posSrc d ≠ 3) (hd : s.hallDecoded d = true) :
    s.posDecode b k te v a0 b0 = s.hallChange d b te := by
  simp [State.posDecode, ho, hb, he, hh, hd]

/-! What a drive owns, its source and its start method are told by the registers alone. -/

theorem bridges_of_r (h : t.r = s.r) (d : Nat) : t.bridges d = s.bridges d := by
  unfold State.bridges State.role
  rw [reg_of_r h]

theorem ownerOf_of_r (h : t.r = s.r) (b : Nat) : t.ownerOf b = s.ownerOf b := by
  simp only [State.ownerOf, bridges_of_r h]

theorem lowBridge_of_r (h : t.r = s.r) (d : Nat) : t.lowBridge d = s.lowBridge d :=
  congrArg (List.headD · 0) (bridges_of_r h d)

theorem hallDecoded_of_r (h : t.r = s.r) (d : Nat) : t.hallDecoded d = s.hallDecoded d := by
  simp only [State.hallDecoded, reg_of_r h]

/-- A change of a Hall input of a drive's lowest bridge is a change of the drive's Hall state (R226, R230). -/
theorem posChange_of_hall {b k te : Nat} {v : Bool} (ho : s.ownerOf b = some d) (hb : s.lowBridge d = b)
    (he : s.reg P.posSrc d ≠ 1) (hh : s.reg P.posSrc d ≠ 3) (hd : s.hallDecoded d = true) :
    s.posChange b k te v = (posInputSet s b k v).hallChange d b te := by
  have hr := posInputSet_r s b k v
  refine posDecode_of_hall (s := posInputSet s b k v) ?_ ?_ ?_ ?_ ?_
  · rw [ownerOf_of_r hr, ho]
  · rw [lowBridge_of_r hr, hb]
  · rwa [reg_of_r hr]
  · rwa [reg_of_r hr]
  · rw [hallDecoded_of_r hr, hd]

/-- A change that its filter can have passed, of a block that is not in reset (R229). -/
theorem posInputEdge_next {p : Fin 12} {level : Bool} {rawAgo : Half} {v : Bool}
    (hv : v = (level != bit (s.reg P.posInCfg (p.val / 3)) (4 + p.val % 3))) (ha : s.awake = true)
    (hblk : s.flt.blk.contains .pos = false) (hne : v ≠ s.posPin (p.val / 3) (p.val % 3))
    (hlow : bits (s.reg P.posInCfg (p.val / 3)) 0 4 * 32 ≤ rawAgo.toNat)
    (hhigh : rawAgo.toNat ≤ (bits (s.reg P.posInCfg (p.val / 3)) 0 4 + 1) * 32) :
    exec (.posInputEdge p level rawAgo) s =
      fin (s.posChange (p.val / 3) (p.val % 3) (s.nowF - rawAgo.toNat) v) := by
  subst hv
  exact fin_if_neg (by rw [ha, hblk]; simp [hne, hlow, hhigh])

/-- The tracker of drive `d` has been silent for POS.ZERO_TMO: its speed is zeroed (R235). -/
def speedZeroed (s : State) (d : Nat) : State :=
  s.modDrv d (fun x => { x with trk := { x.trk with omega := 0#32, zeroed := true } })

@[simp] theorem hallDecoded_speedZeroed (s : State) (d e : Nat) : (speedZeroed s d).hallDecoded e = s.hallDecoded e :=
  hallDecoded_of_r rfl e

/-- POS_ZERO_TMO on the tracker alone (R235): with Hall steering the centre of the Hall state is taken. -/
def zeroTimedOut (s : State) (d : Nat) : State :=
  if !(s.drv d).trk.zeroed && !s.hostSteers d &&
      expired (s.drv d).trk.evTick (msTicks (s.reg P.posZeroTmo d)) s.epoch then
    if (speedZeroed s d).hallSteers d then (speedZeroed s d).hallCentreInit d else speedZeroed s d
  else s

/-- The Hall state of a drive has been invalid for as long (R231), as it stood in `s` before the tracker's part, which
has left `u`. -/
def hallTimedOut (s u : State) (d : Nat) : Bool :=
  u.hallDecoded d && (hallIndex (s.drv d).trk.hall).isNone &&
    expired (s.drv d).trk.hallTick (msTicks (s.reg P.posZeroTmo d)) u.epoch

theorem posZeroTmo_next {d : Fin 4} (ha : s.awake = true) (hrole : s.role d.val ≠ 0) :
    exec (.posZeroTmo d) s =
      fin (let u := zeroTimedOut s d.val
           if hallTimedOut s u d.val then u.report K.hallBad (u.lowBridge d.val) u.epoch else u) :=
  fin_if_neg (by simp [ha, hrole])

/-- Inputs that are not decoded as Hall inputs steer no tracker. -/
theorem hallSteers_of_not_decoded (h : s.hallDecoded d = false) : s.hallSteers d = false := by
  simp only [State.hallDecoded, State.hallSteers, Bool.or_eq_false_iff] at h ⊢
  obtain ⟨hsrc, hstart⟩ := h
  exact ⟨hsrc, by rw [hstart, Bool.false_and]⟩

/-- Where the inputs are not decoded as Hall inputs, the speed is zeroed and nothing else is done. -/
theorem zeroTimedOut_of_not_decoded (hz : (s.drv d).trk.zeroed = false) (hs : s.hostSteers d = false)
    (he : expired (s.drv d).trk.evTick (msTicks (s.reg P.posZeroTmo d)) s.epoch = true)
    (hd : s.hallDecoded d = false) : zeroTimedOut s d = speedZeroed s d := by
  have hsteers : (speedZeroed s d).hallSteers d = false :=
    hallSteers_of_not_decoded ((hallDecoded_speedZeroed s d d).trans hd)
  rw [zeroTimedOut, if_pos (by simp [hz, hs, he]), if_neg (Bool.eq_false_iff.mp hsteers)]

theorem zeroTimedOut_of_zeroed (hz : (s.drv d).trk.zeroed = true) : zeroTimedOut s d = s :=
  if_neg (by simp [hz])

/-! The timers of a start and a stop (R248 to R256, R283, R286). -/

/-- Settles O16: each clause's hypotheses decide the tests of its command; a Hall input is decoded as
`posChange_of_hall` says, and POS_ZERO_TMO is told apart into its tracker's part and the Hall state's. -/
theorem positionAndStartCommandsRun : Obligations.PositionAndStartCommandsRun := by
  unfold Obligations.PositionAndStartCommandsRun
  refine ⟨?posInput, ?hallInput, ?speedZeroed, ?hallBad, ?crossing, ?precharge, ?listen, ?align, ?olTMax, ?brakeStep,
    ?lossBrakeStep, ?shortStep, ?brakeMax, ?brakeMaxListening, ?stopTMax, ?softTMax⟩
  case posInput =>
    exact fun s p level rawAgo ha hblk hne hlow hhigh => posInputEdge_next rfl ha hblk hne hlow hhigh
  case hallInput =>
    exact fun s p level rawAgo d ha hblk hne hlow hhigh ho hb hsrc hhost hd =>
      (posInputEdge_next rfl ha hblk hne hlow hhigh).trans (congrArg fin (posChange_of_hall ho hb hsrc hhost hd))
  case speedZeroed =>
    intro s d ha hrole hz hs he hd
    have hhall : hallTimedOut s (speedZeroed s d.val) d.val = false := by
      rw [hallTimedOut, hallDecoded_speedZeroed, hd, Bool.false_and, Bool.false_and]
    rw [posZeroTmo_next ha hrole, zeroTimedOut_of_not_decoded hz hs he hd]
    exact fin_if_neg (Bool.eq_false_iff.mp hhall)
  case hallBad =>
    intro s d ha hrole hz hd hi he
    have hhall : hallTimedOut s s d.val = true := by rw [hallTimedOut, hd, hi, he]; rfl
    rw [posZeroTmo_next ha hrole, zeroTimedOut_of_zeroed hz]
    exact fin_if_pos hhall
  case crossing =>
    intro s b line rising frac d ho hm hb hl ht
    show execZcComparatorEdge b line rising frac s = _
    rw [execZcComparatorEdge, ho]
    exact fin_if_neg (by simp [hm, hb, hl, ht])
  case precharge =>
    intro s d ha hp hw hh
    exact (fin_if_neg (by simp [ha])).trans (fin_if_pos ⟨hp, hw, hh⟩)
  case listen => exact fun s d hm hl hh => fin_if_pos ⟨hm, hl, hh⟩
  case align => exact fun s d hm hp ha he => fin_if_pos ⟨hm, hp, ha, he⟩
  case olTMax => exact fun s d hm hp hf ha he => fin_if_pos ⟨hm, hp, hf, ha, he⟩
  case brakeStep => exact fun s d hm hp hh => (fin_if_neg (not_not_intro hm)).trans (fin_if_pos ⟨hp, hh⟩)
  case lossBrakeStep =>
    intro s d hm hp ha he
    exact ((fin_if_neg (not_not_intro hm)).trans (fin_if_neg (by simp [hp]))).trans (fin_if_pos ⟨hp, ha, he⟩)
  case shortStep =>
    intro s d hm hp hph hl ht hh
    exact (((fin_if_neg (not_not_intro hm)).trans (fin_if_neg (by simp [hp]))).trans (fin_if_neg (by simp [hp]))).trans
      (fin_if_pos ⟨hp, hph, hl, ht, hh⟩)
  case brakeMax =>
    intro s d hm hp hf ha hover
    have hbraking : ((s.drv d.val).phase == .brake || (s.drv d.val).phase == .lossBrake) = true := by simpa using hp
    exact fin_if_pos ⟨hm, by simp [hbraking], hf, ha, by rwa [if_pos hbraking]⟩
  case brakeMaxListening =>
    intro s d hm hp hf ha hover
    exact fin_if_pos ⟨hm, by simp [hp], hf, ha, by simpa [hp] using hover⟩
  case stopTMax => exact fun s d hm hp hph hsoft he => fin_if_pos ⟨hm, hp, hph, hsoft, he⟩
  case softTMax =>
    intro s d t hsoft hm he
    show execSoftTMaxExpiry d s = _
    rw [execSoftTMaxExpiry, hsoft]
    exact fin_if_pos ⟨hm, he⟩

end Sys2Proof.Proofs

/-! PROOFS. The Orbit engine: a swap taken at once exchanges the coefficient banks of its drive (R302 to R304), and runs
start, miss their deadline and finish (R293, R294, R296). -/

namespace Sys2Proof.Proofs
open Sys2Proof Sys2Proof.Machine Sys2Proof.Laws

variable {s : State} {r : Regs} {id id' i i' d : Nat}

/-! The inactive bank (R303): a write of it changes neither ACTIVE nor a governing value. -/

/-- ACTIVE is bit 0 of ENG.BANK, which is itself not banked. -/
theorem bankB_eq (r : Regs) (d : Nat) : r.bankB d = bit (r.get P.engBank d) 0 := by
  simp [Regs.bankB, Regs.get, engBank_plain]

theorem regKey_engBank_ne (hid : isBanked id = true) (hi : i < 256) (hi' : i' < 256) :
    regKey P.engBank i' ≠ regKey id i := by
  intro he
  obtain ⟨rfl, -⟩ := regKey_inj hi' hi he
  exact Bool.false_ne_true (engBank_plain.symm.trans hid)

theorem bankB_setInactive (v : Nat) (hid : isBanked id = true) (hi : i < 256) (hi' : i' < 256) :
    (r.setInactive id i v).bankB i' = r.bankB i' := by
  unfold Regs.setInactive
  split
  · exact congrArg (bit · 0) (get_set_ne _ _ _ _ _ (regKey_engBank_ne hid hi hi'))
  · rfl

theorem get_setInactive (v : Nat) (hid : isBanked id = true) (hi : i < 256) (hi' : i' < 256) :
    (r.setInactive id i v).get id' i' = r.get id' i' := by
  unfold Regs.get
  rw [bankB_setInactive v hid hi hi']
  by_cases hsame : id' = id ∧ i' = i
  · obtain ⟨rfl, rfl⟩ := hsame
    cases hB : r.bankB i' <;> simp [Regs.setInactive, hB, hid]
  · have hkey : regKey id' i' ≠ regKey id i := fun he => hsame (regKey_inj hi' hi he)
    cases hB : r.bankB i <;> simp [Regs.setInactive, hB, get_set_ne _ _ _ _ _ hkey]

theorem getInactive_setInactive (v : Nat) (hid : isBanked id = true) (hi : i < 256) :
    (r.setInactive id i v).getInactive id i = v := by
  unfold Regs.getInactive
  rw [bankB_setInactive v hid hi hi]
  cases hB : r.bankB i <;> simp [Regs.setInactive, hB]

theorem getInactive_setInactive_ne (v : Nat) (hid : isBanked id = true) (hi : i < 256) (hne : id' ≠ id) :
    (r.setInactive id i v).getInactive id' i = r.getInactive id' i := by
  have hkey : regKey id' i ≠ regKey id i := fun he => hne (regKey_inj hi hi he).1
  unfold Regs.getInactive
  rw [bankB_setInactive v hid hi hi]
  cases hB : r.bankB i <;> simp [Regs.setInactive, hB, get_set_ne _ _ _ _ _ hkey]

/-! A swap (R302, R304) turns ACTIVE over, and with COPY copies the new active bank into the new inactive one. -/

/-- The registers with ACTIVE of drive `d` turned over. -/
def turnedOver (r : Regs) (d : Nat) : Regs := r.set P.engBank d (1 - r.get P.engBank d % 2)

/-- The registers with the governing values of the parameters `ids` of drive `d` copied into its inactive bank. -/
def copied (r : Regs) (d : Nat) (ids : List Nat) : Regs := ids.foldl (fun r id => r.setInactive id d (r.get id d)) r

theorem swap_eq (r : Regs) (d : Nat) (copy : Bool) :
    r.swap d copy = if copy then copied (turnedOver r d) d bankedIds else turnedOver r d := rfl

theorem get_turnedOver_engBank (r : Regs) (d : Nat) : (turnedOver r d).get P.engBank d = 1 - r.get P.engBank d % 2 :=
  get_set r P.engBank d _

theorem bankB_turnedOver (r : Regs) (d : Nat) : (turnedOver r d).bankB d = !r.bankB d := by
  rw [bankB_eq, bankB_eq, get_turnedOver_engBank]
  rcases Nat.mod_two_eq_zero_or_one (r.get P.engBank d) with h | h <;> simp [bit, h]

/-- ENG.BANK, which is not banked, is written where the values of bank A are held. -/
theorem set_engBank (r : Regs) (d v : Nat) :
    r.set P.engBank d v = { r with a := Smap.set regReset r.a (regKey P.engBank d) v } := by
  simp [Regs.set, engBank_plain]

@[simp] theorem turnedOver_b (r : Regs) (d : Nat) : (turnedOver r d).b = r.b := by rw [turnedOver, set_engBank]

theorem get_turnedOver_a (hkey : regKey id i ≠ regKey P.engBank d) :
    Smap.get regReset (turnedOver r d).a (regKey id i) = Smap.get regReset r.a (regKey id i) := by
  rw [turnedOver, set_engBank]
  exact get_set_ne _ _ _ _ _ hkey

/-- The bank that was inactive governs. -/
theorem get_turnedOver (hid : isBanked id = true) (hd : d < 256) : (turnedOver r d).get id d = r.getInactive id d := by
  unfold Regs.get Regs.getInactive
  rw [bankB_turnedOver, get_turnedOver_a (regKey_engBank_ne hid hd hd).symm, turnedOver_b, hid]
  cases r.bankB d <;> rfl

theorem get_turnedOver_ne (hi : i < 256) (hd : d < 256) (hne : id ≠ P.engBank) (hout : isBanked id = false ∨ i ≠ d) :
    (turnedOver r d).get id i = r.get id i := by
  unfold Regs.get
  rw [get_turnedOver_a fun he => hne (regKey_inj hi hd he).1, turnedOver_b]
  rcases hout with hplain | hother
  · simp [hplain]
  · have hbank : (turnedOver r d).bankB i = r.bankB i :=
      congrArg (bit · 0) (get_turnedOver_a fun he => hother (regKey_inj hi hd he).2)
    rw [hbank]

theorem get_copied {ids : List Nat} (hids : ∀ j ∈ ids, isBanked j = true) (hd : d < 256) (hi : i < 256) :
    (copied r d ids).get id i = r.get id i := by
  induction ids generalizing r with
  | nil => rfl
  | cons j ids ih =>
    obtain ⟨hj, hrest⟩ := List.forall_mem_cons.mp hids
    exact (ih hrest).trans (get_setInactive _ hj hd hi)

theorem getInactive_copied_of_notMem {ids : List Nat} (hids : ∀ j ∈ ids, isBanked j = true) (hd : d < 256)
    (hmem : id ∉ ids) : (copied r d ids).getInactive id d = r.getInactive id d := by
  induction ids generalizing r with
  | nil => rfl
  | cons j ids ih =>
    obtain ⟨hj, hrest⟩ := List.forall_mem_cons.mp hids
    obtain ⟨hne, hmem⟩ := not_or.mp fun h => hmem (List.mem_cons.mpr h)
    exact (ih hrest hmem).trans (getInactive_setInactive_ne _ hj hd hne)

/-- What was copied reads alike in both banks. -/
theorem getInactive_copied {ids : List Nat} (hids : ∀ j ∈ ids, isBanked j = true) (hd : d < 256) (hmem : id ∈ ids) :
    (copied r d ids).getInactive id d = r.get id d := by
  induction ids generalizing r with
  | nil => exact absurd hmem List.not_mem_nil
  | cons j ids ih =>
    obtain ⟨hj, hrest⟩ := List.forall_mem_cons.mp hids
    by_cases hlater : id ∈ ids
    · exact (ih hrest hlater).trans (get_setInactive _ hj hd hd)
    · obtain rfl : id = j := (List.mem_cons.mp hmem).resolve_right hlater
      exact (getInactive_copied_of_notMem hrest hd hlater).trans (getInactive_setInactive _ hj hd)

theorem mem_bankedIds : id ∈ bankedIds ↔ isBanked id = true := List.contains_iff_mem.symm

/-- COPY touches no governing value. -/
theorem get_swap (copy : Bool) (hd : d < 256) (hi : i < 256) : (r.swap d copy).get id i = (turnedOver r d).get id i := by
  rw [swap_eq]
  split
  · exact get_copied (fun _ => mem_bankedIds.mp) hd hi
  · rfl

/-- With COPY the new inactive bank holds the new active bank's values, which the old inactive bank held (R304). -/
theorem getInactive_swap_copy (hid : isBanked id = true) (hd : d < 256) :
    (r.swap d true).getInactive id d = r.getInactive id d := by
  rw [swap_eq, if_pos rfl]
  exact (getInactive_copied (fun _ => mem_bankedIds.mp) hd (mem_bankedIds.mpr hid)).trans (get_turnedOver hid hd)

/-! The same of the state's registers. -/

theorem reg_swapBanks_engBank (s : State) (copy : Bool) (hd : d < 256) :
    (s.swapBanks d copy).reg P.engBank d = 1 - s.reg P.engBank d % 2 :=
  (get_swap copy hd hd).trans (get_turnedOver_engBank s.r d)

theorem reg_swapBanks_of_banked (s : State) (copy : Bool) (hid : isBanked id = true) (hd : d < 256) :
    (s.swapBanks d copy).reg id d = s.r.getInactive id d :=
  (get_swap copy hd hd).trans (get_turnedOver hid hd)

theorem reg_swapBanks_ne (s : State) (copy : Bool) (hi : i < 256) (hd : d < 256) (hne : id ≠ P.engBank)
    (hout : isBanked id = false ∨ i ≠ d) : (s.swapBanks d copy).reg id i = s.reg id i :=
  (get_swap copy hd hi).trans (get_turnedOver_ne hi hd hne hout)

/-- A swap that is taken at once answers with the bank that now governs. -/
theorem bodyEngSwap_of_now {c : Cmd} {pl : List Byte} (hd : c.inst ≤ 3) (hl : pl.length = 1)
    (ho : (s.txnOf c.iface).isOpen = false) (hc : s.computes c.inst = true) (hp : s.swapPending c.inst = false)
    (hnow : s.takesLater c.inst = false) :
    bodyEngSwap s c pl = (s.swapBanks c.inst (bit (fieldAt pl 0 1) 0),
      .ok (leBytes 8 s.epoch ++ leBytes 1 (1 - s.reg P.engBank c.inst % 2))) := by
  have hbank : (1 - s.reg P.engBank c.inst % 2) % 2 = 1 - s.reg P.engBank c.inst % 2 := by omega
  rw [bodyEngSwap_of_closed hd hl ho hc hp, if_neg (Bool.eq_false_iff.mp hnow),
    reg_swapBanks_engBank s _ (Nat.lt_of_le_of_lt hd (by decide)), hbank]
  rfl

/-- Settles O46: the body swaps the banks, and its answer leaves their registers alone. -/
theorem swapsExchangeTheBanks : Obligations.SwapsExchangeTheBanks := by
  unfold Obligations.SwapsExchangeTheBanks
  intro s h pl hs c u d hd hl ho hc hp hnow
  have hd256 : d < 256 := Nat.lt_of_le_of_lt hd (by decide)
  have hkeeps := settled_reply_keepsRegs (c := c) (u.swapBanks d (bit (fieldAt pl 0 1) 0))
    (.ok (leBytes 8 u.epoch ++ leBytes 1 (1 - u.reg P.engBank d % 2))) h.ring.isLt
  refine ⟨_, runCommand_of_body hs (bodyEngSwap_of_now hd hl ho hc hp hnow), ?active, rfl, ?governing, ?copy, ?frame⟩
  case active => exact (hkeeps P.engBank d hd256 (by decide)).trans (reg_swapBanks_engBank u _ hd256)
  case governing =>
    intro id hid
    have hown : id ∉ hostOwn := (by decide : ∀ j ∈ bankedIds, j ∉ hostOwn) id (mem_bankedIds.mpr hid)
    exact (hkeeps id d hd256 hown).trans (reg_swapBanks_of_banked u _ hid hd256)
  case copy => exact fun _ id hid => getInactive_swap_copy hid hd256
  case frame =>
    intro id i hi hown hne hout
    calc _ = (u.swapBanks d (bit (fieldAt pl 0 1) 0)).reg id i := hkeeps id i hi hown
      _ = u.reg id i := reg_swapBanks_ne u _ hi hd256 hne hout
      _ = s.reg id i := served_keepsRegs s c id i hi hown

/-! Runs (R293, R294, R296). -/

/-- A free lane starts the run that is next. -/
theorem dispatch_of_free {l t : Nat} (hb : s.flt.blk.contains .eng = false) (hon : s.onLane l = none)
    (hnext : s.nextRun l = some (t, d)) (hfree : s.laneFree l ≤ 2 * s.epoch + 1) :
    s.dispatch l = s.startRun d (Nat.max (s.laneFree l) (2 * s.epoch)) := by
  rw [State.dispatch, if_neg (Bool.eq_false_iff.mp hb), hon, hnext]
  exact if_pos hfree

/-- A run past its deadline that is not yet marked late is marked, and is an overrun of the next tick. -/
theorem missDeadline_of_past {run : Run} (hr : s.runOf d = some run) (hl : run.late = false)
    (hp : run.deadline < s.epoch) :
    s.missDeadline d = (s.setRun d (some { run with late := true })).overrun d (run.deadline + 1) := by
  rw [State.missDeadline, hr]
  exact if_neg (by simp [hl, hp])

/-- Settles O17: each clause's hypotheses decide the tests of its command. -/
theorem engineRunsAreServed : Obligations.EngineRunsAreServed := by
  unfold Obligations.EngineRunsAreServed
  refine ⟨?start, ?miss, ?finish⟩
  case start =>
    exact fun s l t d hm hb hon hnext hfree =>
      (fin_if_pos hm).trans (congrArg fin (dispatch_of_free hb hon hnext hfree))
  case miss =>
    exact fun s d run hm hr hl hp =>
      (fin_if_pos hm).trans (congrArg fin (missDeadline_of_past hr hl hp))
  case finish =>
    intro s l d run e hon hr he hm hb hend
    show execEngRunFinish l s = _
    simp only [execEngRunFinish, hon, hr, he]
    exact fin_if_pos ⟨hm, hb, hend⟩

end Sys2Proof.Proofs

/-! PROOFS. Gate drive: the rails and bootstraps, the comparators and the two-step turn-off, safe torque off and the end
of a self-test (R332 to R347, R353). -/

namespace Sys2Proof.Proofs
open Sys2Proof Sys2Proof.Machine Sys2Proof.Laws

variable {s : State}

/-! Two-step turn-off (R340). -/

/-- Step 2 on bridge `b`: its gates are fully off, and their desaturation comparators go inactive. -/
def gatesFullyOff (s : State) (b : Nat) : State :=
  (s.setSoft b none).each (gensOfBridge b) (fun s g =>
    ((s.setChan g { s.chan g with desatHi := false, desatLo := false }).unlive K.desat (2 * g)).unlive K.desat (2 * g + 1))

/-- Where the drive's bridges and those without a drive are one bridge whose TIME has run, step 2 is that bridge's. -/
theorem softTurnoffStep2_next {d : Fin 4} {b t : Nat}
    (hbs : (List.range 4).filter (fun b => (s.bridges d.val).contains b || (s.ownerOf b).isNone) = [b])
    (hsoft : s.softOf b = some t) (hdue : t + s.softTicks b ≤ s.epoch) :
    exec (.softTurnoffStep2 d) s = fin (gatesFullyOff s b) := by
  show execSoftTurnoffStep2 d s = _
  simp only [execSoftTurnoffStep2, hbs, State.each, List.foldl_cons, List.foldl_nil, hsoft]
  exact fin_if_pos hdue

/-! Safe torque off (R345 to R347). -/

/-- The levels of a die once STOA (or STOB) has gone low at `now`: the time since when they differ is brought up to
date. -/
def stoLowered (x : DieSt) (stob : Bool) (now : Nat) : DieSt :=
  (if stob then { x with lowB := true } else { x with lowA := true }).setDiffer now

theorem stoActive_awake {j : Fin 2} {stob : Bool} (ha : s.awake = true)
    (hl : (if stob then (s.die j.val).lowB else (s.die j.val).lowA) = false) :
    exec (.stoActive j stob) s = fin ((s.setDie j.val (stoLowered (s.die j.val) stob s.epoch)).stoTake j.val stob) :=
  (fin_if_neg (Bool.eq_false_iff.mp hl)).trans (fin_if_pos ha)

theorem awake_of_boot (hm : s.pwr.mode = .boot) : s.awake = false := by
  rw [State.awake, hm]
  rfl

/-- In a boot the activation is only noted, for the boot's end to take. -/
theorem stoActive_boot {j : Fin 2} {stob : Bool} (hm : s.pwr.mode = .boot)
    (hl : (if stob then (s.die j.val).lowB else (s.die j.val).lowA) = false) :
    exec (.stoActive j stob) s =
      fin (s.setDie j.val (if stob then { stoLowered (s.die j.val) stob s.epoch with bootB := true }
        else { stoLowered (s.die j.val) stob s.epoch with bootA := true })) :=
  ((fin_if_neg (Bool.eq_false_iff.mp hl)).trans (fin_if_neg (Bool.eq_false_iff.mp (awake_of_boot hm)))).trans
    (congrArg (fun x => fin (s.setDie j.val x)) (if_pos hm))

theorem stoDiscTimeout_next {j : Fin 2} {t : Nat} (hd : (s.die j.val).differ = some t) (ha : s.awake = true)
    (he : expired t (msTicks (s.reg P.gateStoDiscT 0)) s.epoch = true) :
    exec (.stoDiscTimeout j) s = fin (s.report K.stoDisc j.val s.epoch) := by
  show execStoDiscTimeout j s = _
  rw [execStoDiscTimeout, hd]
  exact fin_if_pos (by rw [ha, he]; rfl)

/-! The end of a self-test (R353, R49). -/

/-- What follows the end of the test `t`, which has left `u`: where a PWR_SET began it and it is over, FULL is entered
from HALF, unless an entry into CRESCENT or NEW is under way. -/
def testEnded (s u : State) (t : SelfTest) : State :=
  if t.cmd = none ∧ u.gate.tests.length < s.gate.tests.length ∧ u.pwr.mode = .half ∧ u.pwr.entering = none then
    u.enterFull false
  else u

theorem selftestDone_next {res : SelftestResult} {t : SelfTest} (he : s.endedTest = some t) :
    exec (.selftestDone res) s = fin (testEnded s (s.endTest t res) t) := by
  show execSelftestDone res s = _
  rw [execSelftestDone, he]
  rfl

/-- A command's test, a test that is not over, and one that ends in another mode leave the mode alone. -/
theorem testEnded_of_stays {u : State} {t : SelfTest}
    (h : t.cmd ≠ none ∨ u.gate.tests.length = s.gate.tests.length ∨ u.pwr.mode ≠ .half) : testEnded s u t = u := by
  refine if_neg ?_
  rintro ⟨hcmd, hover, hmode, -⟩
  rcases h with h | h | h
  · exact h hcmd
  · exact Nat.ne_of_lt hover h
  · exact h hmode

/-- Settles O18: each clause's hypotheses decide the tests of its command; an activation of STO is a `stoTake` of the
lowered die, an overcurrent is reported at the epoch that its count has left alone, and what the end of a self-test
leads to is `testEnded`. -/
theorem gateCommandsRun : Obligations.GateCommandsRun := by
  unfold Obligations.GateCommandsRun
  refine ⟨?vdrvFall, ?vdrvRise, ?bootstrap, ?dieInterlock, ?desat, ?hocEdge, ?hocRelease, ?softStep2, ?stoAwake, ?stoBoot,
    ?stoRelease, ?stoDisc, ?testStays, ?testEntersFull⟩
  case vdrvFall => exact fun s j hup htest => fin_if_neg (by simp [hup, htest])
  case vdrvRise => exact fun s j ha hup => fin_if_neg (by simp [ha, hup])
  case bootstrap => exact fun s g ha hgh htest hhold => fin_if_neg (by simp [ha, hgh, htest, hhold])
  case dieInterlock => exact fun s g ha hx => fin_if_neg (by simp [ha, hx])
  case desat =>
    intro s g low latched ha hen htest
    exact fin_if_neg (by rw [ha, hen, htest]; decide)
  case hocEdge =>
    intro s b ha htest
    refine Eq.trans (fin_if_neg (by simp [ha, htest])) ?_
    simp only [bump_epoch]
  case hocRelease => exact fun s b _ => rfl
  case softStep2 => exact fun s d b t hbs hsoft hdue => softTurnoffStep2_next hbs hsoft hdue
  case stoAwake => exact fun s j stob hl ha => stoActive_awake ha hl
  case stoBoot => exact fun s j stob hl hm => stoActive_boot hm hl
  case stoRelease => exact fun s stob _ => rfl
  case stoDisc => exact fun s j t hd ha he => stoDiscTimeout_next hd ha he
  case testStays =>
    exact fun s res t he h => (selftestDone_next he).trans (congrArg fin (testEnded_of_stays h))
  case testEntersFull =>
    exact fun s res t he hcmd hover hmode hentry =>
      (selftestDone_next he).trans (fin_if_pos ⟨hcmd, hover, hmode, hentry⟩)

end Sys2Proof.Proofs

/-! PROOFS. The DC link and its choppers: the undervoltage filters, the OV4 short from its edge to its release, and the
two ways in which a chopper fails (R360, R365 to R368). -/

namespace Sys2Proof.Proofs
open Sys2Proof Sys2Proof.Machine Sys2Proof.Laws

variable {s : State}

/-! Undervoltage (R360): a filter that has run makes its level active, where it is not yet. -/

theorem uvFiltExpiry_uv1 {n : Fin 4} {t : Nat} (ha : s.awake = true) (hl : (s.grp n.val).uv1 = false)
    (ht : (s.grp n.val).uv1At = some t) (he : expired t (usTicks (s.reg P.busUvFilt n.val)) s.epoch = true) :
    exec (.uvFiltExpiry n false) s =
      fin ((s.setGrp n.val { s.grp n.val with uv1 := true }).report K.busUv1 n.val s.epoch) :=
  ((fin_if_neg (by simp [ha])).trans (fin_if_neg Bool.false_ne_true)).trans (fin_if_pos (by simp [hl, ht, he]))

theorem uvFiltExpiry_uv2 {n : Fin 4} {t : Nat} (ha : s.awake = true) (hl : (s.grp n.val).uv2 = false)
    (ht : (s.grp n.val).uv2At = some t) (he : expired t (usTicks (s.reg P.busUvFilt n.val)) s.epoch = true) :
    exec (.uvFiltExpiry n true) s =
      fin ((s.setGrp n.val { s.grp n.val with uv2 := true }).report K.busUv2 n.val s.epoch) :=
  ((fin_if_neg (by simp [ha])).trans (fin_if_pos rfl)).trans (fin_if_pos (by simp [hl, ht, he]))

/-! The check of a chopper (R365, R366). -/

/-- A check that expires without passing holds the chopper off, and the group's allowance follows. -/
theorem chopCheckExpiry_next {c : Fin 2} {t : Nat} (hc : (s.chop c.val).check = some t) (hh : s.pwm.halted = none)
    (he : expired t (usTicks (s.reg P.busChopCheck c.val)) s.epoch = true) :
    exec (.chopCheckExpiry c) s =
      fin (((s.setChop c.val { s.chop c.val with on := false, check := none }).report K.chopFail c.val s.epoch).regen
        (s.chopGroup c.val)) := by
  show execChopCheckExpiry c s = _
  simp only [execChopCheckExpiry, hc]
  exact fin_if_pos (by rw [hh, he]; rfl)

/-- Settles O19: each clause's hypotheses decide the tests of its command. -/
theorem busCommandsRun : Obligations.BusCommandsRun := by
  unfold Obligations.BusCommandsRun
  refine ⟨?uv1, ?uv2, ?ov4Edge, ?ov4Inactive, ?ov4Release, ?chopCheck, ?chopDesat⟩
  case uv1 =>
    rintro s n _ t ha rfl hl ht he
    exact uvFiltExpiry_uv1 ha hl ht he
  case uv2 =>
    rintro s n _ t ha rfl hl ht he
    exact uvFiltExpiry_uv2 ha hl ht he
  case ov4Edge => exact fun s b ha htest => fin_if_neg (by simp [ha, htest])
  case ov4Inactive => exact fun s b hb => fin_if_neg (by simp [hb])
  case ov4Release => exact fun s n hl hq he => fin_if_pos (by rw [hl, hq, he]; rfl)
  case chopCheck => exact fun s c t hc hh he => chopCheckExpiry_next hc hh he
  case chopDesat => exact fun s c ha hen htest => fin_if_pos (by rw [ha, hen, htest]; rfl)

end Sys2Proof.Proofs

/-! PROOFS. The fault collector: commands that wait for a round's end (R389), the refusals of JOURNAL_READ (R416),
FLT_CLEAR record by record (R398, R411 to R413), and the timers of records, penumbras, the mirror, the journal's tail,
injection and decisions (R133, R387, R409, R415, R418, R421). -/

namespace Sys2Proof.Proofs
open Sys2Proof Sys2Proof.Machine Sys2Proof.Laws

variable {s : State} {c : Cmd} {pl : List Byte}

/-! Commands that wait for the end of the tick (R389). -/

theorem serveAll_of_one {x : Cmd × List Byte} (h : s.host.atEnd = [x]) :
    s.serveAll = State.serveAtEnd { s with host := { s.host with atEnd := [] } } x := by
  rw [State.serveAll, h]
  rfl

/-- A command that waited runs its body and is answered, busy where the same command still runs. -/
theorem serveAtEnd_of_known {takes deferred : Bool} (h : opcodeInfo c.opcode = some (takes, deferred)) :
    s.serveAtEnd (c, pl) =
      if (deferred && s.isRunning c.opcode c.inst) = true then s.respond c St.busy 0xFFFF []
      else (bodyOf c.opcode s c pl).1.reply c (bodyOf c.opcode s c pl).2 := by
  simp only [State.serveAtEnd, h]

/-- Settles O36: `serve_of_waits` keeps the command, and `serveAll` serves the only one kept. -/
theorem commandsOfARoundsEndWait : Obligations.CommandsOfARoundsEndWait := by
  unfold Obligations.CommandsOfARoundsEndWait
  refine ⟨?kept, ?served⟩
  case kept => exact fun s op h pl i hi ha hw => (exec_mailbox s hi).trans (serve_of_waits s h op pl _ ha hw)
  case served =>
    intro s c pl takes deferred hone hinfo u
    rw [serveAll_of_one hone]
    exact serveAtEnd_of_known (s := u) hinfo

/-! The refusals of JOURNAL_READ (R416): the ranges of the payload are tested before FLT.STREAM. -/

/-- A field of the payload lies outside its range. -/
def JournalReadOutOfRange (pl : List Byte) : Prop :=
  1 < fieldAt pl 0 1 ∨ fieldAt pl 2 1 = 0 ∨ (if fieldAt pl 0 1 = 0 then 31 else 27) < fieldAt pl 2 1 ∨
    63 < fieldAt pl 3 1 ∨ (fieldAt pl 0 1 = 0 ∧ fieldAt pl 3 1 ≠ 0) ∨ (fieldAt pl 0 1 = 1 ∧ bit (fieldAt pl 1 1) 0 = true)

theorem bodyJournalRead_of_outOfRange (hl : pl.length = 4) (hr : JournalReadOutOfRange pl) :
    bodyJournalRead s c pl = (s, .refuse St.range) :=
  (if_neg (not_not_intro hl)).trans (if_pos hr)

theorem bodyJournalRead_of_streamed (hl : pl.length = 4) (hr : ¬ JournalReadOutOfRange pl)
    (hst : bit (fieldAt pl 1 1) 0 = true ∧ s.reg P.fltStream 0 = 1) :
    bodyJournalRead s c pl = (s, .refuse St.badState) :=
  (if_neg (not_not_intro hl)).trans <| (if_neg hr).trans (if_pos hst)

/-- Settles O55: the refusals in the order of the body's tests. -/
theorem journalReadsAreRefused : Obligations.JournalReadsAreRefused := by
  unfold Obligations.JournalReadsAreRefused
  refine ⟨?range, ?streamed⟩
  case range => exact fun s h pl hs hl hr => runCommand_of_body hs (bodyJournalRead_of_outOfRange hl hr)
  case streamed => exact fun s h pl hs hl hr hst => runCommand_of_body hs (bodyJournalRead_of_streamed hl hr hst)

/-! The journal leaves the records alone (R414, R415). -/

theorem frec_of_recs {t : State} (h : t.flt.recs = s.flt.recs) (sel : Nat) : t.frec sel = s.frec sel := by
  rw [State.frec, h, State.frec]

theorem enterTail_recs (s : State) : s.enterTail.flt.recs = s.flt.recs := by
  unfold State.enterTail
  split <;> rfl

theorem enter_recs (s : State) (e : JEntry) (ab : Bool) : (s.enter e ab).1.flt.recs = s.flt.recs := by
  rw [← enterTail_recs s]
  unfold State.enter
  dsimp only
  generalize (if ab = true then 1024 else 1008) = room
  split <;> rfl

@[simp] theorem frec_enter (s : State) (e : JEntry) (ab : Bool) (sel : Nat) : (s.enter e ab).1.frec sel = s.frec sel :=
  frec_of_recs (enter_recs s e ab) sel

/-! The first item of a FLT_CLEAR (R411): the state it leaves, its counts, and what it tells. -/

section
variable {k i : Nat} {row : SourceRow} (hk : k ≠ 0xFF) (hi : i ≠ 0xFF)
include hk hi

/-- An item whose kind is not listed, or whose number is past the kind's rows, is refused. -/
theorem firstItem_of_noRecord (h : ∀ row, sourceRow k = some row → row.n ≤ i) :
    ClearAcc.item { s := s } 0 k i = ⟨s, 0, 0, St.badInst, 0⟩ := by
  unfold ClearAcc.item
  extract_lets many
  refine (if_neg hk).trans ?_
  cases hrow : sourceRow k with
  | none => rfl
  | some row => exact (if_neg hi).trans (if_pos (h row hrow))

variable (hrow : sourceRow k = some row) (hn : i < row.n)
include hrow hn

theorem firstItem_of_uncaused (hc : (s.frec (selector k i)).cause = false) :
    ClearAcc.item { s := s } 0 k i = ⟨s, 0, 0, St.ok, 0xFFFF⟩ := by
  simp only [ClearAcc.item, hk, hi, if_false, hrow, Nat.not_le.mpr hn, hc]
  rfl

variable (hc : (s.frec (selector k i)).cause = true)
include hc

theorem firstItem_of_classAB (hcls : row.cls = .a ∨ row.cls = .b) :
    ClearAcc.item { s := s } 0 k i = ⟨s, 0, 0, St.badState, 0⟩ := by
  simp only [ClearAcc.item, hk, hi, if_false, hrow, Nat.not_le.mpr hn, hc]
  rcases hcls with h | h <;> rw [h] <;> rfl

theorem firstItem_of_present (hcls : row.cls = .c) (hp : s.causePresent k i = true) :
    ClearAcc.item { s := s } 0 k i = ⟨s, 0, 0, St.causeActive, 0⟩ := by
  simp only [ClearAcc.item, hk, hi, if_false, hrow, Nat.not_le.mpr hn, hc, hcls, hp]
  rfl

/-- A record of class D, or of class C without its cause, is cleared, and counts where it was set before the tick. -/
theorem firstItem_of_clearable (h : row.cls = .d ∨ row.cls = .c ∧ s.causePresent k i = false) :
    ClearAcc.item { s := s } 0 k i =
      ⟨s.clearItem (selector k i), ((s.frec (selector k i)).wasSet s.epoch).toNat, 0, St.ok, 0xFFFF⟩ := by
  rw [← Nat.zero_add (Bool.toNat _)]
  simp only [ClearAcc.item, hk, hi, if_false, hrow, Nat.not_le.mpr hn, hc]
  rcases h with h | ⟨h, hp⟩
  · rw [h]
    rfl
  · rw [h, hp]
    rfl

end

theorem clearItem_of_earlier {sel : Nat} (h : (s.frec sel).setAt ≠ some s.epoch) : s.clearItem sel = s.clearRec sel :=
  if_neg h

/-- A report of the tick of the clear prevails (R398). -/
theorem clearItem_of_now {sel : Nat} (h : (s.frec sel).setAt = some s.epoch) :
    s.clearItem sel = s.setRec sel { s.frec sel with firstEpoch := (s.frec sel).lastEpoch } :=
  if_pos h

theorem wasSet_of_earlier {x : FRec} {now : Nat} (h : x.setAt ≠ some now) : x.wasSet now = true := by
  rw [FRec.wasSet, bne_iff_ne.mpr h, Bool.true_or]

/-! FLT_CLEAR (R411). -/

/-- The journal entry of a FLT_CLEAR: its first item, and what it cleared and skipped. -/
def clearEntry (s : State) (a : ClearAcc) (pl : List Byte) : JEntry :=
  { epoch := s.epoch, type := .clear, kind := fieldAt pl 0 1, inst := fieldAt pl 1 1,
    data := Nat.min top16 a.cleared + Nat.min top16 a.skipped * 2 ^ 16 }

/-- Whole items are cleared one by one, and the command is entered in the journal. -/
theorem bodyFltClear_of_items (h2 : 2 ≤ pl.length) (hl : pl.length ≤ 1004) (he : pl.length % 2 = 0) :
    bodyFltClear s c pl =
      (let a := ClearAcc.items { s := s } 0 pl
       ((a.s.enter (clearEntry s a pl) false).1,
         .now a.status a.index (leBytes 2 a.cleared ++ leBytes 2 a.skipped))) :=
  if_neg (by omega)

/-- A FLT_CLEAR of one item answers what the item gives, and the records are those that the item leaves. -/
theorem fltClear_next {h : Hdr} {k i : Byte} {t : State} {cleared skipped st ix : Nat} (hs : s.serves h 0x1901 = true)
    (hitem : ClearAcc.item { s := s.bodyState h 0x1901 } 0 k.toNat i.toNat = ⟨t, cleared, skipped, st, ix⟩) :
    ∃ w : State, exec (.fltClear h [k, i]) s = .next (State.settle (w.reply (cmdOf h 0x1901 s.epoch)
        (.now st ix (leBytes 2 cleared ++ leBytes 2 skipped)))) ∧
      ∀ sel, w.frec sel = t.frec sel := by
  have hitems : ClearAcc.items { s := s.bodyState h 0x1901 } 0 [k, i] = ⟨t, cleared, skipped, st, ix⟩ := hitem
  have hbody := bodyFltClear_of_items (s := s.bodyState h 0x1901) (c := cmdOf h 0x1901 s.epoch) (pl := [k, i])
    (by simp) (by simp) (by simp)
  rw [hitems] at hbody
  exact ⟨_, runCommand_of_body hs hbody, frec_enter _ _ _⟩

/-- A byte other than 0xFF names one kind or one number of a kind. -/
theorem toNat_ne_of_byte_ne {k : Byte} (h : k ≠ 0xFF#8) : k.toNat ≠ 0xFF :=
  fun e => h (BitVec.eq_of_toNat_eq e)

/-- A listed kind, and a number below its count of records. -/
theorem exists_row_of_named {k i : Nat} (h : (sourceRow k).map (·.n) ≠ none ∧ i < ((sourceRow k).map (·.n)).getD 0) :
    ∃ row, sourceRow k = some row ∧ i < row.n := by
  cases hrow : sourceRow k with
  | none => simp [hrow] at h
  | some row => exact ⟨row, rfl, by simpa [hrow] using h⟩

theorem rows_le_of_unnamed {k i : Nat}
    (h : sourceRow k = none ∨ (sourceRow k).map (·.n) ≠ none ∧ ((sourceRow k).map (·.n)).getD 0 ≤ i) :
    ∀ row, sourceRow k = some row → row.n ≤ i := by
  intro row hrow
  simpa [hrow] using h

/-- Settles O56: the one item decides the answer and the records (`fltClear_next`), by the case of its record. -/
theorem clearsFollowTheTable : Obligations.ClearsFollowTheTable := by
  unfold Obligations.ClearsFollowTheTable
  refine ⟨?noRecord, ?uncaused, ?classAB, ?present, ?cleared, ?reported⟩
  case noRecord =>
    intro s h k i hs hk hi c v hn
    exact fltClear_next hs
      (firstItem_of_noRecord (toNat_ne_of_byte_ne hk) (toNat_ne_of_byte_ne hi) (rows_le_of_unnamed hn))
  case uncaused =>
    intro s h k i hs hk hi c v hn hc
    obtain ⟨row, hrow, hlt⟩ := exists_row_of_named hn
    exact fltClear_next hs (firstItem_of_uncaused (toNat_ne_of_byte_ne hk) (toNat_ne_of_byte_ne hi) hrow hlt hc)
  case classAB =>
    intro s h k i hs hk hi c v hn hc hcls
    obtain ⟨row, hrow, hlt⟩ := exists_row_of_named hn
    exact fltClear_next hs (firstItem_of_classAB (toNat_ne_of_byte_ne hk) (toNat_ne_of_byte_ne hi) hrow hlt hc
      (by simpa [hrow] using hcls))
  case present =>
    intro s h k i hs hk hi c v hn hc hcls hp
    obtain ⟨row, hrow, hlt⟩ := exists_row_of_named hn
    exact fltClear_next hs (firstItem_of_present (toNat_ne_of_byte_ne hk) (toNat_ne_of_byte_ne hi) hrow hlt hc
      (by simpa [hrow] using hcls) hp)
  case cleared =>
    intro s h k i hs hk hi c v hn hc hcls hat
    obtain ⟨row, hrow, hlt⟩ := exists_row_of_named hn
    have hitem := firstItem_of_clearable (toNat_ne_of_byte_ne hk) (toNat_ne_of_byte_ne hi) hrow hlt hc
      (by simpa [hrow] using hcls)
    rw [clearItem_of_earlier hat, wasSet_of_earlier hat] at hitem
    exact fltClear_next hs hitem
  case reported =>
    intro s h k i hs hk hi c v hn hc hcls hat
    obtain ⟨row, hrow, hlt⟩ := exists_row_of_named hn
    have hitem := firstItem_of_clearable (toNat_ne_of_byte_ne hk) (toNat_ne_of_byte_ne hi) hrow hlt hc
      (by simpa [hrow] using hcls)
    rw [clearItem_of_now hat] at hitem
    exact fltClear_next hs hitem

/-! The timers of the collector (R133, R387, R409, R415, R418, R421). -/

/-- The oldest waiting shutdown record is in its slot, and the next slot follows (R387). -/
def shdnRecordWritten (s : State) (words : List Nat) (rest : List (Nat × List Nat)) : State :=
  let slot := s.reg P.thermShdnNext 0
  let t := (s.each (List.range 4) (fun s w => s.setReg P.thermShdnRec (4 * slot + w) (words.getD w 0))).setReg
    P.thermShdnNext 0 ((slot + 1) % 8)
  { t with flt := { t.flt with shdnQ := rest } }

theorem shdnRecordWritten_therm (words : List Nat) (rest : List (Nat × List Nat)) :
    (shdnRecordWritten s words rest).therm = s.therm :=
  each_same s State.therm _ _ (fun _ _ _ => rfl)

/-- The slot of a unit that is no longer in `shutdown` is not kept. -/
theorem shdnRecordWrite_next {u : Nat} {words : List Nat} {rest : List (Nat × List Nat)}
    (hq : s.flt.shdnQ = (u, words) :: rest) (hu : Smap.get (fun _ => none) s.therm.shdn u = none) :
    exec .shdnRecordWrite s = fin (shdnRecordWritten s words rest) := by
  have hstays : Smap.get (fun _ => none) (shdnRecordWritten s words rest).therm.shdn u = none := by
    rw [shdnRecordWritten_therm, hu]
  show execShdnRecordWrite s = _
  simp only [execShdnRecordWrite, hq]
  split
  case h_1 x hx => exact absurd (hstays.symm.trans hx) (by simp)
  case h_2 => rfl

/-- Settles O20: each clause's hypotheses decide the tests of its command; a shutdown record goes to its slot as
`shdnRecordWrite_next` says. -/
theorem faultTimersRun : Obligations.FaultTimersRun := by
  unfold Obligations.FaultTimersRun
  refine ⟨?shdnRecord, ?penumbra, ?mirror, ?tail, ?injection, ?decision⟩
  case shdnRecord => exact fun s u words rest hq hu => shdnRecordWrite_next hq hu
  case penumbra => exact fun s hp ha => fin_if_neg (by simp [hp, ha])
  case mirror => exact fun s ha => fin_if_pos ha
  case tail => exact fun s ha => fin_if_pos ha
  case injection =>
    intro s x hx ha hw he
    show execInjTimeout s = _
    rw [execInjTimeout, hx]
    exact fin_if_pos (by simp [ha, hw, he])
  case decision =>
    intro s kind inst sel u v ha hawait hover hrun
    exact (fin_if_neg (by simp [sel, ha, hawait, hover])).trans (fin_if_pos hrun)

end Sys2Proof.Proofs

/-! PROOFS. The check-value units and what the collector and the link share with them: CHK_SCAN and its refusals (R424,
R430), FLT_INJECT (R420, R421), LINK_ENUM (R449), and the controls that act at once (R131 to R134, R149, R310, R400,
R428, R441, R467, R478, R487, R490, R491). -/

namespace Sys2Proof.Proofs
open Sys2Proof Sys2Proof.Machine Sys2Proof.Laws

variable {s : State} {c : Cmd} {pl : List Byte}

/-! CHK_SCAN (R430): INST is tested first, then the length, then the unit, and the ranges last. -/

/-- The unit has a scan that runs or is held. -/
def ScanUnderWay (s : State) (u : Nat) : Prop := s.chkState u = 1 ∨ s.chkState u = 2

/-- A field of the payload lies outside its range, or the scan would leave its memory. -/
def ScanOutOfRange (pl : List Byte) : Prop :=
  4 < fieldAt pl 0 1 ∨ fieldAt pl 8 4 = 0 ∨ 0x400000 < fieldAt pl 8 4 ∨
    inOneMemory (fieldAt pl 4 4) (fieldAt pl 8 4) = false

/-- What a CHK_SCAN sets up: the preset of its algorithm, its range, and the value to compare with. -/
def scanSetUp (s : State) (c : Cmd) (pl : List Byte) : State :=
  let v := s.setReg P.chkCfg c.inst (putBits (s.reg P.chkCfg c.inst) 0 3 (fieldAt pl 0 1))
  let v := (v.setReg P.chkAddr c.inst (fieldAt pl 4 4)).setReg P.chkRem c.inst (fieldAt pl 8 4)
  let v := (v.setReg P.chkExpect c.inst (fieldAt pl 12 4)).setReg P.chkCur c.inst (v.chkAlg c.inst).init
  let v := v.setReg P.chkStat c.inst 1
  v.setUnit c.inst { cmd := some c, compare := bit (fieldAt pl 1 1) 0 }

theorem bodyChkScan_of_badInst (hi : 2 < c.inst) : bodyChkScan s c pl = (s, .refuse St.badInst) :=
  if_pos hi

section
variable (hi : c.inst ≤ 2) (hl : pl.length = 16)
include hi hl

theorem bodyChkScan_of_underWay (hu : ScanUnderWay s c.inst) : bodyChkScan s c pl = (s, .refuse St.busy) :=
  (if_neg (Nat.not_lt.mpr hi)).trans <| (if_neg (not_not_intro hl)).trans (if_pos hu)

theorem bodyChkScan_of_outOfRange (hu : ¬ ScanUnderWay s c.inst) (hr : ScanOutOfRange pl) :
    bodyChkScan s c pl = (s, .refuse St.range) :=
  (if_neg (Nat.not_lt.mpr hi)).trans <| (if_neg (not_not_intro hl)).trans <| (if_neg hu).trans (if_pos hr)

theorem bodyChkScan_of_idle (hu : ¬ ScanUnderWay s c.inst) (hr : ¬ ScanOutOfRange pl) :
    bodyChkScan s c pl = (scanSetUp s c pl, .deferred) :=
  (if_neg (Nat.not_lt.mpr hi)).trans <| (if_neg (not_not_intro hl)).trans <| (if_neg hu).trans (if_neg hr)

end

/-- Settles O54: the refusals in the order of the body's tests. -/
theorem scansAreRefused : Obligations.ScansAreRefused := by
  unfold Obligations.ScansAreRefused
  refine ⟨?badInst, ?underWay, ?range⟩
  case badInst => exact fun s h pl hs hi => runCommand_of_body hs (bodyChkScan_of_badInst hi)
  case underWay => exact fun s h pl hs hi hl hu => runCommand_of_body hs (bodyChkScan_of_underWay hi hl hu)
  case range => exact fun s h pl hs hi hl hu hr => runCommand_of_body hs (bodyChkScan_of_outOfRange hi hl hu hr)

/-! FLT_INJECT (R420, R421). -/

/-- What a FLT_INJECT injects. -/
def injectionFor (s : State) (c : Cmd) (pl : List Byte) (k i : Nat) : Inject :=
  { cmd := c, noReact := bit (fieldAt pl 3 1) 0, epoch := s.epoch, kind := k, inst := i }

/-- Every drive of a list is stopped, as the body asks it. -/
theorem any_not_eq_false_of_all {l : List Nat} {p : Nat → Bool} (h : l.all p = true) :
    l.any (fun d => !p d) = false := by
  rw [List.any_eq_false]
  intro d hd
  simp [List.all_eq_true.mp h d hd]

section
variable {k i : Nat} (hl : pl.length = 4)
  (ht : injectTarget (fieldAt pl 0 1) (fieldAt pl 1 1) (fieldAt pl 2 1) = some (k, i))
  (hd : (List.range 4).all s.stopped = true) (hn : s.flt.inject = none)
include hl ht hd hn

/-- With every drive stopped and no injection under way, a port's frame is waited for, and any other access is made
at once. -/
theorem bodyFltInject_of_free (hp : k = K.linkCrc → s.portState i = portUp ∨ s.portState i = portSpare) :
    bodyFltInject s c pl =
      (if k = K.linkCrc then
        ({ s with flt := { s.flt with inject := some { injectionFor s c pl k i with waits := true } } }, .later)
      else (s.injectAccess (injectionFor s c pl k i), .later)) := by
  have hport : ¬ (k = K.linkCrc ∧ s.portState i ≠ portUp ∧ s.portState i ≠ 3) := by
    rintro ⟨hk, hup, hspare⟩
    exact (hp hk).elim hup hspare
  simp only [bodyFltInject, hl, ht, any_not_eq_false_of_all hd, hport, hn]
  rfl

theorem bodyFltInject_of_access (hk : k ≠ K.linkCrc) :
    bodyFltInject s c pl = (s.injectAccess (injectionFor s c pl k i), .later) :=
  (bodyFltInject_of_free hl ht hd hn (fun h => absurd h hk)).trans (if_neg hk)

end

/-! LINK_ENUM (R449). -/

/-- The ENUM frames of the root leave, and the enumeration begins. -/
def enumBegun (s : State) (c : Cmd) : State :=
  let ups := [0, 1, 2].filter (fun p => s.portState p == portUp)
  let v := (s.takeSeq 0x40).2.each ups (fun t p => t.enqueue p
    { type := 0x40, dst := 0xFF, src := t.linkId, seq := (s.takeSeq 0x40).1,
      payload := zeros 4 ++ leBytes 8 (t.reg P.linkUid 0) })
  let w := v.setBit P.linkStat 0 4 true
  { w with link := { w.link with enum := some { cmd := c, start := v.epoch } } }

theorem bodyLinkEnum_of_root (hl : pl.length = 0) (hr : s.isRoot = true)
    (hu : [0, 1, 2].any (fun p => s.portState p == portUp) = true) (hd : (List.range 4).all s.stopped = true) :
    bodyLinkEnum s c pl = (enumBegun s c, .deferred) := by
  have hups : [0, 1, 2].filter (fun p => s.portState p == portUp) ≠ [] := by
    obtain ⟨p, hp, hup⟩ := List.any_eq_true.mp hu
    exact List.ne_nil_of_mem (List.mem_filter.mpr ⟨hp, hup⟩)
  have hstate : ¬ (s.isRoot = false ∨ [0, 1, 2].filter (fun p => s.portState p == portUp) = []) := by
    rintro (h | h)
    · rw [hr] at h; cases h
    · exact hups h
  have hstopped : ¬ (List.range 4).any (fun d => !s.stopped d) = true := by
    rw [any_not_eq_false_of_all hd]
    exact Bool.false_ne_true
  exact (if_neg (not_not_intro hl)).trans <| (if_neg hstate).trans (if_neg hstopped)

/-- Settles O5: each command is served, and its clause's hypotheses decide the branch that its body takes. -/
theorem faultAndCheckCommandsRun : Obligations.FaultAndCheckCommandsRun := by
  unfold Obligations.FaultAndCheckCommandsRun
  refine ⟨?clear, ?access, ?waits, ?scan, ?enumerate⟩
  case clear => exact fun s h pl hs h2 hl he => runCommand_of_body hs (bodyFltClear_of_items h2 hl he)
  case access =>
    exact fun s h pl k i hs hl ht hd hk hn => runCommand_of_body hs (bodyFltInject_of_access hl ht hd hn hk)
  case waits =>
    exact fun s h pl i hs hl ht hd hp hn =>
      runCommand_of_body hs ((bodyFltInject_of_free hl ht hd hn (fun _ => hp)).trans (if_pos rfl))
  case scan =>
    intro s h pl c u hs hi hl hrun hheld hpre hlen hmax hmem
    refine runCommand_of_body hs (bodyChkScan_of_idle hi hl (not_or.mpr ⟨hrun, hheld⟩) ?_)
    rintro (hr | hr | hr | hr)
    · omega
    · omega
    · omega
    · rw [hmem] at hr; cases hr
  case enumerate => exact fun s h hs hr hu hd => runCommand_of_body hs (bodyLinkEnum_of_root rfl hr hu hd)

/-! Controls (R131 to R134, R149, R310, R400, R428, R441, R467, R478, R487, R490, R491). -/

/-- Units 0 to 2 obey CHK.CTL while commands are served (R428). -/
theorem chkCtl_of_host {u : Fin 4} {t : State} (hs : s.serving = true) (hu : u.val ≠ 3) :
    fin (if s.serving && u.val != 3 then t else s) = .next t.settle :=
  fin_if_pos (by simp [hs, hu])

/-! The key store (R467). -/

theorem keyWr_next {e : Byte} {v : DWord} (hs : s.serving = true) (hk : s.keyWritable e.toNat = true) :
    exec (.keyWr e v) s =
      .next (State.settle { s with keys := Smap.set (fun _ => none) s.keys e.toNat (some v.toNat) }) :=
  (fin_if_pos hs).trans (fin_if_pos hk)

theorem secLock_next (hs : s.serving = true) (h2 : s.slotFull 2 = true) (h3 : s.slotFull 3 = true)
    (hf : s.inField = false) :
    exec .secLock s = .next (s.setReg P.secStat 0 (putBits (s.reg P.secStat 0 ||| 1) 4 2 0)).settle :=
  (fin_if_pos hs).trans (fin_if_pos (by simp [State.lockable, h2, h3, hf]))

/-- Settles O8: each clause's hypotheses decide the tests of its command. -/
theorem controlWritesRun : Obligations.ControlWritesRun := by
  unfold Obligations.ControlWritesRun
  refine ⟨?fltSel, ?hostDec, ?hostT, ?perfRun, ?perfStop, ?perfCnt, ?bootPref, ?updCommit, ?rcClear, ?capStop, ?chkGo,
    ?chkHold, ?chkAbort, ?arbVioskik, ?arbTasks, ?secLock, ?keyWr, ?portEn⟩
  case fltSel => exact fun s i sel hs => fin_if_pos hs
  case hostDec => exact fun s path action hs => fin_if_pos hs
  case hostT => exact fun s g v hs hv => fin_if_pos (by simp [hs, hv])
  case perfRun => exact fun s c hs => fin_if_pos hs
  case perfStop => exact fun s c hs => fin_if_pos hs
  case perfCnt => exact fun s e v hs => fin_if_pos hs
  case bootPref => exact fun s b hs => fin_if_pos hs
  case updCommit => exact fun s d hs ht => fin_if_pos (by simp [hs, ht])
  case rcClear => exact fun s d hs => fin_if_pos hs
  case capStop => exact fun s d hs => fin_if_pos hs
  case chkGo => exact fun s u hs hu => chkCtl_of_host hs hu
  case chkHold => exact fun s u hs hu => chkCtl_of_host hs hu
  case chkAbort => exact fun s u hs hu => chkCtl_of_host hs hu
  case arbVioskik => exact fun s hs => fin_if_pos hs
  case arbTasks => exact fun s hs => fin_if_pos hs
  case secLock => exact fun s hs h2 h3 hf => secLock_next hs h2 h3 hf
  case keyWr => exact fun s e v hs hk => keyWr_next hs hk
  case portEn => exact fun s v hs => fin_if_pos hs

end Sys2Proof.Proofs

/-! PROOFS. Security: key words written once and the final lock (R467), the firmware update from its opening to its end
(R475 to R477), user tasks (R479, R480), debug access (R482, R483), and the events of memory checks and random numbers
(R425, R431 to R433, R436, R484). -/

namespace Sys2Proof.Proofs
open Sys2Proof Sys2Proof.Machine Sys2Proof.Laws

variable {s : State} {c : Cmd} {pl : List Byte}

/-! The key store (R467). -/

/-- In `provision` a word of slots 2 to 4 that is not yet written may be written. -/
theorem keyWritable_of_unwritten {e : Nat} (hf : s.inField = false) (hlow : 16 ≤ e) (hhigh : e < 34)
    (hn : Smap.get (fun _ => none) s.keys e = none) : s.keyWritable e = true := by
  simp [State.keyWritable, hf, hlow, hhigh, hn]

theorem keyWritable_of_refused {e : Nat}
    (h : s.inField = true ∨ e < 16 ∨ 34 ≤ e ∨ (Smap.get (fun _ => none) s.keys e).isSome = true) :
    s.keyWritable e = false := by
  rw [Bool.eq_false_iff]
  intro hw
  simp only [State.keyWritable, Bool.and_eq_true, Bool.not_eq_true', decide_eq_true_eq, Option.isNone_iff_eq_none] at hw
  obtain ⟨⟨⟨hf, hlow⟩, hhigh⟩, hn⟩ := hw
  rcases h with h | h | h | h
  · rw [hf] at h; cases h
  · omega
  · omega
  · rw [hn] at h; cases h

/-- A key word that may not be written stays, and so does everything else. -/
theorem keyWr_of_refused {e : Byte} {v : DWord} (h : s.keyWritable e.toNat = false) :
    exec (.keyWr e v) s = .next s.settle := by
  have hwrite : s.keyWrite e.toNat v.toNat = s := if_neg (Bool.eq_false_iff.mp h)
  show execKeyWr e v s = _
  rw [execKeyWr, hwrite, ite_self, fin]

theorem lock_of_refused (h : s.inField = true ∨ s.slotFull 2 = false ∨ s.slotFull 3 = false) : s.lock = s := by
  refine if_neg ?_
  rcases h with h | h | h <;> simp [State.lockable, h]

theorem secLock_of_refused (h : s.inField = true ∨ s.slotFull 2 = false ∨ s.slotFull 3 = false) :
    exec .secLock s = .next s.settle := by
  show execSecLock s = _
  rw [execSecLock, lock_of_refused h, ite_self, fin]

/-- Settles O38: a word is written where `keyWritable` holds, and the lock acts where both slots are full. -/
theorem keysAreWrittenOnce : Obligations.KeysAreWrittenOnce := by
  unfold Obligations.KeysAreWrittenOnce
  refine ⟨?written, ?refused, ?locked, ?lockRefused⟩
  case written =>
    exact fun s e v hs hf hlow hhigh hn => keyWr_next hs (keyWritable_of_unwritten hf hlow hhigh hn)
  case refused => exact fun s e v h => keyWr_of_refused (keyWritable_of_refused h)
  case locked => exact fun s hs hf h2 h3 => secLock_next hs h2 h3 hf
  case lockRefused => exact fun s h => secLock_of_refused h

/-! The firmware update (R475 to R477). -/

/-- A FW_BEGIN opens an update: the slot of its target is no longer valid (R475). -/
def updateOpened (s : State) (c : Cmd) (pl : List Byte) : State :=
  let v := (s.setBit P.secSlotStat c.inst 0 false).setBit P.secStat 0 6 true
  let f : FwUpdate := { iface := c.iface, target := c.inst, total := fieldAt pl 0 4, last := v.epoch }
  { v with sec := { v.sec with fw := some f } }

theorem bodyFwBegin_of_free (hi : c.inst ≤ 3) (hl : pl.length = 4)
    (hrun : ¬ (s.recovery = false ∧ c.inst < 2 ∧ c.inst = (bit (s.reg P.secStat 0) 1).toNat)) (hfw : s.sec.fw = none)
    (hlow : 192 ≤ fieldAt pl 0 4) (hhigh : fieldAt pl 0 4 ≤ targetSize c.inst) :
    bodyFwBegin s c pl = (updateOpened s c pl, .ok []) := by
  refine (if_neg (Nat.not_lt.mpr hi)).trans <| (if_neg (not_not_intro hl)).trans <| (if_neg hrun).trans <|
    (if_neg (by rw [hfw]; decide)).trans (if_neg ?_)
  rintro (h | h) <;> omega

/-- A chunk is written behind the bytes received so far, and the update has received it (R476). -/
def chunkWritten (s : State) (f : FwUpdate) (pl : List Byte) : State :=
  let g : FwUpdate := { f with got := f.got + (pl.length - 4), last := s.epoch }
  { s with mem := Memory.writeBytes s.mem (targetBase f.target + f.got) (pl.drop 4), sec := { s.sec with fw := some g } }

section
variable {f : FwUpdate} (hi : c.inst ≤ 3) (hfw : s.sec.fw = some f) (hif : f.iface = c.iface) (ht : f.target = c.inst)
  (hfin : f.finish = none)
include hi hfw hif ht hfin

theorem bodyFwFinish_of_open (hl : pl.length = 1) :
    bodyFwFinish s c pl =
      ({ s with sec := { s.sec with fw := some { f with finish := some (c, fieldAt pl 0 1) } } }, .deferred) := by
  simp [bodyFwFinish, Nat.not_lt.mpr hi, hl, hfw, hif, ht, hfin]

variable (h5 : 5 ≤ pl.length) (hl : pl.length ≤ 996)
include h5 hl

/-- A chunk of an open update is written where its OFFSET follows and its bytes do not pass TOTAL. -/
theorem bodyFwChunk_of_open :
    bodyFwChunk s c pl =
      if fieldAt pl 0 4 ≠ f.got ∨ f.total < f.got + (pl.length - 4) then (s, .refuse St.range)
      else (chunkWritten s f pl, .ok []) := by
  have hlen : ¬ (pl.length < 5 ∨ 996 < pl.length) := by omega
  have hopen : ¬ (f.iface ≠ c.iface ∨ f.target ≠ c.inst ∨ f.finish.isSome = true) := by simp [hif, ht, hfin]
  simp only [bodyFwChunk, if_neg (Nat.not_lt.mpr hi), if_neg hlen, hfw, if_neg hopen]
  rfl

theorem bodyFwChunk_of_next (hoff : fieldAt pl 0 4 = f.got) (htot : f.got + (pl.length - 4) ≤ f.total) :
    bodyFwChunk s c pl = (chunkWritten s f pl, .ok []) :=
  (bodyFwChunk_of_open hi hfw hif ht hfin h5 hl).trans (if_neg (by omega))

theorem bodyFwChunk_of_outOfRange (h : fieldAt pl 0 4 ≠ f.got ∨ f.total < f.got + (pl.length - 4)) :
    bodyFwChunk s c pl = (s, .refuse St.range) :=
  (bodyFwChunk_of_open hi hfw hif ht hfin h5 hl).trans (if_pos h)

end

/-- A chunk touches no register. -/
theorem chunkWritten_keepsRegs (s : State) (f : FwUpdate) (pl : List Byte) : KeepsRegs s (chunkWritten s f pl) :=
  KeepsRegs.of_r rfl

/-- The data of a chunk stand at its offset of the target. -/
theorem readBytes_chunkWritten (s : State) (f : FwUpdate) (pl : List Byte) :
    (chunkWritten s f pl).mem.readBytes (targetBase f.target + f.got) (pl.length - 4) = pl.drop 4 := by
  rw [← List.length_drop]
  exact memory_readBytes_writeBytes s.mem _ _

/-- No byte outside the data of a chunk changes. -/
theorem read_chunkWritten_outside (s : State) (f : FwUpdate) (pl : List Byte) {a : Nat}
    (ha : a < targetBase f.target + f.got ∨ targetBase f.target + f.got + (pl.length - 4) ≤ a) :
    (chunkWritten s f pl).mem.read a = s.mem.read a := by
  rw [← List.length_drop] at ha
  exact memory_read_writeBytes_outside s.mem _ _ _ ha

/-! What taking and answering a command leave alone. -/

theorem mem_bodyState (h : Hdr) (op : Nat) : (s.bodyState h op).mem = s.mem := by
  rw [State.bodyState, served_heard s]

theorem sec_bodyState (h : Hdr) (op : Nat) : (s.bodyState h op).sec = s.sec := by
  rw [State.bodyState, served_heard s]

theorem mem_settled_reply (r : Reply) : (s.reply c r).settle.mem = s.mem := by
  rw [settled_reply_hostOnly s c r]

theorem sec_settled_reply (r : Reply) : (s.reply c r).settle.sec = s.sec := by
  rw [settled_reply_hostOnly s c r]

/-- Settles O45: the body writes one run of bytes, and what takes and answers the command writes no byte of memory. -/
theorem fwChunksWriteTheirBytes : Obligations.FwChunksWriteTheirBytes := by
  unfold Obligations.FwChunksWriteTheirBytes
  refine ⟨?written, ?refused⟩
  case written =>
    intro s h pl f hs c u hi h5 hl hfw hif ht hfin hoff htot
    refine ⟨_, runCommand_of_body hs (bodyFwChunk_of_next hi hfw hif ht hfin h5 hl hoff htot), ?bytes, ?others, ?update,
      ?regs⟩
    case bytes => rw [mem_settled_reply, readBytes_chunkWritten]
    case others =>
      intro a ha
      rw [mem_settled_reply, read_chunkWritten_outside _ _ _ ha, mem_bodyState]
    case update =>
      rw [sec_settled_reply]
      rfl
    case regs =>
      have hkeeps : KeepsRegs s (chunkWritten u f pl) := (served_keepsRegs s c).trans (chunkWritten_keepsRegs u f pl)
      exact hkeeps.trans (settled_reply_keepsRegs _ _ h.ring.isLt)
  case refused =>
    intro s h pl f hs c u hi h5 hl hfw hif ht hfin hr
    refine ⟨_, runCommand_of_body hs (bodyFwChunk_of_outOfRange hi hfw hif ht hfin h5 hl hr), rfl, ?mem, ?sec⟩
    case mem => rw [mem_settled_reply, mem_bodyState]
    case sec => rw [sec_settled_reply, sec_bodyState]

/-! TASK_LOAD (R479), DBG_CHALLENGE and DBG_RESPONSE (R482, R483). -/

theorem bodyTaskLoad_of_free (hi : c.inst ≤ 7) (hl : pl.length = 5) (hn : s.sec.load = none) :
    bodyTaskLoad s c pl =
      (let v := s.setBit P.secTaskStat c.inst 1 false
       { v with sec := { v.sec with load := some (c, fieldAt pl 0 4, fieldAt pl 4 1) } }, .deferred) :=
  (if_neg (Nat.not_lt.mpr hi)).trans <| (if_neg (not_not_intro hl)).trans (if_neg (by rw [hn]; decide))

/-- The state after the four draws of a challenge. -/
def challengeDrawn (s : State) : State := s.draw.2.draw.2.draw.2.draw.2

/-- The bytes of a challenge: four random words, the UID and the level. -/
def challengeBytes (s : State) (level : Nat) : List Byte :=
  leBytes 4 s.draw.1.toNat ++ leBytes 4 s.draw.2.draw.1.toNat ++ leBytes 4 s.draw.2.draw.2.draw.1.toNat
    ++ leBytes 4 s.draw.2.draw.2.draw.2.draw.1.toNat ++ leBytes 8 ((challengeDrawn s).reg P.linkUid 0) ++ leBytes 1 level
    ++ zeros 3

theorem bodyDbgChallenge_of_unlocked (hl : pl.length = 1) (hlow : 1 ≤ fieldAt pl 0 1) (hhigh : fieldAt pl 0 1 ≤ 2)
    (hrng : s.isLive K.trngFail 0 = false) (hf : s.sec.fails < 3) :
    bodyDbgChallenge s c pl =
      (let v := challengeDrawn s
       let x : Challenge := { bytes := challengeBytes s (fieldAt pl 0 1), level := fieldAt pl 0 1, at_ := v.epoch }
       { v with sec := { v.sec with chal := some x } }, .ok (challengeBytes s (fieldAt pl 0 1))) :=
  (if_neg (not_not_intro hl)).trans <| (if_neg (by omega)).trans <| (if_neg (Bool.eq_false_iff.mp hrng)).trans
    (if_neg (Nat.not_le.mpr hf))

/-- The signature of a response is that of the challenge, with the debug key. -/
def responseAccepted (s : State) (x : Challenge) (pl : List Byte) : Bool :=
  s.slotFull 3 && Config.ecdsaOk (s.slotBytes 3) x.bytes pl

/-- A response to the challenge `x` opens its debug level, or is reported and counted. -/
def responseTaken (s : State) (x : Challenge) (pl : List Byte) : State :=
  if responseAccepted s x pl then
    State.setReg { s with sec := { s.sec with chal := none } } P.secStat 0 (putBits (s.reg P.secStat 0) 4 2 x.level)
  else
    let v := (State.report { s with sec := { s.sec with chal := none } } K.secAuth 0 s.epoch).bump P.secAuthFailCnt 0 top32
    let w := { v with sec := { v.sec with fails := v.sec.fails + 1 } }
    if 3 ≤ w.sec.fails then w.setBit P.secStat 0 7 true else w

theorem bodyDbgResponse_of_challenged {x : Challenge} (hl : pl.length = 64) (hx : s.sec.chal = some x)
    (he : expired x.at_ (sTicks (s.reg P.secDbgTmo 0)) s.epoch = false) :
    bodyDbgResponse s c pl =
      (responseTaken s x pl, if responseAccepted s x pl then .ok [] else .refuse St.auth) := by
  rw [bodyDbgResponse, if_neg (not_not_intro hl), hx]
  refine (if_neg (Bool.eq_false_iff.mp he)).trans ?_
  unfold responseTaken
  by_cases ha : responseAccepted s x pl = true
  · rw [if_pos ha, if_pos ha]
    exact if_pos ha
  · rw [if_neg ha, if_neg ha]
    exact if_neg ha

/-- Settles O6: each command is served, and its clause's hypotheses decide the branch that its body takes. -/
theorem securityCommandsRun : Obligations.SecurityCommandsRun := by
  unfold Obligations.SecurityCommandsRun
  refine ⟨?fwBegin, ?fwChunk, ?fwFinish, ?taskLoad, ?challenge, ?response⟩
  case fwBegin =>
    exact fun s h pl hs hi hl hrun hfw hlow hhigh =>
      runCommand_of_body hs (bodyFwBegin_of_free hi hl hrun hfw hlow hhigh)
  case fwChunk =>
    exact fun s h pl f hs hi h5 hl hfw hif ht hfin hoff htot =>
      runCommand_of_body hs (bodyFwChunk_of_next hi hfw hif ht hfin h5 hl hoff htot)
  case fwFinish =>
    exact fun s h pl f hs hi hl hfw hif ht hfin => runCommand_of_body hs (bodyFwFinish_of_open hi hfw hif ht hfin hl)
  case taskLoad => exact fun s h pl hs hi hl hn => runCommand_of_body hs (bodyTaskLoad_of_free hi hl hn)
  case challenge =>
    exact fun s h pl hs hl hlow hhigh hrng hf =>
      runCommand_of_body hs (bodyDbgChallenge_of_unlocked hl hlow hhigh hrng hf)
  case response => exact fun s h pl x hs hl hx he => runCommand_of_body hs (bodyDbgResponse_of_challenged hl hx he)

/-! Memory errors (R431): a single error is counted and reported, and a core counts its own read. -/

/-- The state after the count and the report of a single error, with the free value that tells whose read it was. -/
def sbeTold (s : State) (m : Nat) (addr : Word) : Word × State :=
  ((s.bump P.chkSbeCnt m top32).report K.eccSbe m s.epoch none addr.toNat).takeFree

section
variable {m : Fin 3} {addr : Word} (ha : s.awake = true) (hw : wordIn m.val addr.toNat = true)
include ha hw

/-- In SRAM and MRAM the read is a core's, or that of neither. -/
theorem eccSbe_of_core (hm : m.val ≠ 2) :
    exec (.eccSbe m addr) s = fin (if (sbeTold s m.val addr).1.toNat % 4 < 2 then
      (sbeTold s m.val addr).2.countEvent ((sbeTold s m.val addr).1.toNat % 4) 0x16 1 else (sbeTold s m.val addr).2) :=
  (fin_if_pos (by rw [ha, hw]; rfl)).trans
    (congrArg fin ((if_neg hm).trans (ite_congr (propext (and_iff_left hm)) (fun _ => rfl) fun _ => rfl)))

/-- A word of engine memory costs the runs under way four lane-cycles more (R292). -/
theorem eccSbe_of_engine (hm : m.val = 2) :
    exec (.eccSbe m addr) s = fin ((sbeTold s 2 addr).2.each (List.range 4) (fun s d => s.modDrv d (fun x =>
      { x with foc := { x.foc with run := x.foc.run.map (fun r =>
        if r.start.isSome then { r with cost := r.cost + 4 } else r) } }))) := by
  obtain rfl : m = 2 := Fin.ext hm
  exact (fin_if_pos (by rw [ha, hw]; rfl)).trans
    (congrArg fin ((if_pos rfl).trans (congrArg (State.each · _ _) (if_neg (fun h => h.2 rfl)))))

end

/-! The ends of an update and of a task load (R477, R479). -/

/-- What FW_FINISH leaves: an image that passes is valid, and may be preferred at boot; another is reported. The update
closes and its command is answered; in a recovery a good image restarts the chip. -/
def fwFinished (s : State) (f : FwUpdate) (c : Cmd) (flags : Nat) : State :=
  let t := (s.finishFw f).1
  let st := (s.finishFw f).2
  let svn := t.imageSvn (targetBase f.target)
  let u := if st = St.ok then
      (let v := t.setReg P.secSlotStat f.target (1 + svn * 2 ^ 16)
       if bit flags 0 && decide (f.target < 2) then v.setReg P.secBootPref 0 f.target else v)
    else t.report K.secAuth 0 t.epoch
  let v := u.closeFw.complete c st 0xFFFF (leBytes 2 svn)
  if v.recovery && st == St.ok then v.requestChip 3 else v

theorem fwFinishComplete_next {f : FwUpdate} {flags : Nat} (hfw : s.sec.fw = some f) (hfin : f.finish = some (c, flags))
    (ha : s.awake = true) : exec .fwFinishComplete s = fin (fwFinished s f c flags) := by
  show execFwFinishComplete s = _
  simp only [execFwFinishComplete, hfw, hfin]
  exact fin_if_neg (by simp [ha])

/-- The task has been loaded or refused, and its command is answered. -/
def taskLoaded (s : State) (c : Cmd) (off flags : Nat) : State :=
  let t := (s.loadTask c.inst off (bit flags 0)).1
  State.complete { t with sec := { t.sec with load := none } } c (s.loadTask c.inst off (bit flags 0)).2 0xFFFF []

theorem taskLoadComplete_next {off flags : Nat} (hload : s.sec.load = some (c, off, flags)) (ha : s.awake = true) :
    exec .taskLoadComplete s = fin (taskLoaded s c off flags) := by
  show execTaskLoadComplete s = _
  simp only [execTaskLoadComplete, hload]
  exact fin_if_neg (by simp [ha])

/-- A scrubber's next read is due, and the word is the last of its memory or not (R432). -/
theorem scrubRead_engine (ha : s.awake = true) (hd : s.chk.engAt + 64 ≤ s.epoch) :
    exec (.scrubRead true) s = fin (
      let n := s.chk.engNext + 1
      let t := if n = 65536 then s.setReg P.chkScrubEpoch 2 s.epoch else s
      { t with chk := { t.chk with engNext := n % 65536, engAt := t.epoch } }) :=
  (fin_if_neg (by simp [ha])).trans <| (fin_if_pos rfl).trans (fin_if_neg (Nat.not_lt.mpr hd))

theorem scrubRead_sram (ha : s.awake = true) (hd : s.chk.sramAt + 64 ≤ s.epoch) :
    exec (.scrubRead false) s = fin (
      let n := s.chk.sramNext + 1
      let t := if n = 1048576 then s.setReg P.chkScrubEpoch 0 s.epoch else s
      { t with chk := { t.chk with sramNext := n % 1048576, sramAt := t.epoch } }) :=
  (fin_if_neg (by simp [ha])).trans <| (fin_if_neg Bool.false_ne_true).trans (fin_if_neg (Nat.not_lt.mpr hd))

/-- Settles O13: each clause's hypotheses decide the tests of its command. -/
theorem checkAndSecurityEventsRun : Obligations.CheckAndSecurityEventsRun := by
  unfold Obligations.CheckAndSecurityEventsRun
  refine ⟨?periodic, ?mramScrub, ?engineLast, ?engineNext, ?sramLast, ?sbeCore, ?sbeEngine, ?dbeScan, ?dbeEngine,
    ?dbeOther, ?lockstep, ?trngFail, ?trngRetest, ?taskFault, ?fwTimeout, ?fwFinished, ?taskLoaded⟩
  case periodic => exact fun s ha he => fin_if_pos (by rw [ha, he]; rfl)
  case mramScrub => exact fun s ha he => fin_if_pos (by rw [ha, he]; rfl)
  case engineLast =>
    intro s ha hd hn
    rw [scrubRead_engine ha hd, hn]
    rfl
  case engineNext =>
    intro s ha hd hn
    rw [scrubRead_engine ha hd]
    dsimp only
    rw [if_neg (by omega), Nat.mod_eq_of_lt (by omega)]
    rfl
  case sramLast =>
    intro s ha hd hn
    rw [scrubRead_sram ha hd, hn]
    rfl
  case sbeCore => exact fun s m addr ha hw hm => eccSbe_of_core ha hw hm
  case sbeEngine => exact fun s m addr ha hw hm => eccSbe_of_engine ha hw hm
  case dbeScan => exact fun s m addr ha hw => fin_if_pos (by rw [ha, hw]; rfl)
  case dbeEngine => exact fun s m addr ha hw => fin_if_pos (by rw [ha, hw]; rfl)
  case dbeOther =>
    intro s m addr r ha hw hscan hengine
    refine (fin_if_pos (by rw [ha, hw]; rfl)).trans ?_
    cases r with
    | engine => exact absurd rfl hengine
    | core => rfl
    | scan => exact absurd rfl hscan
    | scrub => rfl
  case lockstep => exact fun s ha => fin_if_pos ha
  case trngFail => exact fun s ha => fin_if_pos ha
  case trngRetest => exact fun s passed ha hl he => fin_if_pos (by simp [ha, hl, he])
  case taskFault => exact fun s t ha hb => fin_if_pos (by rw [ha, hb]; rfl)
  case fwTimeout =>
    intro s f hfw ha hfin he
    show execFwTmoExpiry s = _
    rw [execFwTmoExpiry, hfw]
    exact fin_if_pos (by rw [ha, hfin, he]; rfl)
  case fwFinished => exact fun s f c flags hfw hfin ha => fwFinishComplete_next hfw hfin ha
  case taskLoaded => exact fun s c off flags hload ha => taskLoadComplete_next hload ha

end Sys2Proof.Proofs

/-! PROOFS. The Dexlia link: frames that are taken and duplicates that are discarded (R444 to R448), and the ports, the
delay and synchronisation timers, retransmission, enumeration replies and the waits of drives across devices (R441 to
R453, R458, R460). -/

namespace Sys2Proof.Proofs
open Sys2Proof Sys2Proof.Machine Sys2Proof.Laws

variable {s : State} {f : Frame} {t : Nat}

/-! Frames (R444 to R448). -/

/-- Settles O23: each command is the reception of its type, and a frame that is taken is handled in the state
`arrived` (`receive_of_takes`). -/
theorem linkFramesAreHandled : Obligations.LinkFramesAreHandled := by
  unfold Obligations.LinkFramesAreHandled
  refine ⟨?dlyReq, ?dlyResp, ?sync, ?heal, ?ack, ?mbox, ?ha, ?enum, ?join, ?gang, ?gangAck, ?report, ?duty, ?trouble⟩
  case dlyReq => exact fun s f h => congrArg fin (receive_of_takes s 0x02 f _ h)
  case dlyResp => exact fun s f h => congrArg fin (receive_of_takes s 0x03 f _ h)
  case sync => exact fun s f h => congrArg fin (receive_of_takes s 0x01 f _ h)
  case heal => exact fun s f h => congrArg fin (receive_of_takes s 0x04 f _ h)
  case ack => exact fun s f h => congrArg fin (receive_of_takes s 0x32 f _ h)
  case mbox => exact fun s f h => congrArg fin (receive_of_takes s 0x30 f _ h)
  case ha => exact fun s f h => congrArg fin (receive_of_takes s 0x20 f _ h)
  case enum => exact fun s f h => congrArg fin (receive_of_takes s 0x40 f _ h)
  case join => exact fun s f h => congrArg fin (receive_of_takes s 0x42 f _ h)
  case gang => exact fun s f h => congrArg fin (receive_of_takes s 0x43 f _ h)
  case gangAck => exact fun s f h => congrArg fin (receive_of_takes s 0x44 f _ h)
  case report => exact fun s f h => congrArg fin (receive_of_takes s 0x10 f _ h)
  case duty => exact fun s f h => congrArg fin (receive_of_takes s 0x11 f _ h)
  case trouble => exact fun s f h => congrArg fin (receive_of_takes s 0x31 f _ h)

/-- The command of a class 3 frame receives it. -/
theorem exec_class3 {i : Instr} (hi : class3Instr t f = some i) :
    (frameClass t).getD 3 = 3 ∧ ∃ handle, exec i s = fin (s.receive t f handle) := by
  unfold class3Instr at hi
  split at hi
  all_goals cases hi
  all_goals exact ⟨rfl, _, rfl⟩

/-- A duplicate of class 3 is forwarded and acknowledged, and not handled (R448). -/
theorem receive_of_duplicate (hc : (frameClass t).getD 3 = 3) (handle : State → State) (h : s.duplicate t f = true) :
    s.receive t f handle = (s.forwardFrame t f).ackFrame t f := by
  simp only [State.duplicate, Bool.and_eq_true, Bool.not_eq_true', bne_iff_ne, ne_eq, Option.isNone_iff_eq_none] at h
  obtain ⟨⟨⟨⟨⟨⟨hawake, hport⟩, hinject⟩, htakes⟩, hauth⟩, hmine⟩, hfresh⟩ := h
  simp [State.receive, hawake, hport, hinject, htakes, hauth, hmine, hfresh, hc]

/-- Settles O37: `receive_of_duplicate`; forwarding and acknowledging touch the link alone. -/
theorem duplicateFramesAreDiscarded : Obligations.DuplicateFramesAreDiscarded := by
  unfold Obligations.DuplicateFramesAreDiscarded
  intro s t f i hi hdup
  obtain ⟨hclass, handle, hexec⟩ := exec_class3 (s := s) hi
  refine ⟨((s.forwardFrame t f).ackFrame t f).settle, ?_, rfl, ?frame⟩
  · rw [hexec, receive_of_duplicate hclass handle hdup, fin]
  case frame =>
    have hlink : LinkOnly s ((s.forwardFrame t f).ackFrame t f) :=
      (forwardFrame_linkOnly s t f).trans (ackFrame_linkOnly _ t f)
    unfold LinkOnly at hlink
    rw [settle_eq, hlink]

/-! Ports and timers (R441 to R453). -/

/-- A live port is `up` or `spare`. -/
theorem portLive_of {p : Nat} (h : s.portState p = portUp ∨ s.portState p = portSpare) :
    (s.portState p == portUp || s.portState p == portSpare) = true := by
  rcases h with h | h <;> simp [h]

/-- A frame that fails its check at a port with no injection is counted there (R446). -/
theorem frameCrcFail_next {p : Fin 3} {why : FrameFault} (ha : s.awake = true) (ho : s.portState p.val ≠ portOff)
    (hn : s.injectFrame p.val = none) : exec (.frameCrcFail p why) s = fin (s.frameFail p.val why) := by
  refine (fin_if_neg (by simp [ha, ho])).trans ?_
  rw [hn]
  rfl

/-- With no enumeration under way the root only sends its SYNC. -/
theorem syncSendTimer_next (ha : s.awake = true) (hr : s.isRoot = true) (hj : s.joined = true)
    (hd : s.link.lastSync + usTicks (s.reg P.linkSyncInt 0) ≤ s.epoch) (hn : s.sendSync.link.enum = none) :
    exec .syncSendTimer s = fin { s.sendSync with link := { s.sendSync.link with lastSync := s.epoch } } := by
  refine (fin_if_pos (by simp [ha, hr, hj, hd])).trans ?_
  dsimp only
  rw [hn]
  rfl

theorem syncMissingTimeout_next (ha : s.awake = true) (hj : s.joined = true) (hr : s.isRoot = false)
    (hn : s.link.acq = none) (he : expired s.link.lastSync (3 * usTicks (s.reg P.linkSyncInt 0)) s.epoch = true) :
    exec .syncMissingTimeout s = fin ((s.report K.linkSync 0 s.epoch).setBit P.linkStat 0 2 false) := by
  show execSyncMissingTimeout s = _
  simp only [execSyncMissingTimeout, hn]
  exact fin_if_pos (by simp [ha, hj, hr, he])

/-! Enumeration replies (R449). -/

/-- What the root collects of a reply. -/
def replyOf (s : State) (f : Frame) : EnumReply :=
  { uid := fld f 0 8, epoch := fld f 8 8 + s.reg P.linkDly f.port.val / 32, up := fld f 17 1, hops := fld f 18 1,
    busy := fld f 19 1 != 0, peers := [fld f 20 8, fld f 28 8, fld f 36 8], at_ := s.epoch }

/-- A reply is collected by the root, and sent on upstream by another device. -/
def replyHandled (s : State) (f : Frame) : State :=
  if s.isRoot then
    match s.link.enum with
    | some e =>
      if e.joined || e.replies.any (fun r => r.uid == fld f 0 8) then s
      else { s with link := { s.link with enum := some { e with replies := e.replies ++ [replyOf s f] } } }
    | none => s
  else match s.link.enumSeen with
    | some (_, _, up) => if up = f.port.val then s else s.enqueue up (forwarded 0x41 f)
    | none => s

/-- A reply that its port takes, with its MAC where the link asks for one, is handled. -/
theorem enumReply_next (ha : s.awake = true) (ho : s.portState f.port.val ≠ portOff)
    (hn : s.injectFrame f.port.val = none) (ht : s.portTakes 0x41 f = true)
    (hauth : s.linkAuth = true → bit f.flags.toNat 0 = true) : exec (.enumReply f) s = fin (replyHandled s f) := by
  have hmac : ¬ (s.linkAuth = true ∧ bit f.flags.toNat 0 = false) := by
    rintro ⟨h, hb⟩
    rw [hauth h] at hb
    cases hb
  refine (fin_if_neg (by simp [ha, ho])).trans ?_
  rw [hn]
  exact (fin_if_neg (by simp [ht])).trans (fin_if_neg hmac)

/-- The root keeps the first reply of each UID until the devices join. -/
theorem replyHandled_of_root {e : EnumSt} (hr : s.isRoot = true) (hen : s.link.enum = some e) (hj : e.joined = false)
    (hnew : e.replies.any (fun r => r.uid == fld f 0 8) = false) :
    replyHandled s f = { s with link := { s.link with enum := some { e with replies := e.replies ++ [replyOf s f] } } } := by
  rw [replyHandled, if_pos hr, hen]
  exact if_neg (by rw [hj, hnew]; decide)

theorem replyHandled_of_other {a b up : Nat} (hr : s.isRoot = false) (hseen : s.link.enumSeen = some (a, b, up))
    (hup : up ≠ f.port.val) : replyHandled s f = s.enqueue up (forwarded 0x41 f) := by
  rw [replyHandled, if_neg (by simp [hr]), hseen]
  exact if_neg hup

/-! Reports of members (R460). -/

/-- The wait for the reports of a run ends: the home's input stage takes what has come, and each missing report is
late. A full run of late boundaries is reported. -/
def reportsLate (s : State) (d : Nat) (at_ missing : Nat) : State :=
  let t := (s.homeReady d at_).bumpBy P.linkRepLate d top32 missing
  let n := Smap.get (fun _ => 0) t.link.lateRun d + 1
  let run := if n = t.reg P.linkLateMax 0 then 0 else n
  let u := { t with link := { t.link with lateRun := Smap.set (fun _ => 0) t.link.lateRun d run } }
  if n = t.reg P.linkLateMax 0 then u.report K.linkLate d u.epoch else u

/-- The members whose report for the boundary under way has not come. -/
def missingReports (s : State) (d : Nat) : List Nat := (s.members d).filter (fun v => !s.reportIn v d)

theorem reportWaitExpiry_next {d : Fin 4} {r : Run} (hr : (s.drv d.val).foc.run = some r) (hm : s.pwr.mode = .full)
    (hrole : s.role d.val = 2) (hready : r.ready = false)
    (he : expired r.boundary (s.reg P.linkWait d.val) s.epoch = true) :
    exec (.reportWaitExpiry d) s = fin (
      if missingReports s d.val = [] then s.homeReady d.val (r.boundary + s.reg P.linkWait d.val)
      else reportsLate s d.val (r.boundary + s.reg P.linkWait d.val) (missingReports s d.val).length) := by
  show execReportWaitExpiry d s = _
  simp only [execReportWaitExpiry, hr]
  exact fin_if_pos (by simp [hm, hrole, hready, he])

/-- Settles O22: each clause's hypotheses decide the tests of its command. -/
theorem linkPortsAndTimersRun : Obligations.LinkPortsAndTimersRun := by
  unfold Obligations.LinkPortsAndTimersRun
  refine ⟨?portUp, ?portDown, ?dlyRespTimeout, ?dlyReqTimer, ?clockLoss, ?portFree, ?crcFail, ?syncSend, ?syncMissing,
    ?retransmit, ?segTimeout, ?collectEnd, ?gangAckTimeout, ?reportsIn, ?reportsMissing, ?replyAtRoot, ?replyOnward⟩
  case portUp =>
    exact fun s p inverted ha hst hc hx => fin_if_pos (by rcases hst with h | h <;> simp [ha, h, hc, hx])
  case portDown => exact fun s p ha hst => fin_if_pos (by rw [ha, portLive_of hst]; rfl)
  case dlyRespTimeout => exact fun s p ha hst he => fin_if_pos (by rw [ha, portLive_of hst, he]; rfl)
  case dlyReqTimer => exact fun s p ha ho hd => fin_if_pos ⟨ha, ho, hd⟩
  case clockLoss => exact fun s ha hb => fin_if_pos (by rw [ha, hb]; rfl)
  case portFree => exact fun s p ha => fin_if_pos ha
  case crcFail => exact fun s p why ha ho hn => frameCrcFail_next ha ho hn
  case syncSend => exact fun s ha hr hj hd hn => syncSendTimer_next ha hr hj hd hn
  case syncMissing => exact fun s ha hj hr hn he => syncMissingTimeout_next ha hj hr hn he
  case retransmit => exact fun s p ha => fin_if_neg (by simp [ha])
  case segTimeout =>
    intro s src m hm ha he
    show execMboxSegTimeout src s = _
    simp only [execMboxSegTimeout, hm]
    exact fin_if_pos (by rw [ha, he]; rfl)
  case collectEnd =>
    intro s e hen ha hj he
    show execEnumCollectEnd s = _
    rw [execEnumCollectEnd, hen]
    exact fin_if_pos (by rw [ha, hj, he]; rfl)
  case gangAckTimeout =>
    intro s d t l hw ha he
    show execGangAckTimeout d s = _
    rw [execGangAckTimeout, hw]
    exact fin_if_pos (by rw [ha, he]; rfl)
  case reportsIn =>
    exact fun s d r hr hm hrole hready he hl => (reportWaitExpiry_next hr hm hrole hready he).trans (fin_if_pos hl)
  case reportsMissing =>
    exact fun s d r hr hm hrole hready he hl => (reportWaitExpiry_next hr hm hrole hready he).trans (fin_if_neg hl)
  case replyAtRoot =>
    exact fun s f e ha ho hn ht hauth hr hen hj hnew =>
      (enumReply_next ha ho hn ht hauth).trans (congrArg fin (replyHandled_of_root hr hen hj hnew))
  case replyOnward =>
    exact fun s f a b up ha ho hn ht hauth hr hseen hup =>
      (enumReply_next ha ho hn ht hauth).trans (congrArg fin (replyHandled_of_other hr hseen hup))

end Sys2Proof.Proofs

/-! PROOFS. Performance counters: overflows, instruction samples and dumps (R493 to R505). -/

namespace Sys2Proof.Proofs
open Sys2Proof Sys2Proof.Machine Sys2Proof.Laws

/-- Settles O21: each clause's hypotheses decide the tests of its command, and of the dump at the end of its tick. -/
theorem perfCommandsRun : Obligations.PerfCommandsRun := by
  unfold Obligations.PerfCommandsRun
  refine ⟨?overflow, ?sample, ?dumpTick, ?dump⟩
  case overflow =>
    exact fun s e two ha hc hh he hn => fin_if_pos (by rw [ha, hc, hh, bne_iff_ne.mpr he, decide_eq_true hn]; rfl)
  case sample =>
    exact fun s c r ha hen hh hsusp => fin_if_neg (by rcases hsusp with h | h <;> simp [ha, hen, hh, h])
  case dumpTick => exact fun s h => fin_if_pos h
  case dump => exact fun s h => if_neg (by rw [h]; decide)

end Sys2Proof.Proofs
